-- ==== Sys2Proof/Word.lean ====
section
/-! DEFINITION. Word.lean: the word types and their plainest arithmetic (00_scope R2, 04_arithmetic R82, R83). -/

namespace Sys2Proof

/-- A byte of memory. -/
abbrev Byte := BitVec 8
/-- A 32-bit element of a vector register, an instruction word or a clause header. -/
abbrev W32 := BitVec 32
/-- A 64-bit scalar register or state register. -/
abbrev W64 := BitVec 64
/-- A set of home lanes 0 to 63; bit `i` is lane `i` (R53). -/
abbrev Lanes := BitVec 64
/-- A 7-bit operand code (R66). -/
abbrev Code := BitVec 7

/-- The members of a lane set below `width`, in ascending order. -/
def lanesOf (width : Nat) (l : Lanes) : List Nat :=
  (List.range width).filter fun i => l.getLsbD i

/-- The set that holds lanes 0 to `width` − 1. -/
def allLanes (width : Nat) : Lanes := BitVec.ofNat 64 (2 ^ width - 1)

/-- The set that holds one lane. -/
def oneLane (i : Nat) : Lanes := BitVec.ofNat 64 (2 ^ i)

/-- The set of the lanes of a list. -/
def lanesFrom (xs : List Nat) : Lanes := xs.foldl (fun a i => a ||| oneLane i) 0

end Sys2Proof
end

