-- ==== Sys2Proof/Syntax.lean ====
section
/-! DEFINITION. Syntax.lean: the instruction formats of 03_encoding R73 to R75, the payloads of the device's events, and
`Instr`, one constructor for every row of spec/opcode_table.json: the 275 instruction encodings and the 90 events that
95_what_each_step_holds.md calls steps of the part. An instruction carries its fields as the format lays them out; an
event carries what identifies it (which team, which access) and what the world outside the model brings with it (a
sensor reading, a host's request). -/

namespace Sys2Proof

/-- The class of a clause (R70). -/
inductive Cls where
  | s | v | m | x | e | y | k
  deriving DecidableEq, Repr

/-- The number a class has in a clause header's CLASS field (R70). -/
def Cls.code : Cls → Nat
  | .s => 0 | .v => 1 | .m => 2 | .x => 3 | .e => 4 | .y => 5 | .k => 6

/-- Format A3 (R73). -/
structure A3 where
  d : Code
  a : Code
  ea : BitVec 1
  b : Code
  eb : BitVec 1
  p : BitVec 2
  deriving DecidableEq, Repr

/-- Format AI (R73). -/
structure AI where
  d : Code
  a : Code
  ea : BitVec 1
  imm : BitVec 10
  deriving DecidableEq, Repr

/-- Format A4 (R73): the first word as A3, then C, EC, RM, SAT, TY and IMM16. -/
structure A4 where
  d : Code
  a : Code
  ea : BitVec 1
  b : Code
  eb : BitVec 1
  p : BitVec 2
  c : Code
  ec : BitVec 1
  rm : BitVec 3
  sat : BitVec 1
  ty : BitVec 4
  imm : BitVec 16
  deriving DecidableEq, Repr

/-- Format AL (R73): the first word as A3, then IMM32. -/
structure AL where
  d : Code
  a : Code
  ea : BitVec 1
  b : Code
  eb : BitVec 1
  p : BitVec 2
  imm : W32
  deriving DecidableEq, Repr

/-- Format MS (R73). -/
structure MS where
  t : Code
  a : Code
  ea : BitVec 1
  trk : BitVec 4
  sp : BitVec 2
  cp : BitVec 2
  p : BitVec 2
  deriving DecidableEq, Repr

/-- Format ML (R73): the first word as MS, then X, EX, SC and OFF22. -/
structure ML where
  t : Code
  a : Code
  ea : BitVec 1
  trk : BitVec 4
  sp : BitVec 2
  cp : BitVec 2
  p : BitVec 2
  x : Code
  ex : BitVec 1
  sc : BitVec 2
  off : BitVec 22
  deriving DecidableEq, Repr

/-- Format BR (R73). -/
structure BR where
  a : Code
  ea : BitVec 1
  off : BitVec 17
  deriving DecidableEq, Repr

/-- `split` (R74): BR, then zero[31:17] and MEET. -/
structure SplitF where
  a : Code
  ea : BitVec 1
  off : BitVec 17
  z : BitVec 15
  meet : BitVec 17
  deriving DecidableEq, Repr

/-- Format XM (R73). -/
structure XM where
  c : BitVec 3
  a : BitVec 6
  pl : BitVec 3
  spl : BitVec 3
  fmt : BitVec 4
  ru : BitVec 1
  sel : BitVec 5
  deriving DecidableEq, Repr

/-- Format XR (R73). -/
structure XR where
  h : BitVec 4
  a : Code
  ea : BitVec 1
  pl : BitVec 3
  z : BitVec 10
  deriving DecidableEq, Repr

/-- Format XE (R73). -/
structure XE where
  c : BitVec 3
  d : Code
  z : BitVec 15
  deriving DecidableEq, Repr

/-- Format E (R73). -/
structure E where
  h : BitVec 4
  a : Code
  b : Code
  c : Code
  deriving DecidableEq, Repr

/-- Format Y (R73). -/
structure Y where
  n : BitVec 5
  a : Code
  b : Code
  imm : BitVec 6
  deriving DecidableEq, Repr

/-- `recruit` (R74): Y, then ENTRY, D, zero[7:6] and XB. -/
structure RecruitF where
  n : BitVec 5
  a : Code
  b : Code
  imm : BitVec 6
  entry : BitVec 17
  d : Code
  z : BitVec 2
  xb : BitVec 6
  deriving DecidableEq, Repr

/-- Format K (R73). -/
structure K where
  d : Code
  srn : BitVec 12
  imm : BitVec 6
  deriving DecidableEq, Repr

/-- A grid: its partition and its launch token (R291). -/
structure GridId where
  part : Nat
  tok : Nat
  deriving DecidableEq, Repr

/-- A team of a grid, by its index (R23). -/
structure TeamId where
  grid : GridId
  team : Nat
  deriving DecidableEq, Repr

/-- A group of a team, by its index (R21). -/
structure GroupId where
  team : TeamId
  grp : Nat
  deriving DecidableEq, Repr

/-- The eight 64-bit words Q0 to Q7 of a launch record (R289). -/
structure LaunchWords where
  q0 : W64
  q1 : W64
  q2 : W64
  q3 : W64
  q4 : W64
  q5 : W64
  q6 : W64
  q7 : W64
  deriving DecidableEq, Repr

/-- A directive that the loader carries out (R402, R403): a page with its descriptor (R112), the data position, values of 1, 2 or 4 bytes
as they are encoded, words and zeros, alignment, and a launch record with its priority. -/
inductive LoadItem where
  | page (va : Nat) (desc : W64)
  | data (a : Nat)
  | values (size : Nat) (l : List Nat)
  | fill (n : Nat) (v : W32)
  | zero (n : Nat)
  | align (n : Nat)
  | launch (prio : Nat) (rec : LaunchWords)
  deriving DecidableEq, Repr

/-- A section of a boot image as the manifest describes it (R316 steps 4 and 5). -/
structure ImageSection where
  digest : List Byte
  matchesManifest : Bool
  deriving DecidableEq, Repr

/-- A partition of the signed image's configuration (R308, R316 step 7; COMMIT.RATIO of R147). -/
structure PartConfig where
  first : Nat
  tiles : Nat
  ratio : Nat
  ports : List Nat
  deriving DecidableEq, Repr

/-- What the boot sequence finds (R316): the straps, the network's answers, the checks, the sections and the configuration. -/
structure BootImage where
  slotNumber : Nat
  macOffset : Nat
  ports : List Nat
  dhcpAnswered : Bool
  fetched : Bool
  vendorSigned : Bool
  ownerDigest : List Byte
  ownerSigned : Bool
  flashUnsealed : Bool
  sections : List ImageSection
  parts : List PartConfig
  deriving DecidableEq, Repr

/-- A backing region (R368): its range, the descriptor bits of its pages, and its source in host memory. -/
structure BackingRegion where
  va : Nat
  len : Nat
  rights : W64
  src : Nat
  deriving DecidableEq, Repr

/-- What the signal box does with a fault record (R333, R334). -/
inductive Action where
  | resume | resumeAt | killTeam | relaunchTeam | hold | recover
  deriving DecidableEq, Repr

/-- The base of an event queue (R311): a context VA, or a host IOVA for a queue the host reads. -/
inductive QueueBase where
  | va (a : Nat)
  | iova (a : Nat)
  deriving DecidableEq, Repr

/-- A request to create a context (R311, R334, R368, R141): what its creator names. -/
structure ContextRequest where
  asid : Nat
  part : Nat
  budget : Nat
  pantryHome : Nat
  queues : List QueueBase
  notify : Option Nat
  backing : List BackingRegion
  actions : List (Nat × Action)
  deriving DecidableEq, Repr

/-- An entry of a rank-set table (R314): the number of ranks, the device's own rank, and the port towards each peer. -/
structure RankSet where
  ranks : Nat
  own : Nat
  ports : List (Nat × Nat)
  deriving DecidableEq, Repr

/-- A synonym (R116): an alias range of one ASID and the canonical range it stands for. -/
structure Synonym where
  asid : Nat
  va : Nat
  len : Nat
  canonAsid : Nat
  canonVa : Nat
  deriving DecidableEq, Repr

/-- What an Iluros flit carries for a collective (R276, R277): elements of one rank for the `idx`-th collective of a rank
set, the elements of a send, or the news that a rank failed it (21 R377). -/
inductive FlitBody where
  | reduce (rset idx rank : Nat) (elems : List W32)
  | send (rset rank idx ty count : Nat) (elems : List W32)
  | failed (rset idx code : Nat)
  | management
  deriving DecidableEq, Repr

/-- A flit as the model sees it (R313): its virtual channel, its pause and resume marks, the acknowledgement it carries
for the other direction, and its payload. -/
structure Flit where
  vc : Nat
  seq : Nat
  pause : Option Nat
  resume : Option Nat
  ack : Option Nat
  body : FlitBody
  deriving DecidableEq, Repr

/-- Why a word or a header is not an instruction its clause allows (R345, R346, R347, R348). -/
inductive WordFault where
  /-- HDR with its DETAIL 1 to 5. -/
  | hdr (detail : Nat)
  /-- ENC with its DETAIL 1 to 3. -/
  | enc (detail : Nat)
  /-- CLASS with the set of classes that allocate the opcode. -/
  | cls (detail : Nat)
  deriving DecidableEq, Repr

/-- One constructor per row of spec/opcode_table.json: the instructions in table order, then 31 of their two-word forms
(Lean's run time builds only the first 244 constructors that carry fields), then the events. -/
inductive Instr where
  /-- `s.add` (R178): Adds two 64-bit scalar operands modulo 2^64. -/
  | sAdd (f : A3)
  /-- `s.sub` (R178): Subtracts two 64-bit scalar operands modulo 2^64. -/
  | sSub (f : A3)
  /-- `s.mul` (R178): Multiplies two scalar operands and keeps the low 64 bits. -/
  | sMul (f : A3)
  /-- `s.mulh.i` (R178): Returns bits 127:64 of the signed scalar product. -/
  | sMulhI (f : A3)
  /-- `s.mulh.n` (R178): Returns bits 127:64 of the natural scalar product. -/
  | sMulhN (f : A3)
  /-- `s.div.i` (R178): Signed scalar division truncating towards zero, with defined results for zero divisor and overflow. -/
  | sDivI (f : A3)
  /-- `s.div.n` (R178): Natural scalar division, all ones for a zero divisor. -/
  | sDivN (f : A3)
  /-- `s.and` (R178): Bitwise AND of two scalar operands. -/
  | sAnd (f : A3)
  /-- `s.or` (R178): Bitwise OR of two scalar operands. -/
  | sOr (f : A3)
  /-- `s.xor` (R178): Bitwise XOR of two scalar operands. -/
  | sXor (f : A3)
  /-- `s.shl` (R178): Shifts a scalar left by b[5:0]. -/
  | sShl (f : A3)
  /-- `s.shr.n` (R178): Logical scalar right shift by b[5:0]. -/
  | sShrN (f : A3)
  /-- `s.shr.i` (R178): Arithmetic scalar right shift by b[5:0]. -/
  | sShrI (f : A3)
  /-- `s.min.i` (R178): Lesser of two scalars as i64. -/
  | sMinI (f : A3)
  /-- `s.max.i` (R178): Greater of two scalars as i64. -/
  | sMaxI (f : A3)
  /-- `s.min.n` (R178): Lesser of two scalars as n64. -/
  | sMinN (f : A3)
  /-- `s.max.n` (R178): Greater of two scalars as n64. -/
  | sMaxN (f : A3)
  /-- `s.seq` (R178): Writes 1 when the scalars are equal, else 0. -/
  | sSeq (f : A3)
  /-- `s.sne` (R178): Writes 1 when the scalars differ, else 0. -/
  | sSne (f : A3)
  /-- `s.slt.i` (R178): Writes 1 when a < b as i64. -/
  | sSltI (f : A3)
  /-- `s.slt.n` (R178): Writes 1 when a < b as n64. -/
  | sSltN (f : A3)
  /-- `s.sle.i` (R178): Writes 1 when a <= b as i64. -/
  | sSleI (f : A3)
  /-- `s.sle.n` (R178): Writes 1 when a <= b as n64. -/
  | sSleN (f : A3)
  /-- `s.clz` (R178): Counts leading zero bits of a scalar. -/
  | sClz (f : A3)
  /-- `s.popc` (R178): Counts set bits of a scalar. -/
  | sPopc (f : A3)
  /-- `s.mov` (R178): Copies a scalar operand. -/
  | sMov (f : A3)
  /-- `s.rdlane` (R179): Reads one thread's element of a vector register into a scalar, deferring the copy if the source is empty.
  -/
  | sRdlane (f : A3)
  /-- `s.sel` (R180): Selects a or b by whether c is non-zero. -/
  | sSel (f : A4)
  /-- `s.addsh` (R180): Adds a to b shifted left by an immediate 0 to 7. -/
  | sAddsh (f : A4)
  /-- `s.bfx` (R180): Extracts a bit field with zero or sign extension. -/
  | sBfx (f : A4)
  /-- `s.addi` (R181): Adds a sign-extended 10-bit immediate to a scalar. -/
  | sAddi (f : AI)
  /-- `s.andi` (R181): ANDs a scalar with a sign-extended immediate. -/
  | sAndi (f : AI)
  /-- `s.ori` (R181): ORs a scalar with a sign-extended immediate. -/
  | sOri (f : AI)
  /-- `s.xori` (R181): XORs a scalar with a sign-extended immediate. -/
  | sXori (f : AI)
  /-- `s.shli` (R181): Shifts a scalar left by an immediate count. -/
  | sShli (f : AI)
  /-- `s.shri.n` (R181): Logical scalar right shift by an immediate count. -/
  | sShriN (f : AI)
  /-- `s.shri.i` (R181): Arithmetic scalar right shift by an immediate count. -/
  | sShriI (f : AI)
  /-- `s.li` (R182): Loads a sign-extended 32-bit immediate into a scalar register. -/
  | sLi (f : AL)
  /-- `s.lih` (R182): Writes a 32-bit immediate into the high half of a scalar register. -/
  | sLih (f : AL)
  /-- `br` (R183): Moves the cohort to the target clause. -/
  | br (f : BR)
  /-- `br.z` (R184): Branches the cohort, or per thread, when the operand is zero. -/
  | brZ (f : BR)
  /-- `br.nz` (R184): Branches the cohort, or per thread, when the operand is not zero. -/
  | brNz (f : BR)
  /-- `br.far` (R185): Branches to a clause header given by a 32-bit low address. -/
  | brFar (f : AL)
  /-- `call` (R186): Writes the return address per thread, raises call depth and moves the cohort to the target. -/
  | call (f : BR)
  /-- `ret` (R187): Returns each thread to its address, lowers depth, and divides the cohort by target. -/
  | ret (f : BR)
  /-- `jmp.v` (R187): Jumps each thread to its own address, dividing the cohort by target. -/
  | jmpV (f : BR)
  /-- `split` (R26): Pushes meeting registers and divides the cohort into taken and fall-through cohorts. -/
  | split (f : SplitF)
  /-- `meet` (R27): Sets every cohort thread's meeting register without pushing. -/
  | meet (f : BR)
  /-- `join` (R28): Threads arrive at their meeting and wait for release. -/
  | join (f : BR)
  /-- `exit` (R190): Releases on all tracks, shuts rows, waits for engines and ends the whole group. -/
  | exit (f : BR)
  /-- `m.ballot` (R191): Sets mask bits for cohort threads whose operand is non-zero. -/
  | mBallot (f : A3)
  /-- `m.and` (R192): ANDs two masks. -/
  | mAnd (f : A3)
  /-- `m.or` (R192): ORs two masks. -/
  | mOr (f : A3)
  /-- `m.andn` (R192): ANDs a mask with the complement of another. -/
  | mAndn (f : A3)
  /-- `m.xor` (R192): XORs two masks. -/
  | mXor (f : A3)
  /-- `m.cnt` (R193): Counts set bits of a mask. -/
  | mCnt (f : A3)
  /-- `m.first` (R193): Returns the lowest set home lane of a mask, or all ones. -/
  | mFirst (f : A3)
  /-- `m.set` (R193): Sets a mask from a scalar. -/
  | mSet (f : A3)
  /-- `m.get` (R193): Reads a mask zero-extended into a register. -/
  | mGet (f : A3)
  /-- `nop` (R194): Changes no state. -/
  | nop (f : A3)
  /-- `v.add` (R202): Per-thread 32-bit wrapping add. -/
  | vAdd (f : A3)
  /-- `v.sub` (R202): Per-thread 32-bit wrapping subtract. -/
  | vSub (f : A3)
  /-- `v.mul` (R202): Per-thread 32-bit wrapping multiply. -/
  | vMul (f : A3)
  /-- `v.mulh.i` (R202): High 32 bits of the signed 64-bit product. -/
  | vMulhI (f : A3)
  /-- `v.and` (R202): Per-thread bitwise AND. -/
  | vAnd (f : A3)
  /-- `v.or` (R202): Per-thread bitwise OR. -/
  | vOr (f : A3)
  /-- `v.xor` (R202): Per-thread bitwise XOR. -/
  | vXor (f : A3)
  /-- `v.shl` (R202): Per-thread left shift by b[4:0]. -/
  | vShl (f : A3)
  /-- `v.shr.n` (R202): Per-thread logical right shift. -/
  | vShrN (f : A3)
  /-- `v.shr.i` (R202): Per-thread arithmetic right shift. -/
  | vShrI (f : A3)
  /-- `v.min.i` (R202): Per-thread lesser as i32. -/
  | vMinI (f : A3)
  /-- `v.max.i` (R202): Per-thread greater as i32. -/
  | vMaxI (f : A3)
  /-- `v.min.n` (R202): Per-thread lesser as n32. -/
  | vMinN (f : A3)
  /-- `v.max.n` (R202): Per-thread greater as n32. -/
  | vMaxN (f : A3)
  /-- `v.adds.i` (R202): Per-thread saturating i32 add. -/
  | vAddsI (f : A3)
  /-- `v.clz` (R202): Per-thread count of leading zeros. -/
  | vClz (f : A3)
  /-- `v.popc` (R202): Per-thread count of set bits. -/
  | vPopc (f : A3)
  /-- `v.mad` (R203): Per-thread a*b+c modulo 2^32. -/
  | vMad (f : A4)
  /-- `v.addsh` (R203): Per-thread a + (b << k). -/
  | vAddsh (f : A4)
  /-- `v.cmp.eq` (R204): Writes mask bits where a equals b bitwise. -/
  | vCmpEq (f : A3)
  /-- `v.cmp.ne` (R204): Writes mask bits where a differs from b. -/
  | vCmpNe (f : A3)
  /-- `v.cmp.lt.i` (R204): Writes mask bits where a < b as i32. -/
  | vCmpLtI (f : A3)
  /-- `v.cmp.le.i` (R204): Writes mask bits where a <= b as i32. -/
  | vCmpLeI (f : A3)
  /-- `v.cmp.lt.n` (R204): Writes mask bits where a < b as n32. -/
  | vCmpLtN (f : A3)
  /-- `v.cmp.le.n` (R204): Writes mask bits where a <= b as n32. -/
  | vCmpLeN (f : A3)
  /-- `v.fcmp.eq` (R204): Writes mask bits where a equals b as f32. -/
  | vFcmpEq (f : A3)
  /-- `v.fcmp.lt` (R204): Writes mask bits where a < b as f32. -/
  | vFcmpLt (f : A3)
  /-- `v.fcmp.le` (R204): Writes mask bits where a <= b as f32. -/
  | vFcmpLe (f : A3)
  /-- `v.sel` (R205): Per-thread select by mask bit. -/
  | vSel (f : A4)
  /-- `v.movi` (R206): Writes a sign-extended 10-bit immediate to every selected thread. -/
  | vMovi (f : AI)
  /-- `v.li` (R206): Writes a 32-bit immediate to every selected thread. -/
  | vLi (f : AL)
  /-- `v.mov` (R206): Copies a register, keeping its tag. -/
  | vMov (f : A3)
  /-- `v.iota` (R207): Writes a + lane*b per thread. -/
  | vIota (f : A3)
  /-- `v.bcast` (R209): Broadcasts one cohort thread's value. -/
  | vBcast (f : A3)
  /-- `v.shuf` (R209): Each thread reads the lane its index names. -/
  | vShuf (f : A3)
  /-- `v.rot` (R209): Rotates values among the cohort's threads. -/
  | vRot (f : AI)
  /-- `v.wrlane` (R209): Writes one named thread's element. -/
  | vWrlane (f : A3)
  /-- `v.tagof` (R208): Writes a source's shape-tag code. -/
  | vTagof (f : A3)
  /-- `v.general` (R206): Copies a register and tags the result G. -/
  | vGeneral (f : A3)
  /-- `v.fadd` (R210): f32 add rounded RNE. -/
  | vFadd (f : A3)
  /-- `v.fsub` (R210): f32 subtract rounded RNE. -/
  | vFsub (f : A3)
  /-- `v.fmul` (R210): f32 multiply rounded RNE. -/
  | vFmul (f : A3)
  /-- `v.fma` (R210): Fused f32 a*b+D. -/
  | vFma (f : A3)
  /-- `v.fma4` (R211): Fused f32 a*b+c rounded by RM. -/
  | vFma4 (f : A4)
  /-- `v.fmin` (R210): f32 minimumNumber. -/
  | vFmin (f : A3)
  /-- `v.fmax` (R210): f32 maximumNumber. -/
  | vFmax (f : A3)
  /-- `v.fdiv` (R210): Correctly rounded f32 division. -/
  | vFdiv (f : A3)
  /-- `v.frcp` (R210): Correctly rounded f32 reciprocal. -/
  | vFrcp (f : A3)
  /-- `v.frsq` (R210): Correctly rounded f32 reciprocal square root. -/
  | vFrsq (f : A3)
  /-- `v.fsqrt` (R210): Correctly rounded f32 square root. -/
  | vFsqrt (f : A3)
  /-- `v.fexp2` (R210): Correctly rounded f32 2^a. -/
  | vFexp2 (f : A3)
  /-- `v.flog2` (R210): Correctly rounded f32 log2 a. -/
  | vFlog2 (f : A3)
  /-- `v.fclamp` (R211): f32 clamp by maximumNumber then minimumNumber. -/
  | vFclamp (f : A4)
  /-- `v.hadd` (R212): Packed 16-bit float add per element. -/
  | vHadd (f : A4)
  /-- `v.hmul` (R212): Packed 16-bit float multiply per element. -/
  | vHmul (f : A4)
  /-- `v.hfma` (R212): Packed 16-bit fused multiply-add per element. -/
  | vHfma (f : A4)
  /-- `v.cvt` (R213): Converts each thread's value between element types. -/
  | vCvt (f : A4)
  /-- `v.cvt.sr` (R214): Converts f32 to a narrow float with stochastic rounding. -/
  | vCvtSr (f : A4)
  /-- `v.pack` (R215): Converts two f32 values into one pair of narrow elements in D. -/
  | vPack (f : A4)
  /-- `v.unpack` (R216): Widens one narrow element to f32 or 32-bit integer. -/
  | vUnpack (f : A4)
  /-- `v.rnd` (R217): Per-thread random word from Rand. -/
  | vRnd (f : A3)
  /-- `v.rsum` (R218): Fixed-tree sum over the cohort. -/
  | vRsum (f : A4)
  /-- `v.rmax` (R218): Fixed-tree maximum over the cohort. -/
  | vRmax (f : A4)
  /-- `v.rmin` (R218): Fixed-tree minimum over the cohort. -/
  | vRmin (f : A4)
  /-- `v.scan` (R218): Ascending-lane prefix scan over the cohort. -/
  | vScan (f : A4)
  /-- `v.wmax` (R220): Maximum over a window with a witness byte per thread. -/
  | vWmax (f : A4)
  /-- `v.wmin` (R220): Minimum over a window with a witness. -/
  | vWmin (f : A4)
  /-- `v.wmed` (R220): Median over a window with a witness. -/
  | vWmed (f : A4)
  /-- `v.wsat` (R220): Saturating sum with a witness of first saturation. -/
  | vWsat (f : A4)
  /-- `v.wclamp` (R220): Clamp with a witness. -/
  | vWclamp (f : A4)
  /-- `v.adj` (R222): Routes a gradient through a live witness to the window registers. -/
  | vAdj (f : A4)
  /-- `ld.n8` (R228): One-word load of a zero-extended byte. -/
  | ldN8Ms (f : MS)
  /-- `ld.n8` (R228): Two-word load of a zero-extended byte with index and offset. -/
  | ldN8Ml (f : ML)
  /-- `ld.i8` (R228): One-word load of a sign-extended byte. -/
  | ldI8Ms (f : MS)
  /-- `ld.i8` (R228): Two-word load of a sign-extended byte. -/
  | ldI8Ml (f : ML)
  /-- `ld.n16` (R228): One-word load of a zero-extended halfword. -/
  | ldN16Ms (f : MS)
  /-- `ld.n16` (R228): Two-word load of a zero-extended halfword. -/
  | ldN16Ml (f : ML)
  /-- `ld.i16` (R228): One-word load of a sign-extended halfword. -/
  | ldI16Ms (f : MS)
  /-- `ld.i16` (R228): Two-word load of a sign-extended halfword. -/
  | ldI16Ml (f : ML)
  /-- `ld.b32` (R228): One-word load of 32 bits. -/
  | ldB32Ms (f : MS)
  /-- `ld.b32` (R228): Two-word load of 32 bits. -/
  | ldB32Ml (f : ML)
  /-- `ld.b64` (R228): One-word load of 64 bits into a pair or scalar. -/
  | ldB64Ms (f : MS)
  /-- `ld.b64` (R228): Two-word load of 64 bits. -/
  | ldB64Ml (f : ML)
  /-- `ld.b128` (R228): One-word load of 128 bits into a quadruple. -/
  | ldB128Ms (f : MS)
  /-- `ld.b128` (R228): Two-word load of 128 bits. -/
  | ldB128Ml (f : ML)
  /-- `st.b8` (R228): One-word store of a byte. -/
  | stB8Ms (f : MS)
  /-- `st.b8` (R228): Two-word store of a byte. -/
  | stB8Ml (f : ML)
  /-- `st.b16` (R228): One-word store of a halfword. -/
  | stB16Ms (f : MS)
  /-- `st.b16` (R228): Two-word store of a halfword. -/
  | stB16Ml (f : ML)
  /-- `st.b32` (R228): One-word store of 32 bits. -/
  | stB32Ms (f : MS)
  /-- `st.b32` (R228): Two-word store of 32 bits. -/
  | stB32Ml (f : ML)
  /-- `st.b64` (R228): One-word store of 64 bits. -/
  | stB64Ms (f : MS)
  /-- `st.b64` (R228): Two-word store of 64 bits. -/
  | stB64Ml (f : ML)
  /-- `st.b128` (R228): One-word store of 128 bits. -/
  | stB128Ms (f : MS)
  /-- `st.b128` (R228): Two-word store of 128 bits. -/
  | stB128Ml (f : ML)
  /-- `ld.acq.b32` (R230): One-word 32-bit load followed by an acquire on its track. -/
  | ldAcqB32Ms (f : MS)
  /-- `ld.acq.b64` (R230): One-word 64-bit acquire load. -/
  | ldAcqB64Ms (f : MS)
  /-- `st.rel.b32` (R230): One-word release on its track then a 32-bit store. -/
  | stRelB32Ms (f : MS)
  /-- `st.rel.b64` (R230): One-word 64-bit release store. -/
  | stRelB64Ms (f : MS)
  /-- `at.add.b32` (R231): One-word returning 32-bit atomic add at the home slice. -/
  | atAddB32Ms (f : MS)
  /-- `at.add.b64` (R231): One-word returning 64-bit atomic add. -/
  | atAddB64Ms (f : MS)
  /-- `at.min.i32` (R231): One-word atomic i32 minimum. -/
  | atMinI32Ms (f : MS)
  /-- `at.max.i32` (R231): One-word atomic i32 maximum. -/
  | atMaxI32Ms (f : MS)
  /-- `at.min.n32` (R231): One-word atomic n32 minimum. -/
  | atMinN32Ms (f : MS)
  /-- `at.max.n32` (R231): One-word atomic n32 maximum. -/
  | atMaxN32Ms (f : MS)
  /-- `at.and.b32` (R231): One-word atomic AND. -/
  | atAndB32Ms (f : MS)
  /-- `at.or.b32` (R231): One-word atomic OR. -/
  | atOrB32Ms (f : MS)
  /-- `at.xor.b32` (R231): One-word atomic XOR. -/
  | atXorB32Ms (f : MS)
  /-- `at.xchg.b32` (R231): One-word atomic 32-bit exchange. -/
  | atXchgB32Ms (f : MS)
  /-- `at.xchg.b64` (R231): One-word atomic 64-bit exchange. -/
  | atXchgB64Ms (f : MS)
  /-- `at.fadd.f32` (R231): One-word atomic f32 add rounded RNE. -/
  | atFaddF32Ms (f : MS)
  /-- `red.add.b32` (R233): One-word 32-bit add contribution placed in the stockpot. -/
  | redAddB32Ms (f : MS)
  /-- `red.add.b64` (R233): One-word 64-bit stockpot add. -/
  | redAddB64Ms (f : MS)
  /-- `red.fadd.f32` (R233): One-word f32 stockpot add. -/
  | redFaddF32Ms (f : MS)
  /-- `red.hadd.bf16x2` (R233): One-word packed bf16 stockpot add. -/
  | redHaddBf16x2Ms (f : MS)
  /-- `red.fmax.f32` (R233): One-word f32 stockpot maximum. -/
  | redFmaxF32Ms (f : MS)
  /-- `red.fmin.f32` (R233): One-word f32 stockpot minimum. -/
  | redFminF32Ms (f : MS)
  /-- `red.max.i32` (R233): One-word i32 stockpot maximum. -/
  | redMaxI32Ms (f : MS)
  /-- `red.flush` (R235): Drains the group's stockpot entries on a track in one group round. -/
  | redFlush (f : MS)
  /-- `fence.rel` (R236): Release on a track after draining its stockpot entries. -/
  | fenceRel (f : MS)
  /-- `fence.acq` (R236): Acquire on a track advancing the acquire epoch. -/
  | fenceAcq (f : MS)
  /-- `fence.xt` (R236): Holds later accesses until every earlier access on every track is performed. -/
  | fenceXt (f : MS)
  /-- `pf` (R237): One-word prefetch of lines into L2 and L1. -/
  | pfMs (f : MS)
  /-- `discard` (R238): Releases whole blocks of a range and zeroes partial bytes. -/
  | discard (f : ML)
  /-- `fill` (R238): Releases blocks of a range and sets them to a pattern. -/
  | fill (f : ML)
  /-- `w.st` (R240): One-word store of a live witness register as an image. -/
  | wStMs (f : MS)
  /-- `w.ld` (R240): One-word load of a witness image making the register live. -/
  | wLdMs (f : MS)
  /-- `fifo.push` (R241): One-word append to a bank FIFO, waiting while full. -/
  | fifoPushMs (f : MS)
  /-- `fifo.pop` (R241): One-word removal from a bank FIFO, waiting while empty. -/
  | fifoPopMs (f : MS)
  /-- `cst.set` (R257): Forms a consist of listed groups on a completion point. -/
  | cstSet (f : Y)
  /-- `cst.clr` (R258): Dissolves the group's consist after its pending joint operation. -/
  | cstClr (f : Y)
  /-- `mma` (R253): Matrix multiply of A rows by a platform B tile into an accumulator tile. -/
  | mma (f : XM)
  /-- `mma.q` (R253): Quantised matrix multiply with scales and zero points. -/
  | mmaQ (f : XM)
  /-- `mma.mx` (R253): MX block-scaled matrix multiply. -/
  | mmaMx (f : XM)
  /-- `acc.zero` (R259): Zeroes a whole accumulator tile and unsets its exponent. -/
  | accZero (f : XM)
  /-- `acc.read` (R259): Converts the cohort's tile rows into vector registers. -/
  | accRead (f : XM)
  /-- `acc.write` (R260): Sets the cohort's tile rows from registers. -/
  | accWrite (f : XM)
  /-- `acc.exp` (R259): Reads a tile's exponent. -/
  | accExp (f : XE)
  /-- `p.ld` (R262): Starts a 2 KiB load into a platform under a handle. -/
  | pLd (f : XR)
  /-- `p.zero` (R263): Writes zero to every byte of a platform. -/
  | pZero (f : XR)
  /-- `row.open` (R265): Takes an open-row table entry and starts activating a row slot's bank. -/
  | rowOpen (f : XR)
  /-- `row.take` (R266): Copies an open row into a platform over the full-row bus. -/
  | rowTake (f : XR)
  /-- `row.shut` (R267): Frees a row entry, idles the handle and schedules precharge. -/
  | rowShut (f : XR)
  /-- `cp` (R272): Tender copy of C bytes. -/
  | cp (f : E)
  /-- `cp.cvt` (R274): Tender conversion of a storage matrix into canonical B tiles. -/
  | cpCvt (f : E)
  /-- `cp.q` (R275): Tender quantisation of an f32 matrix with optional residues. -/
  | cpQ (f : E)
  /-- `cp.row` (R272): Tender copy of 2 KiB units into row slots and their DRAM rows. -/
  | cpRow (f : E)
  /-- `cp.dup` (R139): Makes destination blocks share or copy source blocks. -/
  | cpDup (f : E)
  /-- `coll.ar` (R277): Turntable all-reduce over a rank set. -/
  | collAr (f : E)
  /-- `coll.rs` (R277): Turntable reduce-scatter. -/
  | collRs (f : E)
  /-- `coll.ag` (R277): Turntable all-gather. -/
  | collAg (f : E)
  /-- `coll.send` (R277): Sends elements to a peer rank. -/
  | collSend (f : E)
  /-- `coll.recv` (R277): Receives the matching send from a peer rank. -/
  | collRecv (f : E)
  /-- `coll.norm` (R278): Computes a global L2 norm into a mailbox. -/
  | collNorm (f : E)
  /-- `bucket.arm` (R279): Arms a bucket that starts a collective when a byte count is reached. -/
  | bucketArm (f : E)
  /-- `h.test` (R280): Returns 1 if a handle is full, acting as an acquire when it is. -/
  | hTest (f : E)
  /-- `h.get` (R280): Returns a handle's token once it is not idle. -/
  | hGet (f : E)
  /-- `h.wait` (R280): Waits for the operation named by a token, then acquires. -/
  | hWait (f : E)
  /-- `h.cancel` (R339): Idles a handle or cancels its pending operation. -/
  | hCancel (f : E)
  /-- `h.bind` (R280): Binds a handle to a token. -/
  | hBind (f : E)
  /-- `launch` (R281): Submits a launch record to a launch queue. -/
  | launch (f : E)
  /-- `rdv.init` (R243): Sets a rendezvous point's expected count. -/
  | rdvInit (f : Y)
  /-- `rdv.arrive` (R243): Releases on all tracks and counts an arrival at a point. -/
  | rdvArrive (f : Y)
  /-- `rdv.wait` (R243): Waits for the group's phase of a point to complete. -/
  | rdvWait (f : Y)
  /-- `rdv.sync` (R243): Arrives and waits at a point as one instruction. -/
  | rdvSync (f : Y)
  /-- `gbar.arrive` (R244): Releases on all tracks and arrives at a grid barrier. -/
  | gbarArrive (f : Y)
  /-- `gbar.wait` (R244): Waits for a grid barrier phase and acquires. -/
  | gbarWait (f : Y)
  /-- `watch` (R245): Arms the group's monitor on a global line. -/
  | watch (f : Y)
  /-- `sleep` (R246): Stops the cohort until the monitor fires, a timeout or a resume. -/
  | sleep (f : Y)
  /-- `recruit` (R38): Each cohort thread borrows idle threads as helpers and runs the entry clause. -/
  | recruit (f : RecruitF)
  /-- `hnext` (R41): Hands out the next chunk index or -1. -/
  | hnext (f : Y)
  /-- `hdone` (R43): Ends a hosted helper and returns its host to the join wait. -/
  | hdone (f : Y)
  /-- `hjoin` (R43): Helper 0 waits for every hdone then writes the sum destinations. -/
  | hjoin (f : Y)
  /-- `hsum.f32` (R42): Deposits an f32 chunk contribution for a recruiter destination. -/
  | hsumF32 (f : Y)
  /-- `hsum.i32` (R42): Deposits an i32 chunk contribution for a recruiter destination. -/
  | hsumI32 (f : Y)
  /-- `yield` (R247): Lets the scheduler swap the group out. -/
  | yield (f : Y)
  /-- `sr.rd` (R284): Reads a state register into a register. -/
  | srRd (f : K)
  /-- `sr.wr` (R284): Writes a state register's RW fields. -/
  | srWr (f : K)
  /-- `trap` (R285): Stops the cohort and raises TRAP with a code. -/
  | trap (f : K)
  /-- `brk` (R285): Stops the cohort and raises BRK. -/
  | brk (f : K)
  /-- `cache.wb` (R286): Settles dirty lines of a range at the chosen level. -/
  | cacheWb (f : MS)
  /-- `cache.inv` (R286): Drops lines of a range, settling dirty L2 lines first. -/
  | cacheInv (f : MS)
  /-- `bank.mode` (R287): Moves a team bank to way, scratch or FIFO mode. -/
  | bankMode (f : K)
  /-- `evt.post` (R288): Releases and appends an event to a context queue. -/
  | evtPost (f : K)
  /-- `ld.acq.b32` (R230): Two-word 32-bit acquire load. -/
  | ldAcqB32Ml (f : ML)
  /-- `ld.acq.b64` (R230): Two-word 64-bit acquire load. -/
  | ldAcqB64Ml (f : ML)
  /-- `st.rel.b32` (R230): Two-word 32-bit release store. -/
  | stRelB32Ml (f : ML)
  /-- `st.rel.b64` (R230): Two-word 64-bit release store. -/
  | stRelB64Ml (f : ML)
  /-- `at.add.b32` (R231): Two-word returning 32-bit atomic add. -/
  | atAddB32Ml (f : ML)
  /-- `at.add.b64` (R231): Two-word returning 64-bit atomic add. -/
  | atAddB64Ml (f : ML)
  /-- `at.min.i32` (R231): Two-word atomic i32 minimum. -/
  | atMinI32Ml (f : ML)
  /-- `at.max.i32` (R231): Two-word atomic i32 maximum. -/
  | atMaxI32Ml (f : ML)
  /-- `at.min.n32` (R231): Two-word atomic n32 minimum. -/
  | atMinN32Ml (f : ML)
  /-- `at.max.n32` (R231): Two-word atomic n32 maximum. -/
  | atMaxN32Ml (f : ML)
  /-- `at.and.b32` (R231): Two-word atomic AND. -/
  | atAndB32Ml (f : ML)
  /-- `at.or.b32` (R231): Two-word atomic OR. -/
  | atOrB32Ml (f : ML)
  /-- `at.xor.b32` (R231): Two-word atomic XOR. -/
  | atXorB32Ml (f : ML)
  /-- `at.xchg.b32` (R231): Two-word atomic 32-bit exchange. -/
  | atXchgB32Ml (f : ML)
  /-- `at.xchg.b64` (R231): Two-word atomic 64-bit exchange. -/
  | atXchgB64Ml (f : ML)
  /-- `at.cas.b32` (R232): Atomic 32-bit compare-and-swap with the compare value in X. -/
  | atCasB32 (f : ML)
  /-- `at.cas.b64` (R232): Atomic 64-bit compare-and-swap. -/
  | atCasB64 (f : ML)
  /-- `at.fadd.f32` (R231): Two-word atomic f32 add. -/
  | atFaddF32Ml (f : ML)
  /-- `red.add.b32` (R233): Two-word 32-bit stockpot add. -/
  | redAddB32Ml (f : ML)
  /-- `red.add.b64` (R233): Two-word 64-bit stockpot add. -/
  | redAddB64Ml (f : ML)
  /-- `red.fadd.f32` (R233): Two-word f32 stockpot add. -/
  | redFaddF32Ml (f : ML)
  /-- `red.hadd.bf16x2` (R233): Two-word packed bf16 stockpot add. -/
  | redHaddBf16x2Ml (f : ML)
  /-- `red.fmax.f32` (R233): Two-word f32 stockpot maximum. -/
  | redFmaxF32Ml (f : ML)
  /-- `red.fmin.f32` (R233): Two-word f32 stockpot minimum. -/
  | redFminF32Ml (f : ML)
  /-- `red.max.i32` (R233): Two-word i32 stockpot maximum. -/
  | redMaxI32Ml (f : ML)
  /-- `red.xadd` (R234): Adds an f32 exactly into a 64-bit fixed-point element through the stockpot. -/
  | redXadd (f : ML)
  /-- `pf` (R237): Two-word prefetch. -/
  | pfMl (f : ML)
  /-- `w.st` (R240): Two-word witness image store. -/
  | wStMl (f : ML)
  /-- `w.ld` (R240): Two-word witness image load. -/
  | wLdMl (f : ML)
  /-- `fifo.push` (R241): Two-word bank FIFO append. -/
  | fifoPushMl (f : ML)
  /-- `fifo.pop` (R241): Two-word bank FIFO removal. -/
  | fifoPopMl (f : ML)
  /-- PANTRY_READ_RETURN (R145): A PANTRY.FREE or PANTRY.HELD reading returns from the pantry home and fills its destination. -/
  | pantryReadReturn (op : Nat)
  /-- RING_DOORBELL (R310): Host write of TAIL announces new launch records on a host ring. -/
  | ringDoorbell (part q tail : Nat)
  /-- CONTROL_REGISTER_WRITE (R309): A write to a control-window or state register with no row of its own. -/
  | controlRegisterWrite (part off : Nat) (v : W64)
  /-- HOST_RING_READ (R310): Timetable reads a host ring record, appends it to its queue and advances HEAD, resuming when the
  queue has room. -/
  | hostRingRead (part q : Nat)
  /-- RECORD_ELIGIBLE (R293): A queue head becomes eligible when its DEP grid completes. -/
  | recordEligible (part q : Nat)
  /-- DEPENDENT_RECORD_DROP (R294): A record whose DEP grid failed leaves its queue with an errored handle. -/
  | dependentRecordDrop (part q : Nat)
  /-- TEAM_PLACEMENT (R296): The dispatcher places the next team of the highest-priority eligible grid where it fits. -/
  | teamPlacement (part : Nat)
  /-- PREEMPTION (R304): A team is stopped, drained and saved to its save area and its cores freed. -/
  | preemption (t : TeamId)
  /-- TEAM_RESUME (R307): A pre-empted team is restored exactly and continues. -/
  | teamResume (t : TeamId)
  /-- SAVE_RESERVE_TIMEOUT (R306): A save reserve still short 10 ms after balloon requests fails the grid with CAPACITY. -/
  | saveReserveTimeout (part : Nat)
  /-- GRID_COMPLETION (R297): When its last team ends and deferred rounds are acknowledged, the grid's handle fills and its event
  is posted. -/
  | gridCompletion (g : GridId)
  /-- LOADER_LOAD (R397): The loader writes and settles every page before any launch. -/
  | loaderLoad (asid : Nat) (items : List LoadItem)
  /-- LOADER_SUBMIT (R292): The loader submits a launch record to its queue, waiting for room. -/
  | loaderSubmit (asid prio : Nat) (rec : LaunchWords)
  /-- ACTIVE_SET_ENTRY (R300): A pending ready group enters its quadrant's active set. -/
  | activeSetEntry (g : GroupId)
  /-- ACTIVE_PLACE_TIMEOUT (R300): An active group held 4,096 cc gives up its place to a waiting ready group. -/
  | activePlaceTimeout (g : GroupId)
  /-- JOIN_RELEASE (R28): When all owing threads have arrived, they pop meeting registers and are released as one cohort. -/
  | joinRelease (g : GroupId) (meet : Nat) (depth : Nat)
  /-- FORCED_RELEASE (R45): A due join release makes the hosted helper's hnext return -1 until its hdone. -/
  | forcedRelease (g : GroupId) (meet : Nat) (depth : Nat)
  /-- HJOIN_COMPLETE (R43): After the last hdone, helper sums are written, the frame freed and the recruiter continues. -/
  | hjoinComplete (g : GroupId) (rec : Nat)
  /-- JOINT_OPERATION_START (R256): A consist's or lone matrix operation starts once all latched instructions and platform writes
  are ready. -/
  | jointOperationStart (g : GroupId)
  /-- JOINT_OPERATION_COMPLETE (R48): A joint operation completes, updating tiles and completing one phase of its point. -/
  | jointOperationComplete (core run : Nat)
  /-- LOAD_RETURN (R61): Load values arrive and the destination becomes full once every thread's value is in. -/
  | loadReturn (op : Nat)
  /-- ACCESS_AT_HOME (R123): A home slice translates, checks and performs an arriving access in track order. -/
  | accessAtHome (op part : Nat)
  /-- STORE_ACK (R122): An acknowledgement from a home slice lowers the track's pending-store counter. -/
  | storeAck (op : Nat)
  /-- ATOMIC_RETURN (R231): A returning atomic's old value arrives and fills its destination. -/
  | atomicReturn (op : Nat)
  /-- RESERVATION (R142): The pantry home grants or refuses a reservation for a line first becoming dirty. -/
  | reservation (asid : Nat)
  /-- SETTLEMENT (R144): A dirty line is written back, encoded, relocated if resized and the pantry updated. -/
  | settlement (asid block : Nat)
  /-- RECALL (R121): An access held at an owned line is performed after the owner's write of that line. -/
  | recall (op part : Nat)
  /-- MONITOR_ARMED (R245): The home slice acknowledges a watch and the monitor is armed. -/
  | monitorArmed (g : GroupId)
  /-- SLEEP_TIMEOUT (R246): A sleep's timeout elapses and the cohort wakes with reason 2. -/
  | sleepTimeout (g : GroupId) (cid : Nat)
  /-- REDUCTION_DRAIN (R166): A stockpot entry is drained and its contributions applied at the home slice. -/
  | reductionDrain (op part : Nat)
  /-- RDV_PHASE_RELEASE (R243): After a phase's rendezvous rounds are acknowledged, its waiters are released. -/
  | rdvPhaseRelease (t : TeamId) (n : Nat)
  /-- GBAR_PHASE_COMPLETE (R244): A grid barrier phase completes when every team has started and arrived, releasing waiters. -/
  | gbarPhaseComplete (g : GridId) (n : Nat)
  /-- FIFO_RESUME (R241): A waiting push or pop proceeds when room or an entry appears. -/
  | fifoResume (g : GroupId) (cid : Nat)
  /-- BANK_MODE_SWITCH (R119): A bank changes mode once earlier accesses to it complete. -/
  | bankModeSwitch (pair bank : Nat)
  /-- TENDER_CHUNK_COMMIT (R272): A tender chunk that passed all checks is committed at its home slices. -/
  | tenderChunkCommit (eng : Nat)
  /-- ENGINE_OPERATION_COMPLETE (R270): An engine operation's reads and writes are performed and its handle fills with its token. -/
  | engineOperationComplete (eng : Nat)
  /-- FLIT_RECEIVE (R313): An Iluros Link flit is received, acknowledged and its pause or resume applied. -/
  | flitReceive (port : Nat) (flit : Flit)
  /-- ENGINE_STALL_RECOVERY (R375): A recoverable engine fault is recovered by the signal box and the operation goes on. -/
  | engineStallRecovery (eng : Nat)
  /-- ENGINE_FAILURE (R376): A failed engine operation commits its prefix and its handle becomes errored. -/
  | engineFailure (eng : Nat)
  /-- P_LD_COMPLETE (R262): A platform load's last line arrives and its handle becomes full. -/
  | pLdComplete (op : Nat)
  /-- ROW_ACTIVATE (R128): A waiting row.open activates its bank once the bank is idle. -/
  | rowActivate (core entry : Nat)
  /-- ROW_OPEN_COMPLETE (R265): The row is open, the entry moves to open and the handle becomes full. -/
  | rowOpenComplete (core entry : Nat)
  /-- ROW_TAKE_COMPLETE (R266): A take's bus occupancy ends and its platform becomes full. -/
  | rowTakeComplete (core take : Nat)
  /-- PRECHARGE_START (R267): A shut row's precharge starts at the later of shut, minimum open time and earlier takes. -/
  | prechargeStart (vault bank : Nat)
  /-- BANK_IDLE (R128): A bank becomes idle 24 cc after its precharge starts. -/
  | bankIdle (vault bank : Nat)
  /-- ROW_MAX_OPEN_EXPIRY (R268): At its maximum open time the hardware closes a row and marks its entry expired. -/
  | rowMaxOpenExpiry (core entry : Nat)
  /-- REFRESH_SLOT_START (R129): A bank's refresh slot begins, or is postponed while its row is open. -/
  | refreshSlotStart (vault bank : Nat)
  /-- REFRESH_SLOT_END (R129): A bank's refresh slot ends. -/
  | refreshSlotEnd (vault bank : Nat)
  /-- RETRAIN_ANNOUNCE (R130): The signal box announces a vault's retraining window in VAULT.RETRAIN. -/
  | retrainAnnounce (vault ahead len : Nat)
  /-- RETRAIN_WINDOW_START (R130): A retraining window starts, closing open rows of the vault. -/
  | retrainWindowStart (vault : Nat)
  /-- RETRAIN_WINDOW_END (R130): A retraining window ends and waiting accesses proceed. -/
  | retrainWindowEnd (vault : Nat)
  /-- FAULT_RECORD_WRITE (R363): Once in-flight writes of the track are answered, the record and store replay list are written. -/
  | faultRecordWrite (g : GroupId)
  /-- FAULT_QUEUE_ROOM (R329): A record held at its core is written when room frees in the fault queue. -/
  | faultQueueRoom (asid : Nat)
  /-- SPILL_AREA_APPEND (R330): Held records from the spill area are appended to the fault queue as room frees. -/
  | spillAreaAppend (asid : Nat)
  /-- RESUME (R333): The faulting instruction is performed for pending threads and the group continues. -/
  | resume (asid rec : Nat)
  /-- RESUME_AT (R333): The faulting cohort continues at the trap entry with the record in s30 and s31. -/
  | resumeAt (asid rec : Nat)
  /-- KILL_TEAM (R335): Ends the team and fails its grid. -/
  | killTeam (asid rec : Nat)
  /-- RELAUNCH_TEAM (R388): Kills a failed team without failing its grid and places a new team of the same index. -/
  | relaunchTeam (asid rec : Nat)
  /-- BACKING_REGION_RECOVERY (R368): The signal box maps and copies a backing page for an XLATE fault and resumes. -/
  | backingRegionRecovery (asid rec : Nat)
  /-- CAPACITY_RECOVERY (R371): The signal box seeks NEED sectors from the balloon list, free pool and balloon requests. -/
  | capacityRecovery (asid rec : Nat)
  /-- BALLOON_WAIT_EXPIRY (R371): The 10 ms wait for balloon sectors expires and the record takes KILL.TEAM if still short. -/
  | balloonWaitExpiry (asid rec : Nat)
  /-- TOP_UP (R148): A context below its watermark has its budget raised from the free pool. -/
  | topUp (asid : Nat)
  /-- EVENT_APPEND (R312): An event entry is written to a queue once it has room, and MSI-X raised for host queues. -/
  | eventAppend (asid q : Nat)
  /-- POWER_ON_BOOT (R316): The signal box boots from mask ROM over the network from a signed image. -/
  | powerOnBoot (img : BootImage)
  /-- START_STAGE_ADVANCE (R321): Start-up moves to its next stage when its sensors or condition are met. -/
  | startStageAdvance (coldest : Int)
  /-- CLOCK_GOVERNOR_STEP (R322): A tile governor steps the core clock by 25 MHz at most once per µs. -/
  | clockGovernorStep (tile : Nat) (up : Bool)
  /-- GET_MEASUREMENTS (R317): An SPDM request returns signed measurement registers. -/
  | getMeasurements
  /-- SPDM_SECURE_SESSION (R317): An SPDM secure session is set up by SM2 key exchange. -/
  | spdmSecureSession
  /-- CONTEXT_CREATE (R311): The host's creation request sets up a context, its queues and backing regions. -/
  | contextCreate (req : ContextRequest)
  /-- PROTECTED_CONTEXT_CREATE (R318): A protected context is created under TDISP with a fresh key slot. -/
  | protectedContextCreate (req : ContextRequest)
  /-- CONTEXT_TEARDOWN (R320): A protected context's teams end, key is zeroised and sectors queued for scrub. -/
  | contextTeardown (asid : Nat)
  /-- SCRUB_SECTOR (R320): The scrub engine overwrites a queued sector with zeros. -/
  | scrubSector (part : Nat)
  /-- RANK_SET_WRITE (R314): The signal box writes a rank-set table entry. -/
  | rankSetWrite (part idx : Nat) (entry : RankSet)
  /-- DESCRIPTOR_CHANGE (R319): The signal box pre-empts, settles and drops lines, then changes a descriptor and resumes. -/
  | descriptorChange (asid level pre : Nat) (desc : W64)
  /-- PAGE_MAP (R147): The signal box maps a page within the partition's promise. -/
  | pageMap (asid va : Nat) (desc : W64)
  /-- SYNONYM_REGISTER (R116): The signal box registers an alias range in the remap filter. -/
  | synonymRegister (part : Nat) (syn : Synonym)
  /-- SCRUBBER_PASS (R393): The scrubber reads and corrects DRAM sectors and counts corrected errors. -/
  | scrubberPass (vault bank errs : Nat)
  /-- ECC_UPGRADE (R393): A bank exceeding 16 corrections per hour moves to the stronger code. -/
  | eccUpgrade (vault bank : Nat)
  /-- STAGE1_TIMEOUT (R394): Warming has not reached -20 °C after 30 minutes and is reported. -/
  | stage1Timeout
  /-- VAULT_TRAINING_FAILURE (R394): A vault fails training in stage 2 and is retried or degraded. -/
  | vaultTrainingFailure (vault : Nat)
  /-- BOOT_RETRY (R394): A failed boot is retried from step 2 every 10 s. -/
  | bootRetry
  /-- TIMING_EDGE_MISS (R394): A timing monitor misses an edge; the issue is redone and the clock stepped down. -/
  | timingEdgeMiss (tile : Nat)
  /-- RETRAINING_FAILURE (R394): A live retraining window fails twice and the vault is degraded. -/
  | retrainingFailure (vault : Nat)
  /-- OVERTEMPERATURE (R394): Inlet above +45 °C forces 800 MHz, and above +55 °C powers down. -/
  | overtemperature (deg : Int)
  /-- PORT_RETRAIN_FAILURE (R394): A port failing link retraining three times is removed from rank sets. -/
  | portRetrainFailure (port : Nat)
  /-- UNDECODABLE_WORD (R346): A cohort issues a word that is no instruction of its clause's class, holds a non-zero must-be-zero
  or refused coded field, or is a bad clause header, and faults with ENC, CLASS or HDR. -/
  | undecodableWord (err : WordFault)
  /-- DEVICE_RESET (R405): A device reset returns every cluster bank to way mode, resumes any interrupted scrub before contexts
  are created and keeps flash-held choices. -/
  | deviceReset
  /-- DEVICE_INTERFACE_LOCK (R318): The host locks a virtual function's device interface under TDISP, the precondition for
  creating a protected context. -/
  | deviceInterfaceLock (vf : Nat)
  /-- OWNER_KEY_ENROLMENT (R316): The owner key is enrolled in on-package flash, sealed under the PUF-derived key. -/
  | ownerKeyEnrolment (digest : List Byte)
  /-- ILUROS_LINK_RETRAINING (R394): An Iluros port that loses its link retrains it and regains its footing, with three failures
  leading to removal. -/
  | ilurosLinkRetraining (port : Nat) (regained : Bool)
  deriving DecidableEq, Repr

end Sys2Proof
end

