-- ==== Sys2Proof/WellFormed.lean ====
section
/-! DEFINITION. WellFormed.lean: which field values an instruction may carry. `Instr.zeroOk` is the first half of
step 3 of R343 (R347: fields that must be zero), `Instr.codedOk` the second half (R348: coded fields), and
`Instr.eventOk` bounds the payload of an event by the counts of 01_device R11. -/

namespace Sys2Proof

/-- B and EB are zero (one-source A3 forms, R75). -/
def noB (f : A3) : Bool := f.b == 0 && f.eb == 0
/-- B and EB of an A4 word are zero. -/
def noB4 (f : A4) : Bool := f.b == 0 && f.eb == 0
/-- C and EC of an A4 word are zero. -/
def noC (f : A4) : Bool := f.c == 0 && f.ec == 0
/-- RM, SAT and TY of an A4 word are zero. -/
def noMode (f : A4) : Bool := f.rm == 0 && f.sat == 0 && f.ty == 0
/-- B = 0x70 and EB = 0, which R73 fixes in an AL word. -/
def alFixed (f : AL) : Bool := f.b == 0x70 && f.eb == 0

/-- R347: every field that the format or the entry makes zero is zero. -/
def Instr.zeroOk : Instr → Bool
  | .sAdd f | .sSub f | .sMul f | .sMulhI f | .sMulhN f | .sDivI f | .sDivN f | .sAnd f | .sOr f | .sXor f
  | .sShl f | .sShrN f | .sShrI f | .sMinI f | .sMaxI f | .sMinN f | .sMaxN f | .sSeq f | .sSne f | .sSltI f
  | .sSltN f | .sSleI f | .sSleN f | .sRdlane f | .mAnd f | .mOr f | .mAndn f | .mXor f =>
    f.p == 0
  | .sClz f | .sPopc f | .sMov f | .mBallot f | .mCnt f | .mFirst f | .mSet f | .mGet f =>
    f.p == 0 && noB f
  | .sSel f =>
    f.p == 0 && noMode f && f.imm == 0
  | .sAddsh f =>
    f.p == 0 && noC f && noMode f && f.imm >>> 3 == 0
  | .sBfx f =>
    f.p == 0 && noB4 f && noC f && noMode f && f.imm >>> 13 == 0
  | .sAddi _ | .sAndi _ | .sOri _ | .sXori _ | .brZ _ | .brNz _ | .vAdd _ | .vSub _ | .vMul _
  | .vMulhI _ | .vAnd _ | .vOr _ | .vXor _ | .vShl _ | .vShrN _ | .vShrI _ | .vMinI _ | .vMaxI _ | .vMinN _
  | .vMaxN _ | .vAddsI _ | .vCmpEq _ | .vCmpNe _ | .vCmpLtI _ | .vCmpLeI _ | .vCmpLtN _ | .vCmpLeN _ | .vFcmpEq _
  | .vFcmpLt _ | .vFcmpLe _ | .vIota _ | .vBcast _ | .vShuf _ | .vRot _ | .vWrlane _ | .vFadd _ | .vFsub _
  | .vFmul _ | .vFma _ | .vFmin _ | .vFmax _ | .vFdiv _ | .vRnd _ | .ldN8Ms _ | .ldN8Ml _ | .ldI8Ms _ | .ldI8Ml _
  | .ldN16Ms _ | .ldN16Ml _ | .ldI16Ms _ | .ldI16Ml _ | .ldB32Ms _ | .ldB32Ml _ | .ldB64Ms _ | .ldB64Ml _
  | .ldB128Ms _ | .ldB128Ml _ | .stB8Ms _ | .stB8Ml _ | .stB16Ms _ | .stB16Ml _ | .stB32Ms _ | .stB32Ml _
  | .stB64Ms _ | .stB64Ml _ | .stB128Ms _ | .stB128Ml _ | .ldAcqB32Ms _ | .ldAcqB32Ml _ | .ldAcqB64Ms _
  | .ldAcqB64Ml _ | .stRelB32Ms _ | .stRelB32Ml _ | .stRelB64Ms _ | .stRelB64Ml _ | .atAddB32Ms _ | .atAddB32Ml _
  | .atAddB64Ms _ | .atAddB64Ml _ | .atMinI32Ms _ | .atMinI32Ml _ | .atMaxI32Ms _ | .atMaxI32Ml _ | .atMinN32Ms _
  | .atMinN32Ml _ | .atMaxN32Ms _ | .atMaxN32Ml _ | .atAndB32Ms _ | .atAndB32Ml _ | .atOrB32Ms _ | .atOrB32Ml _
  | .atXorB32Ms _ | .atXorB32Ml _ | .atXchgB32Ms _ | .atXchgB32Ml _ | .atXchgB64Ms _ | .atXchgB64Ml _
  | .atFaddF32Ms _ | .atFaddF32Ml _ | .redAddB32Ms _ | .redAddB32Ml _ | .redAddB64Ms _ | .redAddB64Ml _
  | .redFaddF32Ms _ | .redFaddF32Ml _ | .redHaddBf16x2Ms _ | .redHaddBf16x2Ml _ | .redFmaxF32Ms _
  | .redFmaxF32Ml _ | .redFminF32Ms _ | .redFminF32Ml _ | .redMaxI32Ms _ | .redMaxI32Ml _ | .redXadd _ | .cp _
  | .cpCvt _ | .cpQ _ | .cpRow _ | .cpDup _ | .collAr _ | .collRs _ | .collAg _ | .collNorm _ =>
    true
  | .sShli f | .sShriN f | .sShriI f =>
    f.imm >>> 6 == 0
  | .sLi f | .sLih f =>
    f.p == 0 && alFixed f && f.a == 0 && f.ea == 0
  | .br f | .meet f =>
    f.a == 0 && f.ea == 0
  | .brFar f =>
    f.p == 0 && alFixed f && f.a == 0 && f.ea == 0 && f.d == 0
  | .call f =>
    f.ea == 0
  | .ret f | .jmpV f =>
    f.off == 0
  | .split f =>
    f.z == 0
  | .join f | .exit f =>
    f.a == 0 && f.ea == 0 && f.off == 0
  | .nop f =>
    f == ⟨0, 0, 0, 0, 0, 0⟩
  | .vClz f | .vPopc f | .vMov f | .vTagof f | .vGeneral f | .vFrcp f | .vFrsq f | .vFsqrt f | .vFexp2 f
  | .vFlog2 f =>
    noB f
  | .vMad f | .vSel f | .vFclamp f =>
    noMode f && f.imm == 0
  | .vAddsh f =>
    noC f && noMode f && f.imm >>> 3 == 0
  | .vMovi f =>
    f.a == 0 && f.ea == 0
  | .vLi f =>
    alFixed f && f.a == 0 && f.ea == 0
  | .vFma4 f =>
    f.ty == 0 && f.imm == 0
  | .vHadd f | .vHmul f =>
    noC f && f.imm == 0
  | .vHfma f =>
    f.imm == 0
  | .vCvt f =>
    noB4 f && noC f && f.imm >>> 4 == 0
  | .vCvtSr f =>
    noC f && f.rm == 0 && f.imm >>> 5 == 0
  | .vPack f =>
    noC f && f.imm >>> 3 == 0
  | .vUnpack f =>
    noB4 f && noC f && f.rm == 0 && f.sat == 0 && f.imm >>> 3 == 0
  | .vRsum f | .vRmax f | .vRmin f =>
    noB4 f && noC f && f.rm == 0 && f.sat == 0 && f.imm == 0
  | .vScan f =>
    noB4 f && noC f && f.rm == 0 && f.sat == 0 && f.imm >>> 2 == 0
  | .vWmax f | .vWmin f | .vWmed f | .vWsat f =>
    noB4 f && noC f && f.rm == 0 && f.sat == 0 && !f.imm.getLsbD 6
  | .vWclamp f =>
    f.rm == 0 && f.sat == 0 && !f.imm.getLsbD 6
  | .vAdj f =>
    noB4 f && noC f && f.rm == 0 && f.sat == 0
  | .atCasB32 f | .atCasB64 f =>
    f.sc == 0
  | .redFlush f | .fenceRel f | .fenceAcq f =>
    f.t == 0 && f.a == 0 && f.ea == 0 && f.sp == 0 && f.cp == 0 && f.p == 0
  | .fenceXt f =>
    f.t == 0 && f.a == 0 && f.ea == 0 && f.trk == 0 && f.sp == 0 && f.cp == 0 && f.p == 0
  | .pfMs f =>
    f.t == 0 && f.trk == 0
  | .pfMl f =>
    f.t == 0 && f.trk == 0
  | .discard f =>
    f.t == 0 && f.sc == 0 && f.p == 0
  | .fill f =>
    f.sc == 0 && f.p == 0
  | .wStMs f | .wLdMs f =>
    f.t >>> 2 == 0 && f.p == 0
  | .wStMl f | .wLdMl f =>
    f.t >>> 2 == 0 && f.p == 0
  | .fifoPushMs f | .fifoPopMs f =>
    f.cp == 0 && f.trk == 0
  | .fifoPushMl f | .fifoPopMl f =>
    f.cp == 0 && f.trk == 0
  | .cstSet f | .rdvInit f | .rdvWait f | .rdvSync f | .gbarWait f =>
    f.b == 0 && f.imm == 0
  | .cstClr f | .hdone f | .hjoin f | .yield f =>
    f == ⟨0, 0, 0, 0⟩
  | .mma f =>
    f.spl == 0 && f.sel >>> 1 == 0 && (f.sel == 0 || f.fmt == 0xA)
  | .mmaQ f =>
    !f.sel.getLsbD 0 || f.fmt.extractLsb' 0 2 == 1
  | .mmaMx f =>
    !f.sel.getLsbD 0
  | .accZero f =>
    f.a == 0 && f.pl == 0 && f.spl == 0 && f.fmt == 0 && f.ru == 0 && f.sel == 0
  | .accRead f | .accWrite f =>
    f.pl == 0 && f.spl == 0 && f.ru == 0 && f.sel == 0
  | .accExp f =>
    f.z == 0
  | .pLd f =>
    f.z == 0
  | .pZero f =>
    f.h == 0 && f.a == 0 && f.ea == 0 && f.z == 0
  | .rowOpen f =>
    f.pl == 0 && f.z == 0
  | .rowTake f =>
    f.a == 0 && f.ea == 0 && f.z == 0
  | .rowShut f =>
    f.a == 0 && f.ea == 0 && f.pl == 0 && f.z == 0
  | .collSend f =>
    f.b == 0x70
  | .collRecv f =>
    f.a == 0x70
  | .bucketArm f =>
    f.b == 0x70 && f.c == 0x70
  | .hTest f | .hGet f | .hBind f =>
    f.b == 0 && f.c == 0
  | .hWait f =>
    f.h == 0 && f.b == 0 && f.c == 0
  | .hCancel f =>
    f.a == 0 && f.b == 0 && f.c == 0
  | .launch f =>
    f.c == 0
  | .rdvArrive f | .gbarArrive f =>
    f.a == 0 && f.b == 0 && f.imm == 0
  | .watch f | .hnext f =>
    f.n == 0 && f.b == 0 && f.imm == 0
  | .sleep f =>
    f.n == 0 && f.imm == 0
  | .recruit f =>
    f.n == 0 && f.z == 0
  | .hsumF32 f | .hsumI32 f =>
    f.n == 0
  | .srRd f | .srWr f =>
    f.imm == 0
  | .trap f =>
    f.d == 0 && f.srn == 0
  | .brk f =>
    f.d == 0 && f.srn == 0 && f.imm == 0
  | .cacheWb f | .cacheInv f =>
    f.sp == 0 && f.p == 0
  | .bankMode f | .evtPost f =>
    f.srn == 0
  | .pantryReadReturn _ | .ringDoorbell _ _ _ | .controlRegisterWrite _ _ _ | .hostRingRead _ _
  | .recordEligible _ _ | .dependentRecordDrop _ _ | .teamPlacement _ | .preemption _ | .teamResume _
  | .saveReserveTimeout _ | .gridCompletion _ | .loaderLoad _ _ | .loaderSubmit _ _ _ | .activeSetEntry _
  | .activePlaceTimeout _ | .joinRelease _ _ _ | .forcedRelease _ _ _ | .hjoinComplete _ _
  | .jointOperationStart _ | .jointOperationComplete _ _ | .loadReturn _ | .accessAtHome _ _ | .storeAck _
  | .atomicReturn _ | .reservation _ | .settlement _ _ | .recall _ _ | .monitorArmed _ | .sleepTimeout _ _
  | .reductionDrain _ _ | .rdvPhaseRelease _ _ | .gbarPhaseComplete _ _ | .fifoResume _ _ | .bankModeSwitch _ _
  | .tenderChunkCommit _ | .engineOperationComplete _ | .flitReceive _ _ | .engineStallRecovery _
  | .engineFailure _ | .pLdComplete _ | .rowActivate _ _ | .rowOpenComplete _ _ | .rowTakeComplete _ _
  | .prechargeStart _ _ | .bankIdle _ _ | .rowMaxOpenExpiry _ _ | .refreshSlotStart _ _ | .refreshSlotEnd _ _
  | .retrainAnnounce _ _ _ | .retrainWindowStart _ | .retrainWindowEnd _ | .faultRecordWrite _ | .faultQueueRoom _
  | .spillAreaAppend _ | .resume _ _ | .resumeAt _ _ | .killTeam _ _ | .relaunchTeam _ _
  | .backingRegionRecovery _ _ | .capacityRecovery _ _ | .balloonWaitExpiry _ _ | .topUp _ | .eventAppend _ _
  | .powerOnBoot _ | .startStageAdvance _ | .clockGovernorStep _ _ | .getMeasurements | .spdmSecureSession
  | .contextCreate _ | .protectedContextCreate _ | .contextTeardown _ | .scrubSector _ | .rankSetWrite _ _ _
  | .descriptorChange _ _ _ _ | .pageMap _ _ _ | .synonymRegister _ _ | .scrubberPass _ _ _ | .eccUpgrade _ _
  | .stage1Timeout | .vaultTrainingFailure _ | .bootRetry | .timingEdgeMiss _ | .retrainingFailure _
  | .overtemperature _ | .portRetrainFailure _ | .undecodableWord _ | .deviceReset | .deviceInterfaceLock _
  | .ownerKeyEnrolment _ | .ilurosLinkRetraining _ _ =>
    true

/-- R348: every coded field holds a code the instruction accepts. -/
def Instr.codedOk : Instr → Bool
  | .sAdd _ | .sSub _ | .sMul _ | .sMulhI _ | .sMulhN _ | .sDivI _ | .sDivN _ | .sAnd _ | .sOr _ | .sXor _
  | .sShl _ | .sShrN _ | .sShrI _ | .sMinI _ | .sMaxI _ | .sMinN _ | .sMaxN _ | .sSeq _ | .sSne _ | .sSltI _
  | .sSltN _ | .sSleI _ | .sSleN _ | .sClz _ | .sPopc _ | .sMov _ | .sRdlane _ | .sSel _ | .sAddsh _ | .sBfx _
  | .sAddi _ | .sAndi _ | .sOri _ | .sXori _ | .sShli _ | .sShriN _ | .sShriI _ | .sLi _ | .sLih _ | .br _
  | .brZ _ | .brNz _ | .brFar _ | .call _ | .ret _ | .jmpV _ | .split _ | .meet _ | .join _ | .exit _ | .mBallot _
  | .mAnd _ | .mOr _ | .mAndn _ | .mXor _ | .mCnt _ | .mFirst _ | .mSet _ | .mGet _ | .nop _ | .vAdd _ | .vSub _
  | .vMul _ | .vMulhI _ | .vAnd _ | .vOr _ | .vXor _ | .vShl _ | .vShrN _ | .vShrI _ | .vMinI _ | .vMaxI _
  | .vMinN _ | .vMaxN _ | .vAddsI _ | .vClz _ | .vPopc _ | .vMad _ | .vAddsh _ | .vCmpEq _ | .vCmpNe _
  | .vCmpLtI _ | .vCmpLeI _ | .vCmpLtN _ | .vCmpLeN _ | .vFcmpEq _ | .vFcmpLt _ | .vFcmpLe _ | .vSel _ | .vMovi _
  | .vLi _ | .vMov _ | .vIota _ | .vBcast _ | .vShuf _ | .vRot _ | .vWrlane _ | .vTagof _ | .vGeneral _ | .vFadd _
  | .vFsub _ | .vFmul _ | .vFma _ | .vFmin _ | .vFmax _ | .vFdiv _ | .vFrcp _ | .vFrsq _ | .vFsqrt _ | .vFexp2 _
  | .vFlog2 _ | .vFclamp _ | .vRnd _ | .ldN8Ms _ | .ldN8Ml _ | .ldI8Ms _ | .ldI8Ml _ | .ldN16Ms _ | .ldN16Ml _
  | .ldI16Ms _ | .ldI16Ml _ | .ldB32Ms _ | .ldB32Ml _ | .ldB64Ms _ | .ldB64Ml _ | .ldB128Ms _ | .ldB128Ml _
  | .redFlush _ | .fenceRel _ | .fenceAcq _ | .fenceXt _ | .pfMs _ | .pfMl _ | .cstSet _ | .cstClr _ | .accZero _
  | .accExp _ | .pLd _ | .pZero _ | .rowOpen _ | .rowTake _ | .rowShut _ | .cp _ | .cpCvt _ | .cpQ _ | .cpRow _
  | .cpDup _ | .collAr _ | .collRs _ | .collAg _ | .collSend _ | .collRecv _ | .collNorm _ | .bucketArm _
  | .hTest _ | .hGet _ | .hWait _ | .hCancel _ | .hBind _ | .launch _ | .rdvInit _ | .rdvArrive _ | .rdvWait _
  | .rdvSync _ | .gbarArrive _ | .gbarWait _ | .watch _ | .sleep _ | .recruit _ | .hnext _ | .hdone _ | .hjoin _
  | .hsumF32 _ | .hsumI32 _ | .yield _ | .srRd _ | .srWr _ | .trap _ | .brk _ | .evtPost _ =>
    true
  | .vFma4 f =>
    f.rm.toNat ≤ 4
  | .vHadd f | .vHmul f | .vHfma f =>
    f.rm.toNat ≤ 4 && (f.ty == 3 || f.ty == 4)
  | .vCvt f =>
    f.rm.toNat ≤ 4 && f.ty.toNat ≤ 13 && (f.imm.extractLsb' 0 4).toNat ≤ 13
  | .vCvtSr f =>
    3 ≤ f.ty.toNat && f.ty.toNat ≤ 9
  | .vPack f =>
    f.rm.toNat ≤ 4 && 3 ≤ f.ty.toNat
  | .vUnpack f =>
    3 ≤ f.ty.toNat
  | .vRsum f | .vRmax f | .vRmin f | .vWmax f | .vWmin f | .vWmed f | .vWclamp f =>
    f.ty.toNat ≤ 2
  | .vScan f =>
    f.ty.toNat ≤ 2 && f.imm.extractLsb' 0 2 != 3
  | .vWsat f =>
    f.ty.toNat ≤ 1
  | .vAdj f =>
    f.ty == 2
  | .stB8Ms f | .stB16Ms f | .stB32Ms f | .stB64Ms f | .stB128Ms f | .wStMs f | .wLdMs f =>
    f.sp != 3
  | .stB8Ml f | .stB16Ml f | .stB32Ml f | .stB64Ml f | .stB128Ml f | .discard f | .fill f | .wStMl f | .wLdMl f =>
    f.sp != 3
  | .ldAcqB32Ms f | .ldAcqB64Ms f | .stRelB32Ms f | .stRelB64Ms f | .atAddB32Ms f | .atAddB64Ms f | .atMinI32Ms f
  | .atMaxI32Ms f | .atMinN32Ms f | .atMaxN32Ms f | .atAndB32Ms f | .atOrB32Ms f | .atXorB32Ms f | .atXchgB32Ms f
  | .atXchgB64Ms f | .atFaddF32Ms f | .redAddB32Ms f | .redAddB64Ms f | .redFaddF32Ms f | .redHaddBf16x2Ms f
  | .redFmaxF32Ms f | .redFminF32Ms f | .redMaxI32Ms f =>
    f.sp == 0
  | .ldAcqB32Ml f | .ldAcqB64Ml f | .stRelB32Ml f | .stRelB64Ml f | .atAddB32Ml f | .atAddB64Ml f | .atMinI32Ml f
  | .atMaxI32Ml f | .atMinN32Ml f | .atMaxN32Ml f | .atAndB32Ml f | .atOrB32Ml f | .atXorB32Ml f | .atXchgB32Ml f
  | .atXchgB64Ml f | .atCasB32 f | .atCasB64 f | .atFaddF32Ml f | .redAddB32Ml f | .redAddB64Ml f
  | .redFaddF32Ml f | .redHaddBf16x2Ml f | .redFmaxF32Ml f | .redFminF32Ml f | .redMaxI32Ml f | .redXadd f =>
    f.sp == 0
  | .fifoPushMs f | .fifoPopMs f =>
    f.sp == 1
  | .fifoPushMl f | .fifoPopMl f =>
    f.sp == 1
  | .mma f =>
    f.fmt.toNat ≤ 10
  | .mmaQ f =>
    f.fmt.extractLsb' 0 2 != 3 && f.fmt.extractLsb' 2 2 != 3
  | .mmaMx f =>
    f.fmt.toNat ≤ 4
  | .accRead f | .accWrite f =>
    f.fmt.toNat ≤ 1
  | .cacheWb f | .cacheInv f =>
    f.cp != 3
  | .bankMode f =>
    f.imm.toNat ≤ 2
  | .pantryReadReturn _ | .ringDoorbell _ _ _ | .controlRegisterWrite _ _ _ | .hostRingRead _ _
  | .recordEligible _ _ | .dependentRecordDrop _ _ | .teamPlacement _ | .preemption _ | .teamResume _
  | .saveReserveTimeout _ | .gridCompletion _ | .loaderLoad _ _ | .loaderSubmit _ _ _ | .activeSetEntry _
  | .activePlaceTimeout _ | .joinRelease _ _ _ | .forcedRelease _ _ _ | .hjoinComplete _ _
  | .jointOperationStart _ | .jointOperationComplete _ _ | .loadReturn _ | .accessAtHome _ _ | .storeAck _
  | .atomicReturn _ | .reservation _ | .settlement _ _ | .recall _ _ | .monitorArmed _ | .sleepTimeout _ _
  | .reductionDrain _ _ | .rdvPhaseRelease _ _ | .gbarPhaseComplete _ _ | .fifoResume _ _ | .bankModeSwitch _ _
  | .tenderChunkCommit _ | .engineOperationComplete _ | .flitReceive _ _ | .engineStallRecovery _
  | .engineFailure _ | .pLdComplete _ | .rowActivate _ _ | .rowOpenComplete _ _ | .rowTakeComplete _ _
  | .prechargeStart _ _ | .bankIdle _ _ | .rowMaxOpenExpiry _ _ | .refreshSlotStart _ _ | .refreshSlotEnd _ _
  | .retrainAnnounce _ _ _ | .retrainWindowStart _ | .retrainWindowEnd _ | .faultRecordWrite _ | .faultQueueRoom _
  | .spillAreaAppend _ | .resume _ _ | .resumeAt _ _ | .killTeam _ _ | .relaunchTeam _ _
  | .backingRegionRecovery _ _ | .capacityRecovery _ _ | .balloonWaitExpiry _ _ | .topUp _ | .eventAppend _ _
  | .powerOnBoot _ | .startStageAdvance _ | .clockGovernorStep _ _ | .getMeasurements | .spdmSecureSession
  | .contextCreate _ | .protectedContextCreate _ | .contextTeardown _ | .scrubSector _ | .rankSetWrite _ _ _
  | .descriptorChange _ _ _ _ | .pageMap _ _ _ | .synonymRegister _ _ | .scrubberPass _ _ _ | .eccUpgrade _ _
  | .stage1Timeout | .vaultTrainingFailure _ | .bootRetry | .timingEdgeMiss _ | .retrainingFailure _
  | .overtemperature _ | .portRetrainFailure _ | .undecodableWord _ | .deviceReset | .deviceInterfaceLock _
  | .ownerKeyEnrolment _ | .ilurosLinkRetraining _ _ =>
    true

/-- The payload of an event names units that exist (R11) and values within their fields; an instruction has no payload. -/
def Instr.eventOk : Instr → Bool
  | .ringDoorbell part q tail => part < 8 && q < 64 && tail < 32768
  | .controlRegisterWrite part off _ => part < 8 && off < 65536
  | .hostRingRead part q => part < 8 && q < 64
  | .recordEligible part q => part < 8 && q < 64
  | .dependentRecordDrop part q => part < 8 && q < 64
  | .teamPlacement part => part < 8
  | .saveReserveTimeout part => part < 8
  | .loaderLoad asid _ => asid < 65536
  | .loaderSubmit asid prio _ => asid < 65536 && prio < 4
  | .jointOperationComplete core _ => core < 128
  | .bankModeSwitch pair bank => pair < 64 && bank < 32
  | .flitReceive port _ => port < 16
  | .rowActivate core entry => core < 128 && entry < 16
  | .rowOpenComplete core entry => core < 128 && entry < 16
  | .rowTakeComplete core _ => core < 128
  | .prechargeStart vault bank => vault < 128 && bank < 192
  | .bankIdle vault bank => vault < 128 && bank < 192
  | .rowMaxOpenExpiry core entry => core < 128 && entry < 16
  | .refreshSlotStart vault bank => vault < 128 && bank < 192
  | .refreshSlotEnd vault bank => vault < 128 && bank < 192
  | .retrainAnnounce vault ahead len => vault < 128 && 35000 ≤ ahead && len ≤ 3500
  | .retrainWindowStart vault => vault < 128
  | .retrainWindowEnd vault => vault < 128
  | .eventAppend asid q => asid < 65536 && q < 16
  | .clockGovernorStep tile _ => tile < 8
  | .contextCreate req => req.asid < 65536 && req.part < 8
  | .protectedContextCreate req => req.asid < 65536 && req.part < 8
  | .contextTeardown asid => asid < 65536
  | .scrubSector part => part < 8
  | .rankSetWrite part idx _ => part < 8 && idx < 256
  | .descriptorChange asid level _ _ => asid < 65536 && level < 4
  | .pageMap asid va _ => asid < 65536 && va < 2 ^ 56
  | .synonymRegister part _ => part < 8
  | .scrubberPass vault bank _ => vault < 128 && bank < 192
  | .eccUpgrade vault bank => vault < 128 && bank < 192
  | .vaultTrainingFailure vault => vault < 128
  | .timingEdgeMiss tile => tile < 8
  | .retrainingFailure vault => vault < 128
  | .portRetrainFailure port => port < 16
  | .deviceInterfaceLock vf => vf < 8
  | .ilurosLinkRetraining port _ => port < 16
  | .sAdd _ | .sSub _ | .sMul _ | .sMulhI _ | .sMulhN _ | .sDivI _ | .sDivN _ | .sAnd _ | .sOr _ | .sXor _
  | .sShl _ | .sShrN _ | .sShrI _ | .sMinI _ | .sMaxI _ | .sMinN _ | .sMaxN _ | .sSeq _ | .sSne _ | .sSltI _
  | .sSltN _ | .sSleI _ | .sSleN _ | .sClz _ | .sPopc _ | .sMov _ | .sRdlane _ | .sSel _ | .sAddsh _ | .sBfx _
  | .sAddi _ | .sAndi _ | .sOri _ | .sXori _ | .sShli _ | .sShriN _ | .sShriI _ | .sLi _ | .sLih _ | .br _
  | .brZ _ | .brNz _ | .brFar _ | .call _ | .ret _ | .jmpV _ | .split _ | .meet _ | .join _ | .exit _ | .mBallot _
  | .mAnd _ | .mOr _ | .mAndn _ | .mXor _ | .mCnt _ | .mFirst _ | .mSet _ | .mGet _ | .nop _ | .vAdd _ | .vSub _
  | .vMul _ | .vMulhI _ | .vAnd _ | .vOr _ | .vXor _ | .vShl _ | .vShrN _ | .vShrI _ | .vMinI _ | .vMaxI _
  | .vMinN _ | .vMaxN _ | .vAddsI _ | .vClz _ | .vPopc _ | .vMad _ | .vAddsh _ | .vCmpEq _ | .vCmpNe _
  | .vCmpLtI _ | .vCmpLeI _ | .vCmpLtN _ | .vCmpLeN _ | .vFcmpEq _ | .vFcmpLt _ | .vFcmpLe _ | .vSel _ | .vMovi _
  | .vLi _ | .vMov _ | .vIota _ | .vBcast _ | .vShuf _ | .vRot _ | .vWrlane _ | .vTagof _ | .vGeneral _ | .vFadd _
  | .vFsub _ | .vFmul _ | .vFma _ | .vFma4 _ | .vFmin _ | .vFmax _ | .vFdiv _ | .vFrcp _ | .vFrsq _ | .vFsqrt _
  | .vFexp2 _ | .vFlog2 _ | .vFclamp _ | .vHadd _ | .vHmul _ | .vHfma _ | .vCvt _ | .vCvtSr _ | .vPack _
  | .vUnpack _ | .vRnd _ | .vRsum _ | .vRmax _ | .vRmin _ | .vScan _ | .vWmax _ | .vWmin _ | .vWmed _ | .vWsat _
  | .vWclamp _ | .vAdj _ | .ldN8Ms _ | .ldN8Ml _ | .ldI8Ms _ | .ldI8Ml _ | .ldN16Ms _ | .ldN16Ml _ | .ldI16Ms _
  | .ldI16Ml _ | .ldB32Ms _ | .ldB32Ml _ | .ldB64Ms _ | .ldB64Ml _ | .ldB128Ms _ | .ldB128Ml _ | .stB8Ms _
  | .stB8Ml _ | .stB16Ms _ | .stB16Ml _ | .stB32Ms _ | .stB32Ml _ | .stB64Ms _ | .stB64Ml _ | .stB128Ms _
  | .stB128Ml _ | .ldAcqB32Ms _ | .ldAcqB32Ml _ | .ldAcqB64Ms _ | .ldAcqB64Ml _ | .stRelB32Ms _ | .stRelB32Ml _
  | .stRelB64Ms _ | .stRelB64Ml _ | .atAddB32Ms _ | .atAddB32Ml _ | .atAddB64Ms _ | .atAddB64Ml _ | .atMinI32Ms _
  | .atMinI32Ml _ | .atMaxI32Ms _ | .atMaxI32Ml _ | .atMinN32Ms _ | .atMinN32Ml _ | .atMaxN32Ms _ | .atMaxN32Ml _
  | .atAndB32Ms _ | .atAndB32Ml _ | .atOrB32Ms _ | .atOrB32Ml _ | .atXorB32Ms _ | .atXorB32Ml _ | .atXchgB32Ms _
  | .atXchgB32Ml _ | .atXchgB64Ms _ | .atXchgB64Ml _ | .atCasB32 _ | .atCasB64 _ | .atFaddF32Ms _ | .atFaddF32Ml _
  | .redAddB32Ms _ | .redAddB32Ml _ | .redAddB64Ms _ | .redAddB64Ml _ | .redFaddF32Ms _ | .redFaddF32Ml _
  | .redHaddBf16x2Ms _ | .redHaddBf16x2Ml _ | .redFmaxF32Ms _ | .redFmaxF32Ml _ | .redFminF32Ms _
  | .redFminF32Ml _ | .redMaxI32Ms _ | .redMaxI32Ml _ | .redXadd _ | .redFlush _ | .fenceRel _ | .fenceAcq _
  | .fenceXt _ | .pfMs _ | .pfMl _ | .discard _ | .fill _ | .wStMs _ | .wStMl _ | .wLdMs _ | .wLdMl _
  | .fifoPushMs _ | .fifoPushMl _ | .fifoPopMs _ | .fifoPopMl _ | .cstSet _ | .cstClr _ | .mma _ | .mmaQ _
  | .mmaMx _ | .accZero _ | .accRead _ | .accWrite _ | .accExp _ | .pLd _ | .pZero _ | .rowOpen _ | .rowTake _
  | .rowShut _ | .cp _ | .cpCvt _ | .cpQ _ | .cpRow _ | .cpDup _ | .collAr _ | .collRs _ | .collAg _ | .collSend _
  | .collRecv _ | .collNorm _ | .bucketArm _ | .hTest _ | .hGet _ | .hWait _ | .hCancel _ | .hBind _ | .launch _
  | .rdvInit _ | .rdvArrive _ | .rdvWait _ | .rdvSync _ | .gbarArrive _ | .gbarWait _ | .watch _ | .sleep _
  | .recruit _ | .hnext _ | .hdone _ | .hjoin _ | .hsumF32 _ | .hsumI32 _ | .yield _ | .srRd _ | .srWr _ | .trap _
  | .brk _ | .cacheWb _ | .cacheInv _ | .bankMode _ | .evtPost _ | .pantryReadReturn _ | .preemption _
  | .teamResume _ | .gridCompletion _ | .activeSetEntry _ | .activePlaceTimeout _ | .joinRelease _ _ _
  | .forcedRelease _ _ _ | .hjoinComplete _ _ | .jointOperationStart _ | .loadReturn _ | .accessAtHome _ _
  | .storeAck _ | .atomicReturn _ | .reservation _ | .settlement _ _ | .recall _ _ | .monitorArmed _
  | .sleepTimeout _ _ | .reductionDrain _ _ | .rdvPhaseRelease _ _ | .gbarPhaseComplete _ _ | .fifoResume _ _
  | .tenderChunkCommit _ | .engineOperationComplete _ | .engineStallRecovery _ | .engineFailure _ | .pLdComplete _
  | .faultRecordWrite _ | .faultQueueRoom _ | .spillAreaAppend _ | .resume _ _ | .resumeAt _ _ | .killTeam _ _
  | .relaunchTeam _ _ | .backingRegionRecovery _ _ | .capacityRecovery _ _ | .balloonWaitExpiry _ _ | .topUp _
  | .powerOnBoot _ | .startStageAdvance _ | .getMeasurements | .spdmSecureSession | .stage1Timeout | .bootRetry
  | .overtemperature _ | .undecodableWord _ | .deviceReset | .ownerKeyEnrolment _ =>
    true

/-- An instruction the decoder may answer, or an event whose payload is in range. -/
def WellFormed (i : Instr) : Bool := i.zeroOk && i.codedOk && i.eventOk

end Sys2Proof
end

