-- ==== Sys2Proof/Decode.lean ====
section
/-! DEFINITION. Decode.lean: from the words of an instruction to `Instr` and back (03_encoding R70 to R78; 19_faults_isa
R343 steps 1 to 3, R345 to R348). Decoding is total: a word that is no instruction of its clause's class is refused by the
name of the fault it raises. The encoder is written from the same formats. The last part lays an instruction's words out
as bytes, little-endian (00_scope R2), and reads them back. -/

namespace Sys2Proof

/-! ## Clause headers (R70, R345) -/

/-- The fields of a clause header. -/
structure Header where
  count : Nat
  cls : Cls
  yld : Bool
  hwait : BitVec 16
  deriving DecidableEq, Repr

/-- The class of a CLASS field; 7 is reserved (R70). -/
def clsOf (n : Nat) : Option Cls :=
  match n with
  | 0 => some .s | 1 => some .v | 2 => some .m | 3 => some .x | 4 => some .e | 5 => some .y | 6 => some .k
  | _ => none

/-- R345: the word at a header position, checked in the order of its table. -/
def decodeHeader (w : W32) : Except WordFault Header :=
  if w.extractLsb' 28 4 != 0b1010 then .error (.hdr 1)
  else if w.extractLsb' 0 4 == 0 then .error (.hdr 2)
  else match clsOf (w.extractLsb' 4 3).toNat with
    | none => .error (.hdr 3)
    | some c =>
      if w.extractLsb' 24 4 != 0 then .error (.hdr 4)
      else .ok ⟨(w.extractLsb' 0 4).toNat, c, w.getLsbD 7, w.extractLsb' 8 16⟩

/-- The header word of R70 with reserved bits zero. -/
def encodeHeader (h : Header) : W32 :=
  BitVec.ofNat 32 (10 * 2 ^ 28 + h.hwait.toNat * 2 ^ 8 + h.yld.toNat * 2 ^ 7 + h.cls.code * 2 ^ 4 + h.count)

/-! ## Formats (R73, R74): a format's fields in a word, and the word of its fields -/

/-- OP, bits [31:25] of the first word (R73). -/
def opOf (w : W32) : Nat := (w.extractLsb' 25 7).toNat

/-- Format A3: the fields of its word. -/
def A3.ofWord (w : W32) : A3 :=
  ⟨w.extractLsb' 18 7, w.extractLsb' 11 7, w.extractLsb' 10 1, w.extractLsb' 3 7, w.extractLsb' 2 1, w.extractLsb' 0 2⟩
/-- Format A3: its word under opcode `op`. -/
def A3.word (op : BitVec 7) (f : A3) : W32 :=
  (op ++ f.d ++ f.a ++ f.ea ++ f.b ++ f.eb ++ f.p).cast (by decide)

/-- Format AI: the fields of its word. -/
def AI.ofWord (w : W32) : AI :=
  ⟨w.extractLsb' 18 7, w.extractLsb' 11 7, w.extractLsb' 10 1, w.extractLsb' 0 10⟩
/-- Format AI: its word under opcode `op`. -/
def AI.word (op : BitVec 7) (f : AI) : W32 :=
  (op ++ f.d ++ f.a ++ f.ea ++ f.imm).cast (by decide)

/-- Format A4: the fields of its two words. -/
def A4.ofWords (w x : W32) : A4 :=
  ⟨w.extractLsb' 18 7, w.extractLsb' 11 7, w.extractLsb' 10 1, w.extractLsb' 3 7, w.extractLsb' 2 1, w.extractLsb' 0 2,
   x.extractLsb' 25 7, x.extractLsb' 24 1, x.extractLsb' 21 3, x.extractLsb' 20 1, x.extractLsb' 16 4, x.extractLsb' 0 16⟩
/-- Format A4: its first word under opcode `op`. -/
def A4.word0 (op : BitVec 7) (f : A4) : W32 :=
  (op ++ f.d ++ f.a ++ f.ea ++ f.b ++ f.eb ++ f.p).cast (by decide)
/-- Format A4: its second word. -/
def A4.word1 (f : A4) : W32 :=
  (f.c ++ f.ec ++ f.rm ++ f.sat ++ f.ty ++ f.imm).cast (by decide)

/-- Format AL: the fields of its two words. -/
def AL.ofWords (w x : W32) : AL :=
  ⟨w.extractLsb' 18 7, w.extractLsb' 11 7, w.extractLsb' 10 1, w.extractLsb' 3 7, w.extractLsb' 2 1, w.extractLsb' 0 2,
   x⟩
/-- Format AL: its first word under opcode `op`. -/
def AL.word0 (op : BitVec 7) (f : AL) : W32 :=
  (op ++ f.d ++ f.a ++ f.ea ++ f.b ++ f.eb ++ f.p).cast (by decide)
/-- Format AL: its second word. -/
def AL.word1 (f : AL) : W32 := f.imm

/-- Format MS: the fields of its word. -/
def MS.ofWord (w : W32) : MS :=
  ⟨w.extractLsb' 18 7, w.extractLsb' 11 7, w.extractLsb' 10 1, w.extractLsb' 6 4, w.extractLsb' 4 2, w.extractLsb' 2 2, w.extractLsb' 0 2⟩
/-- Format MS: its word under opcode `op`. -/
def MS.word (op : BitVec 7) (f : MS) : W32 :=
  (op ++ f.t ++ f.a ++ f.ea ++ f.trk ++ f.sp ++ f.cp ++ f.p).cast (by decide)

/-- Format ML: the fields of its two words. -/
def ML.ofWords (w x : W32) : ML :=
  ⟨w.extractLsb' 18 7, w.extractLsb' 11 7, w.extractLsb' 10 1, w.extractLsb' 6 4, w.extractLsb' 4 2, w.extractLsb' 2 2, w.extractLsb' 0 2,
   x.extractLsb' 25 7, x.extractLsb' 24 1, x.extractLsb' 22 2, x.extractLsb' 0 22⟩
/-- Format ML: its first word under opcode `op`. -/
def ML.word0 (op : BitVec 7) (f : ML) : W32 :=
  (op ++ f.t ++ f.a ++ f.ea ++ f.trk ++ f.sp ++ f.cp ++ f.p).cast (by decide)
/-- Format ML: its second word. -/
def ML.word1 (f : ML) : W32 :=
  (f.x ++ f.ex ++ f.sc ++ f.off).cast (by decide)

/-- Format BR: the fields of its word. -/
def BR.ofWord (w : W32) : BR :=
  ⟨w.extractLsb' 18 7, w.extractLsb' 17 1, w.extractLsb' 0 17⟩
/-- Format BR: its word under opcode `op`. -/
def BR.word (op : BitVec 7) (f : BR) : W32 :=
  (op ++ f.a ++ f.ea ++ f.off).cast (by decide)

/-- Format SplitF: the fields of its two words. -/
def SplitF.ofWords (w x : W32) : SplitF :=
  ⟨w.extractLsb' 18 7, w.extractLsb' 17 1, w.extractLsb' 0 17,
   x.extractLsb' 17 15, x.extractLsb' 0 17⟩
/-- Format SplitF: its first word under opcode `op`. -/
def SplitF.word0 (op : BitVec 7) (f : SplitF) : W32 :=
  (op ++ f.a ++ f.ea ++ f.off).cast (by decide)
/-- Format SplitF: its second word. -/
def SplitF.word1 (f : SplitF) : W32 :=
  (f.z ++ f.meet).cast (by decide)

/-- Format XM: the fields of its word. -/
def XM.ofWord (w : W32) : XM :=
  ⟨w.extractLsb' 22 3, w.extractLsb' 16 6, w.extractLsb' 13 3, w.extractLsb' 10 3, w.extractLsb' 6 4, w.extractLsb' 5 1, w.extractLsb' 0 5⟩
/-- Format XM: its word under opcode `op`. -/
def XM.word (op : BitVec 7) (f : XM) : W32 :=
  (op ++ f.c ++ f.a ++ f.pl ++ f.spl ++ f.fmt ++ f.ru ++ f.sel).cast (by decide)

/-- Format XR: the fields of its word. -/
def XR.ofWord (w : W32) : XR :=
  ⟨w.extractLsb' 21 4, w.extractLsb' 14 7, w.extractLsb' 13 1, w.extractLsb' 10 3, w.extractLsb' 0 10⟩
/-- Format XR: its word under opcode `op`. -/
def XR.word (op : BitVec 7) (f : XR) : W32 :=
  (op ++ f.h ++ f.a ++ f.ea ++ f.pl ++ f.z).cast (by decide)

/-- Format XE: the fields of its word. -/
def XE.ofWord (w : W32) : XE :=
  ⟨w.extractLsb' 22 3, w.extractLsb' 15 7, w.extractLsb' 0 15⟩
/-- Format XE: its word under opcode `op`. -/
def XE.word (op : BitVec 7) (f : XE) : W32 :=
  (op ++ f.c ++ f.d ++ f.z).cast (by decide)

/-- Format E: the fields of its word. -/
def E.ofWord (w : W32) : E :=
  ⟨w.extractLsb' 21 4, w.extractLsb' 14 7, w.extractLsb' 7 7, w.extractLsb' 0 7⟩
/-- Format E: its word under opcode `op`. -/
def E.word (op : BitVec 7) (f : E) : W32 :=
  (op ++ f.h ++ f.a ++ f.b ++ f.c).cast (by decide)

/-- Format Y: the fields of its word. -/
def Y.ofWord (w : W32) : Y :=
  ⟨w.extractLsb' 20 5, w.extractLsb' 13 7, w.extractLsb' 6 7, w.extractLsb' 0 6⟩
/-- Format Y: its word under opcode `op`. -/
def Y.word (op : BitVec 7) (f : Y) : W32 :=
  (op ++ f.n ++ f.a ++ f.b ++ f.imm).cast (by decide)

/-- Format RecruitF: the fields of its two words. -/
def RecruitF.ofWords (w x : W32) : RecruitF :=
  ⟨w.extractLsb' 20 5, w.extractLsb' 13 7, w.extractLsb' 6 7, w.extractLsb' 0 6,
   x.extractLsb' 15 17, x.extractLsb' 8 7, x.extractLsb' 6 2, x.extractLsb' 0 6⟩
/-- Format RecruitF: its first word under opcode `op`. -/
def RecruitF.word0 (op : BitVec 7) (f : RecruitF) : W32 :=
  (op ++ f.n ++ f.a ++ f.b ++ f.imm).cast (by decide)
/-- Format RecruitF: its second word. -/
def RecruitF.word1 (f : RecruitF) : W32 :=
  (f.entry ++ f.d ++ f.z ++ f.xb).cast (by decide)

/-- Format K: the fields of its word. -/
def K.ofWord (w : W32) : K :=
  ⟨w.extractLsb' 18 7, w.extractLsb' 6 12, w.extractLsb' 0 6⟩
/-- Format K: its word under opcode `op`. -/
def K.word (op : BitVec 7) (f : K) : W32 :=
  (op ++ f.d ++ f.srn ++ f.imm).cast (by decide)

/-! ## Opcodes by class (R77, R78) -/

/-- The class S opcodes of R77. -/
def buildS (op : Nat) (w0 w1 : W32) : Option Instr :=
  match op with
  | 0x00 => some (.sAdd (A3.ofWord w0))
  | 0x01 => some (.sSub (A3.ofWord w0))
  | 0x02 => some (.sMul (A3.ofWord w0))
  | 0x03 => some (.sMulhI (A3.ofWord w0))
  | 0x04 => some (.sMulhN (A3.ofWord w0))
  | 0x05 => some (.sDivI (A3.ofWord w0))
  | 0x06 => some (.sDivN (A3.ofWord w0))
  | 0x07 => some (.sAnd (A3.ofWord w0))
  | 0x08 => some (.sOr (A3.ofWord w0))
  | 0x09 => some (.sXor (A3.ofWord w0))
  | 0x0A => some (.sShl (A3.ofWord w0))
  | 0x0B => some (.sShrN (A3.ofWord w0))
  | 0x0C => some (.sShrI (A3.ofWord w0))
  | 0x0D => some (.sMinI (A3.ofWord w0))
  | 0x0E => some (.sMaxI (A3.ofWord w0))
  | 0x0F => some (.sMinN (A3.ofWord w0))
  | 0x10 => some (.sMaxN (A3.ofWord w0))
  | 0x11 => some (.sSeq (A3.ofWord w0))
  | 0x12 => some (.sSne (A3.ofWord w0))
  | 0x13 => some (.sSltI (A3.ofWord w0))
  | 0x14 => some (.sSltN (A3.ofWord w0))
  | 0x15 => some (.sSleI (A3.ofWord w0))
  | 0x16 => some (.sSleN (A3.ofWord w0))
  | 0x17 => some (.sClz (A3.ofWord w0))
  | 0x18 => some (.sPopc (A3.ofWord w0))
  | 0x19 => some (.sMov (A3.ofWord w0))
  | 0x1A => some (.sRdlane (A3.ofWord w0))
  | 0x1B => some (.sSel (A4.ofWords w0 w1))
  | 0x1C => some (.sAddsh (A4.ofWords w0 w1))
  | 0x1D => some (.sBfx (A4.ofWords w0 w1))
  | 0x20 => some (.sAddi (AI.ofWord w0))
  | 0x21 => some (.sAndi (AI.ofWord w0))
  | 0x22 => some (.sOri (AI.ofWord w0))
  | 0x23 => some (.sXori (AI.ofWord w0))
  | 0x24 => some (.sShli (AI.ofWord w0))
  | 0x25 => some (.sShriN (AI.ofWord w0))
  | 0x26 => some (.sShriI (AI.ofWord w0))
  | 0x27 => some (.sLi (AL.ofWords w0 w1))
  | 0x28 => some (.sLih (AL.ofWords w0 w1))
  | 0x40 => some (.br (BR.ofWord w0))
  | 0x41 => some (.brZ (BR.ofWord w0))
  | 0x42 => some (.brNz (BR.ofWord w0))
  | 0x43 => some (.brFar (AL.ofWords w0 w1))
  | 0x44 => some (.call (BR.ofWord w0))
  | 0x45 => some (.ret (BR.ofWord w0))
  | 0x46 => some (.jmpV (BR.ofWord w0))
  | 0x48 => some (.split (SplitF.ofWords w0 w1))
  | 0x49 => some (.meet (BR.ofWord w0))
  | 0x4A => some (.join (BR.ofWord w0))
  | 0x4B => some (.exit (BR.ofWord w0))
  | 0x50 => some (.mBallot (A3.ofWord w0))
  | 0x51 => some (.mAnd (A3.ofWord w0))
  | 0x52 => some (.mOr (A3.ofWord w0))
  | 0x53 => some (.mAndn (A3.ofWord w0))
  | 0x54 => some (.mXor (A3.ofWord w0))
  | 0x55 => some (.mCnt (A3.ofWord w0))
  | 0x56 => some (.mFirst (A3.ofWord w0))
  | 0x57 => some (.mSet (A3.ofWord w0))
  | 0x58 => some (.mGet (A3.ofWord w0))
  | 0x7F => some (.nop (A3.ofWord w0))
  | _ => none

/-- The class V opcodes of R77. -/
def buildV (op : Nat) (w0 w1 : W32) : Option Instr :=
  match op with
  | 0x00 => some (.vAdd (A3.ofWord w0))
  | 0x01 => some (.vSub (A3.ofWord w0))
  | 0x02 => some (.vMul (A3.ofWord w0))
  | 0x03 => some (.vMulhI (A3.ofWord w0))
  | 0x05 => some (.vAnd (A3.ofWord w0))
  | 0x06 => some (.vOr (A3.ofWord w0))
  | 0x07 => some (.vXor (A3.ofWord w0))
  | 0x08 => some (.vShl (A3.ofWord w0))
  | 0x09 => some (.vShrN (A3.ofWord w0))
  | 0x0A => some (.vShrI (A3.ofWord w0))
  | 0x0B => some (.vMinI (A3.ofWord w0))
  | 0x0C => some (.vMaxI (A3.ofWord w0))
  | 0x0D => some (.vMinN (A3.ofWord w0))
  | 0x0E => some (.vMaxN (A3.ofWord w0))
  | 0x10 => some (.vAddsI (A3.ofWord w0))
  | 0x12 => some (.vClz (A3.ofWord w0))
  | 0x13 => some (.vPopc (A3.ofWord w0))
  | 0x14 => some (.vMad (A4.ofWords w0 w1))
  | 0x15 => some (.vAddsh (A4.ofWords w0 w1))
  | 0x18 => some (.vCmpEq (A3.ofWord w0))
  | 0x19 => some (.vCmpNe (A3.ofWord w0))
  | 0x1A => some (.vCmpLtI (A3.ofWord w0))
  | 0x1B => some (.vCmpLeI (A3.ofWord w0))
  | 0x1C => some (.vCmpLtN (A3.ofWord w0))
  | 0x1D => some (.vCmpLeN (A3.ofWord w0))
  | 0x1E => some (.vFcmpEq (A3.ofWord w0))
  | 0x1F => some (.vFcmpLt (A3.ofWord w0))
  | 0x20 => some (.vFcmpLe (A3.ofWord w0))
  | 0x22 => some (.vSel (A4.ofWords w0 w1))
  | 0x24 => some (.vMovi (AI.ofWord w0))
  | 0x25 => some (.vLi (AL.ofWords w0 w1))
  | 0x26 => some (.vMov (A3.ofWord w0))
  | 0x27 => some (.vIota (A3.ofWord w0))
  | 0x28 => some (.vBcast (A3.ofWord w0))
  | 0x29 => some (.vShuf (A3.ofWord w0))
  | 0x2A => some (.vRot (AI.ofWord w0))
  | 0x2B => some (.vWrlane (A3.ofWord w0))
  | 0x2C => some (.vTagof (A3.ofWord w0))
  | 0x2D => some (.vGeneral (A3.ofWord w0))
  | 0x30 => some (.vFadd (A3.ofWord w0))
  | 0x31 => some (.vFsub (A3.ofWord w0))
  | 0x32 => some (.vFmul (A3.ofWord w0))
  | 0x33 => some (.vFma (A3.ofWord w0))
  | 0x34 => some (.vFma4 (A4.ofWords w0 w1))
  | 0x35 => some (.vFmin (A3.ofWord w0))
  | 0x36 => some (.vFmax (A3.ofWord w0))
  | 0x37 => some (.vFdiv (A3.ofWord w0))
  | 0x38 => some (.vFrcp (A3.ofWord w0))
  | 0x39 => some (.vFrsq (A3.ofWord w0))
  | 0x3A => some (.vFsqrt (A3.ofWord w0))
  | 0x3B => some (.vFexp2 (A3.ofWord w0))
  | 0x3C => some (.vFlog2 (A3.ofWord w0))
  | 0x3D => some (.vFclamp (A4.ofWords w0 w1))
  | 0x40 => some (.vHadd (A4.ofWords w0 w1))
  | 0x41 => some (.vHmul (A4.ofWords w0 w1))
  | 0x42 => some (.vHfma (A4.ofWords w0 w1))
  | 0x48 => some (.vCvt (A4.ofWords w0 w1))
  | 0x49 => some (.vCvtSr (A4.ofWords w0 w1))
  | 0x4A => some (.vPack (A4.ofWords w0 w1))
  | 0x4B => some (.vUnpack (A4.ofWords w0 w1))
  | 0x4C => some (.vRnd (A3.ofWord w0))
  | 0x50 => some (.vRsum (A4.ofWords w0 w1))
  | 0x51 => some (.vRmax (A4.ofWords w0 w1))
  | 0x52 => some (.vRmin (A4.ofWords w0 w1))
  | 0x53 => some (.vScan (A4.ofWords w0 w1))
  | 0x58 => some (.vWmax (A4.ofWords w0 w1))
  | 0x59 => some (.vWmin (A4.ofWords w0 w1))
  | 0x5A => some (.vWmed (A4.ofWords w0 w1))
  | 0x5B => some (.vWsat (A4.ofWords w0 w1))
  | 0x5C => some (.vWclamp (A4.ofWords w0 w1))
  | 0x5D => some (.vAdj (A4.ofWords w0 w1))
  | _ => none

/-- The class M opcodes of R77 and R78. -/
noncomputable def buildM (op : Nat) (w0 w1 : W32) : Option Instr :=
  match op with
  | 0x00 => some (.ldN8Ms (MS.ofWord w0))
  | 0x01 => some (.ldI8Ms (MS.ofWord w0))
  | 0x02 => some (.ldN16Ms (MS.ofWord w0))
  | 0x03 => some (.ldI16Ms (MS.ofWord w0))
  | 0x04 => some (.ldB32Ms (MS.ofWord w0))
  | 0x05 => some (.ldB64Ms (MS.ofWord w0))
  | 0x06 => some (.ldB128Ms (MS.ofWord w0))
  | 0x08 => some (.stB8Ms (MS.ofWord w0))
  | 0x09 => some (.stB16Ms (MS.ofWord w0))
  | 0x0A => some (.stB32Ms (MS.ofWord w0))
  | 0x0B => some (.stB64Ms (MS.ofWord w0))
  | 0x0C => some (.stB128Ms (MS.ofWord w0))
  | 0x10 => some (.ldAcqB32Ms (MS.ofWord w0))
  | 0x11 => some (.ldAcqB64Ms (MS.ofWord w0))
  | 0x12 => some (.stRelB32Ms (MS.ofWord w0))
  | 0x13 => some (.stRelB64Ms (MS.ofWord w0))
  | 0x18 => some (.atAddB32Ms (MS.ofWord w0))
  | 0x19 => some (.atAddB64Ms (MS.ofWord w0))
  | 0x1A => some (.atMinI32Ms (MS.ofWord w0))
  | 0x1B => some (.atMaxI32Ms (MS.ofWord w0))
  | 0x1C => some (.atMinN32Ms (MS.ofWord w0))
  | 0x1D => some (.atMaxN32Ms (MS.ofWord w0))
  | 0x1E => some (.atAndB32Ms (MS.ofWord w0))
  | 0x1F => some (.atOrB32Ms (MS.ofWord w0))
  | 0x20 => some (.atXorB32Ms (MS.ofWord w0))
  | 0x21 => some (.atXchgB32Ms (MS.ofWord w0))
  | 0x22 => some (.atXchgB64Ms (MS.ofWord w0))
  | 0x23 => some (.atCasB32 (ML.ofWords w0 w1))
  | 0x24 => some (.atCasB64 (ML.ofWords w0 w1))
  | 0x25 => some (.atFaddF32Ms (MS.ofWord w0))
  | 0x28 => some (.redAddB32Ms (MS.ofWord w0))
  | 0x29 => some (.redAddB64Ms (MS.ofWord w0))
  | 0x2A => some (.redFaddF32Ms (MS.ofWord w0))
  | 0x2B => some (.redHaddBf16x2Ms (MS.ofWord w0))
  | 0x2C => some (.redFmaxF32Ms (MS.ofWord w0))
  | 0x2D => some (.redFminF32Ms (MS.ofWord w0))
  | 0x2E => some (.redMaxI32Ms (MS.ofWord w0))
  | 0x2F => some (.redXadd (ML.ofWords w0 w1))
  | 0x30 => some (.redFlush (MS.ofWord w0))
  | 0x34 => some (.fenceRel (MS.ofWord w0))
  | 0x35 => some (.fenceAcq (MS.ofWord w0))
  | 0x36 => some (.fenceXt (MS.ofWord w0))
  | 0x38 => some (.pfMs (MS.ofWord w0))
  | 0x39 => some (.discard (ML.ofWords w0 w1))
  | 0x3A => some (.fill (ML.ofWords w0 w1))
  | 0x3B => some (.wStMs (MS.ofWord w0))
  | 0x3C => some (.wLdMs (MS.ofWord w0))
  | 0x3D => some (.fifoPushMs (MS.ofWord w0))
  | 0x3E => some (.fifoPopMs (MS.ofWord w0))
  | 0x40 => some (.ldN8Ml (ML.ofWords w0 w1))
  | 0x41 => some (.ldI8Ml (ML.ofWords w0 w1))
  | 0x42 => some (.ldN16Ml (ML.ofWords w0 w1))
  | 0x43 => some (.ldI16Ml (ML.ofWords w0 w1))
  | 0x44 => some (.ldB32Ml (ML.ofWords w0 w1))
  | 0x45 => some (.ldB64Ml (ML.ofWords w0 w1))
  | 0x46 => some (.ldB128Ml (ML.ofWords w0 w1))
  | 0x48 => some (.stB8Ml (ML.ofWords w0 w1))
  | 0x49 => some (.stB16Ml (ML.ofWords w0 w1))
  | 0x4A => some (.stB32Ml (ML.ofWords w0 w1))
  | 0x4B => some (.stB64Ml (ML.ofWords w0 w1))
  | 0x4C => some (.stB128Ml (ML.ofWords w0 w1))
  | 0x50 => some (.ldAcqB32Ml (ML.ofWords w0 w1))
  | 0x51 => some (.ldAcqB64Ml (ML.ofWords w0 w1))
  | 0x52 => some (.stRelB32Ml (ML.ofWords w0 w1))
  | 0x53 => some (.stRelB64Ml (ML.ofWords w0 w1))
  | 0x58 => some (.atAddB32Ml (ML.ofWords w0 w1))
  | 0x59 => some (.atAddB64Ml (ML.ofWords w0 w1))
  | 0x5A => some (.atMinI32Ml (ML.ofWords w0 w1))
  | 0x5B => some (.atMaxI32Ml (ML.ofWords w0 w1))
  | 0x5C => some (.atMinN32Ml (ML.ofWords w0 w1))
  | 0x5D => some (.atMaxN32Ml (ML.ofWords w0 w1))
  | 0x5E => some (.atAndB32Ml (ML.ofWords w0 w1))
  | 0x5F => some (.atOrB32Ml (ML.ofWords w0 w1))
  | 0x60 => some (.atXorB32Ml (ML.ofWords w0 w1))
  | 0x61 => some (.atXchgB32Ml (ML.ofWords w0 w1))
  | 0x62 => some (.atXchgB64Ml (ML.ofWords w0 w1))
  | 0x65 => some (.atFaddF32Ml (ML.ofWords w0 w1))
  | 0x68 => some (.redAddB32Ml (ML.ofWords w0 w1))
  | 0x69 => some (.redAddB64Ml (ML.ofWords w0 w1))
  | 0x6A => some (.redFaddF32Ml (ML.ofWords w0 w1))
  | 0x6B => some (.redHaddBf16x2Ml (ML.ofWords w0 w1))
  | 0x6C => some (.redFmaxF32Ml (ML.ofWords w0 w1))
  | 0x6D => some (.redFminF32Ml (ML.ofWords w0 w1))
  | 0x6E => some (.redMaxI32Ml (ML.ofWords w0 w1))
  | 0x78 => some (.pfMl (ML.ofWords w0 w1))
  | 0x7B => some (.wStMl (ML.ofWords w0 w1))
  | 0x7C => some (.wLdMl (ML.ofWords w0 w1))
  | 0x7D => some (.fifoPushMl (ML.ofWords w0 w1))
  | 0x7E => some (.fifoPopMl (ML.ofWords w0 w1))
  | _ => none

/-- The class X opcodes of R77. -/
def buildX (op : Nat) (w0 _w1 : W32) : Option Instr :=
  match op with
  | 0x00 => some (.cstSet (Y.ofWord w0))
  | 0x01 => some (.cstClr (Y.ofWord w0))
  | 0x04 => some (.mma (XM.ofWord w0))
  | 0x05 => some (.mmaQ (XM.ofWord w0))
  | 0x06 => some (.mmaMx (XM.ofWord w0))
  | 0x08 => some (.accZero (XM.ofWord w0))
  | 0x09 => some (.accRead (XM.ofWord w0))
  | 0x0A => some (.accWrite (XM.ofWord w0))
  | 0x0B => some (.accExp (XE.ofWord w0))
  | 0x10 => some (.pLd (XR.ofWord w0))
  | 0x11 => some (.pZero (XR.ofWord w0))
  | 0x14 => some (.rowOpen (XR.ofWord w0))
  | 0x15 => some (.rowTake (XR.ofWord w0))
  | 0x16 => some (.rowShut (XR.ofWord w0))
  | _ => none

/-- The class E opcodes of R77. -/
def buildE (op : Nat) (w0 _w1 : W32) : Option Instr :=
  match op with
  | 0x00 => some (.cp (E.ofWord w0))
  | 0x01 => some (.cpCvt (E.ofWord w0))
  | 0x02 => some (.cpQ (E.ofWord w0))
  | 0x03 => some (.cpRow (E.ofWord w0))
  | 0x04 => some (.cpDup (E.ofWord w0))
  | 0x08 => some (.collAr (E.ofWord w0))
  | 0x09 => some (.collRs (E.ofWord w0))
  | 0x0A => some (.collAg (E.ofWord w0))
  | 0x0B => some (.collSend (E.ofWord w0))
  | 0x0C => some (.collRecv (E.ofWord w0))
  | 0x0D => some (.collNorm (E.ofWord w0))
  | 0x0E => some (.bucketArm (E.ofWord w0))
  | 0x10 => some (.hTest (E.ofWord w0))
  | 0x11 => some (.hGet (E.ofWord w0))
  | 0x12 => some (.hWait (E.ofWord w0))
  | 0x13 => some (.hCancel (E.ofWord w0))
  | 0x14 => some (.hBind (E.ofWord w0))
  | 0x18 => some (.launch (E.ofWord w0))
  | _ => none

/-- The class Y opcodes of R77. -/
def buildY (op : Nat) (w0 w1 : W32) : Option Instr :=
  match op with
  | 0x00 => some (.rdvInit (Y.ofWord w0))
  | 0x01 => some (.rdvArrive (Y.ofWord w0))
  | 0x02 => some (.rdvWait (Y.ofWord w0))
  | 0x03 => some (.rdvSync (Y.ofWord w0))
  | 0x08 => some (.gbarArrive (Y.ofWord w0))
  | 0x09 => some (.gbarWait (Y.ofWord w0))
  | 0x10 => some (.watch (Y.ofWord w0))
  | 0x11 => some (.sleep (Y.ofWord w0))
  | 0x18 => some (.recruit (RecruitF.ofWords w0 w1))
  | 0x19 => some (.hnext (Y.ofWord w0))
  | 0x1A => some (.hdone (Y.ofWord w0))
  | 0x1B => some (.hjoin (Y.ofWord w0))
  | 0x1C => some (.hsumF32 (Y.ofWord w0))
  | 0x1D => some (.hsumI32 (Y.ofWord w0))
  | 0x20 => some (.yield (Y.ofWord w0))
  | _ => none

/-- The class K opcodes of R77. -/
def buildK (op : Nat) (w0 _w1 : W32) : Option Instr :=
  match op with
  | 0x00 => some (.srRd (K.ofWord w0))
  | 0x01 => some (.srWr (K.ofWord w0))
  | 0x02 => some (.trap (K.ofWord w0))
  | 0x03 => some (.brk (K.ofWord w0))
  | 0x04 => some (.cacheWb (MS.ofWord w0))
  | 0x05 => some (.cacheInv (MS.ofWord w0))
  | 0x06 => some (.bankMode (K.ofWord w0))
  | 0x08 => some (.evtPost (K.ofWord w0))
  | _ => none

/-- The opcodes of a class, by class (R77). -/
noncomputable def build (c : Cls) (op : Nat) (w0 w1 : W32) : Option Instr :=
  match c with
  | .s => buildS op w0 w1 | .v => buildV op w0 w1 | .m => buildM op w0 w1 | .x => buildX op w0 w1
  | .e => buildE op w0 w1 | .y => buildY op w0 w1 | .k => buildK op w0 w1

/-- The opcodes of two-word formats: a decoder finds the length from class and opcode alone (R77, R78). -/
def twoWords (c : Cls) (op : Nat) : Bool :=
  match c with
  | .s => (0x1B ≤ op && op ≤ 0x1D) || (0x27 ≤ op && op ≤ 0x28) || op == 0x43 || op == 0x48
  | .v => (0x14 ≤ op && op ≤ 0x15) || op == 0x22 || op == 0x25 || op == 0x34 || op == 0x3D || (0x40 ≤ op && op ≤ 0x42) || (0x48 ≤ op && op ≤ 0x4B) || (0x50 ≤ op && op ≤ 0x53) || (0x58 ≤ op && op ≤ 0x5D)
  | .m => (0x23 ≤ op && op ≤ 0x24) || op == 0x2F || (0x39 ≤ op && op ≤ 0x3A) || (0x40 ≤ op && op ≤ 0x46) || (0x48 ≤ op && op ≤ 0x4C) || (0x50 ≤ op && op ≤ 0x53) || (0x58 ≤ op && op ≤ 0x62) || op == 0x65 || (0x68 ≤ op && op ≤ 0x6E) || op == 0x78 || (0x7B ≤ op && op ≤ 0x7E)
  | .x => false
  | .e => false
  | .y => op == 0x18
  | .k => false
/-- The clause class and the words of an instruction (R73 to R78); an event has none. -/
def encode : Instr → Option (Cls × W32 × Option W32)
  | .sAdd f => some (.s, A3.word 0x00 f, none)
  | .sSub f => some (.s, A3.word 0x01 f, none)
  | .sMul f => some (.s, A3.word 0x02 f, none)
  | .sMulhI f => some (.s, A3.word 0x03 f, none)
  | .sMulhN f => some (.s, A3.word 0x04 f, none)
  | .sDivI f => some (.s, A3.word 0x05 f, none)
  | .sDivN f => some (.s, A3.word 0x06 f, none)
  | .sAnd f => some (.s, A3.word 0x07 f, none)
  | .sOr f => some (.s, A3.word 0x08 f, none)
  | .sXor f => some (.s, A3.word 0x09 f, none)
  | .sShl f => some (.s, A3.word 0x0A f, none)
  | .sShrN f => some (.s, A3.word 0x0B f, none)
  | .sShrI f => some (.s, A3.word 0x0C f, none)
  | .sMinI f => some (.s, A3.word 0x0D f, none)
  | .sMaxI f => some (.s, A3.word 0x0E f, none)
  | .sMinN f => some (.s, A3.word 0x0F f, none)
  | .sMaxN f => some (.s, A3.word 0x10 f, none)
  | .sSeq f => some (.s, A3.word 0x11 f, none)
  | .sSne f => some (.s, A3.word 0x12 f, none)
  | .sSltI f => some (.s, A3.word 0x13 f, none)
  | .sSltN f => some (.s, A3.word 0x14 f, none)
  | .sSleI f => some (.s, A3.word 0x15 f, none)
  | .sSleN f => some (.s, A3.word 0x16 f, none)
  | .sClz f => some (.s, A3.word 0x17 f, none)
  | .sPopc f => some (.s, A3.word 0x18 f, none)
  | .sMov f => some (.s, A3.word 0x19 f, none)
  | .sRdlane f => some (.s, A3.word 0x1A f, none)
  | .sSel f => some (.s, A4.word0 0x1B f, some (A4.word1 f))
  | .sAddsh f => some (.s, A4.word0 0x1C f, some (A4.word1 f))
  | .sBfx f => some (.s, A4.word0 0x1D f, some (A4.word1 f))
  | .sAddi f => some (.s, AI.word 0x20 f, none)
  | .sAndi f => some (.s, AI.word 0x21 f, none)
  | .sOri f => some (.s, AI.word 0x22 f, none)
  | .sXori f => some (.s, AI.word 0x23 f, none)
  | .sShli f => some (.s, AI.word 0x24 f, none)
  | .sShriN f => some (.s, AI.word 0x25 f, none)
  | .sShriI f => some (.s, AI.word 0x26 f, none)
  | .sLi f => some (.s, AL.word0 0x27 f, some (AL.word1 f))
  | .sLih f => some (.s, AL.word0 0x28 f, some (AL.word1 f))
  | .br f => some (.s, BR.word 0x40 f, none)
  | .brZ f => some (.s, BR.word 0x41 f, none)
  | .brNz f => some (.s, BR.word 0x42 f, none)
  | .brFar f => some (.s, AL.word0 0x43 f, some (AL.word1 f))
  | .call f => some (.s, BR.word 0x44 f, none)
  | .ret f => some (.s, BR.word 0x45 f, none)
  | .jmpV f => some (.s, BR.word 0x46 f, none)
  | .split f => some (.s, SplitF.word0 0x48 f, some (SplitF.word1 f))
  | .meet f => some (.s, BR.word 0x49 f, none)
  | .join f => some (.s, BR.word 0x4A f, none)
  | .exit f => some (.s, BR.word 0x4B f, none)
  | .mBallot f => some (.s, A3.word 0x50 f, none)
  | .mAnd f => some (.s, A3.word 0x51 f, none)
  | .mOr f => some (.s, A3.word 0x52 f, none)
  | .mAndn f => some (.s, A3.word 0x53 f, none)
  | .mXor f => some (.s, A3.word 0x54 f, none)
  | .mCnt f => some (.s, A3.word 0x55 f, none)
  | .mFirst f => some (.s, A3.word 0x56 f, none)
  | .mSet f => some (.s, A3.word 0x57 f, none)
  | .mGet f => some (.s, A3.word 0x58 f, none)
  | .nop f => some (.s, A3.word 0x7F f, none)
  | .vAdd f => some (.v, A3.word 0x00 f, none)
  | .vSub f => some (.v, A3.word 0x01 f, none)
  | .vMul f => some (.v, A3.word 0x02 f, none)
  | .vMulhI f => some (.v, A3.word 0x03 f, none)
  | .vAnd f => some (.v, A3.word 0x05 f, none)
  | .vOr f => some (.v, A3.word 0x06 f, none)
  | .vXor f => some (.v, A3.word 0x07 f, none)
  | .vShl f => some (.v, A3.word 0x08 f, none)
  | .vShrN f => some (.v, A3.word 0x09 f, none)
  | .vShrI f => some (.v, A3.word 0x0A f, none)
  | .vMinI f => some (.v, A3.word 0x0B f, none)
  | .vMaxI f => some (.v, A3.word 0x0C f, none)
  | .vMinN f => some (.v, A3.word 0x0D f, none)
  | .vMaxN f => some (.v, A3.word 0x0E f, none)
  | .vAddsI f => some (.v, A3.word 0x10 f, none)
  | .vClz f => some (.v, A3.word 0x12 f, none)
  | .vPopc f => some (.v, A3.word 0x13 f, none)
  | .vMad f => some (.v, A4.word0 0x14 f, some (A4.word1 f))
  | .vAddsh f => some (.v, A4.word0 0x15 f, some (A4.word1 f))
  | .vCmpEq f => some (.v, A3.word 0x18 f, none)
  | .vCmpNe f => some (.v, A3.word 0x19 f, none)
  | .vCmpLtI f => some (.v, A3.word 0x1A f, none)
  | .vCmpLeI f => some (.v, A3.word 0x1B f, none)
  | .vCmpLtN f => some (.v, A3.word 0x1C f, none)
  | .vCmpLeN f => some (.v, A3.word 0x1D f, none)
  | .vFcmpEq f => some (.v, A3.word 0x1E f, none)
  | .vFcmpLt f => some (.v, A3.word 0x1F f, none)
  | .vFcmpLe f => some (.v, A3.word 0x20 f, none)
  | .vSel f => some (.v, A4.word0 0x22 f, some (A4.word1 f))
  | .vMovi f => some (.v, AI.word 0x24 f, none)
  | .vLi f => some (.v, AL.word0 0x25 f, some (AL.word1 f))
  | .vMov f => some (.v, A3.word 0x26 f, none)
  | .vIota f => some (.v, A3.word 0x27 f, none)
  | .vBcast f => some (.v, A3.word 0x28 f, none)
  | .vShuf f => some (.v, A3.word 0x29 f, none)
  | .vRot f => some (.v, AI.word 0x2A f, none)
  | .vWrlane f => some (.v, A3.word 0x2B f, none)
  | .vTagof f => some (.v, A3.word 0x2C f, none)
  | .vGeneral f => some (.v, A3.word 0x2D f, none)
  | .vFadd f => some (.v, A3.word 0x30 f, none)
  | .vFsub f => some (.v, A3.word 0x31 f, none)
  | .vFmul f => some (.v, A3.word 0x32 f, none)
  | .vFma f => some (.v, A3.word 0x33 f, none)
  | .vFma4 f => some (.v, A4.word0 0x34 f, some (A4.word1 f))
  | .vFmin f => some (.v, A3.word 0x35 f, none)
  | .vFmax f => some (.v, A3.word 0x36 f, none)
  | .vFdiv f => some (.v, A3.word 0x37 f, none)
  | .vFrcp f => some (.v, A3.word 0x38 f, none)
  | .vFrsq f => some (.v, A3.word 0x39 f, none)
  | .vFsqrt f => some (.v, A3.word 0x3A f, none)
  | .vFexp2 f => some (.v, A3.word 0x3B f, none)
  | .vFlog2 f => some (.v, A3.word 0x3C f, none)
  | .vFclamp f => some (.v, A4.word0 0x3D f, some (A4.word1 f))
  | .vHadd f => some (.v, A4.word0 0x40 f, some (A4.word1 f))
  | .vHmul f => some (.v, A4.word0 0x41 f, some (A4.word1 f))
  | .vHfma f => some (.v, A4.word0 0x42 f, some (A4.word1 f))
  | .vCvt f => some (.v, A4.word0 0x48 f, some (A4.word1 f))
  | .vCvtSr f => some (.v, A4.word0 0x49 f, some (A4.word1 f))
  | .vPack f => some (.v, A4.word0 0x4A f, some (A4.word1 f))
  | .vUnpack f => some (.v, A4.word0 0x4B f, some (A4.word1 f))
  | .vRnd f => some (.v, A3.word 0x4C f, none)
  | .vRsum f => some (.v, A4.word0 0x50 f, some (A4.word1 f))
  | .vRmax f => some (.v, A4.word0 0x51 f, some (A4.word1 f))
  | .vRmin f => some (.v, A4.word0 0x52 f, some (A4.word1 f))
  | .vScan f => some (.v, A4.word0 0x53 f, some (A4.word1 f))
  | .vWmax f => some (.v, A4.word0 0x58 f, some (A4.word1 f))
  | .vWmin f => some (.v, A4.word0 0x59 f, some (A4.word1 f))
  | .vWmed f => some (.v, A4.word0 0x5A f, some (A4.word1 f))
  | .vWsat f => some (.v, A4.word0 0x5B f, some (A4.word1 f))
  | .vWclamp f => some (.v, A4.word0 0x5C f, some (A4.word1 f))
  | .vAdj f => some (.v, A4.word0 0x5D f, some (A4.word1 f))
  | .ldN8Ms f => some (.m, MS.word 0x00 f, none)
  | .ldN8Ml f => some (.m, ML.word0 0x40 f, some (ML.word1 f))
  | .ldI8Ms f => some (.m, MS.word 0x01 f, none)
  | .ldI8Ml f => some (.m, ML.word0 0x41 f, some (ML.word1 f))
  | .ldN16Ms f => some (.m, MS.word 0x02 f, none)
  | .ldN16Ml f => some (.m, ML.word0 0x42 f, some (ML.word1 f))
  | .ldI16Ms f => some (.m, MS.word 0x03 f, none)
  | .ldI16Ml f => some (.m, ML.word0 0x43 f, some (ML.word1 f))
  | .ldB32Ms f => some (.m, MS.word 0x04 f, none)
  | .ldB32Ml f => some (.m, ML.word0 0x44 f, some (ML.word1 f))
  | .ldB64Ms f => some (.m, MS.word 0x05 f, none)
  | .ldB64Ml f => some (.m, ML.word0 0x45 f, some (ML.word1 f))
  | .ldB128Ms f => some (.m, MS.word 0x06 f, none)
  | .ldB128Ml f => some (.m, ML.word0 0x46 f, some (ML.word1 f))
  | .stB8Ms f => some (.m, MS.word 0x08 f, none)
  | .stB8Ml f => some (.m, ML.word0 0x48 f, some (ML.word1 f))
  | .stB16Ms f => some (.m, MS.word 0x09 f, none)
  | .stB16Ml f => some (.m, ML.word0 0x49 f, some (ML.word1 f))
  | .stB32Ms f => some (.m, MS.word 0x0A f, none)
  | .stB32Ml f => some (.m, ML.word0 0x4A f, some (ML.word1 f))
  | .stB64Ms f => some (.m, MS.word 0x0B f, none)
  | .stB64Ml f => some (.m, ML.word0 0x4B f, some (ML.word1 f))
  | .stB128Ms f => some (.m, MS.word 0x0C f, none)
  | .stB128Ml f => some (.m, ML.word0 0x4C f, some (ML.word1 f))
  | .ldAcqB32Ms f => some (.m, MS.word 0x10 f, none)
  | .ldAcqB64Ms f => some (.m, MS.word 0x11 f, none)
  | .stRelB32Ms f => some (.m, MS.word 0x12 f, none)
  | .stRelB64Ms f => some (.m, MS.word 0x13 f, none)
  | .atAddB32Ms f => some (.m, MS.word 0x18 f, none)
  | .atAddB64Ms f => some (.m, MS.word 0x19 f, none)
  | .atMinI32Ms f => some (.m, MS.word 0x1A f, none)
  | .atMaxI32Ms f => some (.m, MS.word 0x1B f, none)
  | .atMinN32Ms f => some (.m, MS.word 0x1C f, none)
  | .atMaxN32Ms f => some (.m, MS.word 0x1D f, none)
  | .atAndB32Ms f => some (.m, MS.word 0x1E f, none)
  | .atOrB32Ms f => some (.m, MS.word 0x1F f, none)
  | .atXorB32Ms f => some (.m, MS.word 0x20 f, none)
  | .atXchgB32Ms f => some (.m, MS.word 0x21 f, none)
  | .atXchgB64Ms f => some (.m, MS.word 0x22 f, none)
  | .atFaddF32Ms f => some (.m, MS.word 0x25 f, none)
  | .redAddB32Ms f => some (.m, MS.word 0x28 f, none)
  | .redAddB64Ms f => some (.m, MS.word 0x29 f, none)
  | .redFaddF32Ms f => some (.m, MS.word 0x2A f, none)
  | .redHaddBf16x2Ms f => some (.m, MS.word 0x2B f, none)
  | .redFmaxF32Ms f => some (.m, MS.word 0x2C f, none)
  | .redFminF32Ms f => some (.m, MS.word 0x2D f, none)
  | .redMaxI32Ms f => some (.m, MS.word 0x2E f, none)
  | .redFlush f => some (.m, MS.word 0x30 f, none)
  | .fenceRel f => some (.m, MS.word 0x34 f, none)
  | .fenceAcq f => some (.m, MS.word 0x35 f, none)
  | .fenceXt f => some (.m, MS.word 0x36 f, none)
  | .pfMs f => some (.m, MS.word 0x38 f, none)
  | .discard f => some (.m, ML.word0 0x39 f, some (ML.word1 f))
  | .fill f => some (.m, ML.word0 0x3A f, some (ML.word1 f))
  | .wStMs f => some (.m, MS.word 0x3B f, none)
  | .wLdMs f => some (.m, MS.word 0x3C f, none)
  | .fifoPushMs f => some (.m, MS.word 0x3D f, none)
  | .fifoPopMs f => some (.m, MS.word 0x3E f, none)
  | .cstSet f => some (.x, Y.word 0x00 f, none)
  | .cstClr f => some (.x, Y.word 0x01 f, none)
  | .mma f => some (.x, XM.word 0x04 f, none)
  | .mmaQ f => some (.x, XM.word 0x05 f, none)
  | .mmaMx f => some (.x, XM.word 0x06 f, none)
  | .accZero f => some (.x, XM.word 0x08 f, none)
  | .accRead f => some (.x, XM.word 0x09 f, none)
  | .accWrite f => some (.x, XM.word 0x0A f, none)
  | .accExp f => some (.x, XE.word 0x0B f, none)
  | .pLd f => some (.x, XR.word 0x10 f, none)
  | .pZero f => some (.x, XR.word 0x11 f, none)
  | .rowOpen f => some (.x, XR.word 0x14 f, none)
  | .rowTake f => some (.x, XR.word 0x15 f, none)
  | .rowShut f => some (.x, XR.word 0x16 f, none)
  | .cp f => some (.e, E.word 0x00 f, none)
  | .cpCvt f => some (.e, E.word 0x01 f, none)
  | .cpQ f => some (.e, E.word 0x02 f, none)
  | .cpRow f => some (.e, E.word 0x03 f, none)
  | .cpDup f => some (.e, E.word 0x04 f, none)
  | .collAr f => some (.e, E.word 0x08 f, none)
  | .collRs f => some (.e, E.word 0x09 f, none)
  | .collAg f => some (.e, E.word 0x0A f, none)
  | .collSend f => some (.e, E.word 0x0B f, none)
  | .collRecv f => some (.e, E.word 0x0C f, none)
  | .collNorm f => some (.e, E.word 0x0D f, none)
  | .bucketArm f => some (.e, E.word 0x0E f, none)
  | .hTest f => some (.e, E.word 0x10 f, none)
  | .hGet f => some (.e, E.word 0x11 f, none)
  | .hWait f => some (.e, E.word 0x12 f, none)
  | .hCancel f => some (.e, E.word 0x13 f, none)
  | .hBind f => some (.e, E.word 0x14 f, none)
  | .launch f => some (.e, E.word 0x18 f, none)
  | .rdvInit f => some (.y, Y.word 0x00 f, none)
  | .rdvArrive f => some (.y, Y.word 0x01 f, none)
  | .rdvWait f => some (.y, Y.word 0x02 f, none)
  | .rdvSync f => some (.y, Y.word 0x03 f, none)
  | .gbarArrive f => some (.y, Y.word 0x08 f, none)
  | .gbarWait f => some (.y, Y.word 0x09 f, none)
  | .watch f => some (.y, Y.word 0x10 f, none)
  | .sleep f => some (.y, Y.word 0x11 f, none)
  | .recruit f => some (.y, RecruitF.word0 0x18 f, some (RecruitF.word1 f))
  | .hnext f => some (.y, Y.word 0x19 f, none)
  | .hdone f => some (.y, Y.word 0x1A f, none)
  | .hjoin f => some (.y, Y.word 0x1B f, none)
  | .hsumF32 f => some (.y, Y.word 0x1C f, none)
  | .hsumI32 f => some (.y, Y.word 0x1D f, none)
  | .yield f => some (.y, Y.word 0x20 f, none)
  | .srRd f => some (.k, K.word 0x00 f, none)
  | .srWr f => some (.k, K.word 0x01 f, none)
  | .trap f => some (.k, K.word 0x02 f, none)
  | .brk f => some (.k, K.word 0x03 f, none)
  | .cacheWb f => some (.k, MS.word 0x04 f, none)
  | .cacheInv f => some (.k, MS.word 0x05 f, none)
  | .bankMode f => some (.k, K.word 0x06 f, none)
  | .evtPost f => some (.k, K.word 0x08 f, none)
  | .ldAcqB32Ml f => some (.m, ML.word0 0x50 f, some (ML.word1 f))
  | .ldAcqB64Ml f => some (.m, ML.word0 0x51 f, some (ML.word1 f))
  | .stRelB32Ml f => some (.m, ML.word0 0x52 f, some (ML.word1 f))
  | .stRelB64Ml f => some (.m, ML.word0 0x53 f, some (ML.word1 f))
  | .atAddB32Ml f => some (.m, ML.word0 0x58 f, some (ML.word1 f))
  | .atAddB64Ml f => some (.m, ML.word0 0x59 f, some (ML.word1 f))
  | .atMinI32Ml f => some (.m, ML.word0 0x5A f, some (ML.word1 f))
  | .atMaxI32Ml f => some (.m, ML.word0 0x5B f, some (ML.word1 f))
  | .atMinN32Ml f => some (.m, ML.word0 0x5C f, some (ML.word1 f))
  | .atMaxN32Ml f => some (.m, ML.word0 0x5D f, some (ML.word1 f))
  | .atAndB32Ml f => some (.m, ML.word0 0x5E f, some (ML.word1 f))
  | .atOrB32Ml f => some (.m, ML.word0 0x5F f, some (ML.word1 f))
  | .atXorB32Ml f => some (.m, ML.word0 0x60 f, some (ML.word1 f))
  | .atXchgB32Ml f => some (.m, ML.word0 0x61 f, some (ML.word1 f))
  | .atXchgB64Ml f => some (.m, ML.word0 0x62 f, some (ML.word1 f))
  | .atCasB32 f => some (.m, ML.word0 0x23 f, some (ML.word1 f))
  | .atCasB64 f => some (.m, ML.word0 0x24 f, some (ML.word1 f))
  | .atFaddF32Ml f => some (.m, ML.word0 0x65 f, some (ML.word1 f))
  | .redAddB32Ml f => some (.m, ML.word0 0x68 f, some (ML.word1 f))
  | .redAddB64Ml f => some (.m, ML.word0 0x69 f, some (ML.word1 f))
  | .redFaddF32Ml f => some (.m, ML.word0 0x6A f, some (ML.word1 f))
  | .redHaddBf16x2Ml f => some (.m, ML.word0 0x6B f, some (ML.word1 f))
  | .redFmaxF32Ml f => some (.m, ML.word0 0x6C f, some (ML.word1 f))
  | .redFminF32Ml f => some (.m, ML.word0 0x6D f, some (ML.word1 f))
  | .redMaxI32Ml f => some (.m, ML.word0 0x6E f, some (ML.word1 f))
  | .redXadd f => some (.m, ML.word0 0x2F f, some (ML.word1 f))
  | .pfMl f => some (.m, ML.word0 0x78 f, some (ML.word1 f))
  | .wStMl f => some (.m, ML.word0 0x7B f, some (ML.word1 f))
  | .wLdMl f => some (.m, ML.word0 0x7C f, some (ML.word1 f))
  | .fifoPushMl f => some (.m, ML.word0 0x7D f, some (ML.word1 f))
  | .fifoPopMl f => some (.m, ML.word0 0x7E f, some (ML.word1 f))
  | .pantryReadReturn _ => none
  | .ringDoorbell _ _ _ => none
  | .controlRegisterWrite _ _ _ => none
  | .hostRingRead _ _ => none
  | .recordEligible _ _ => none
  | .dependentRecordDrop _ _ => none
  | .teamPlacement _ => none
  | .preemption _ => none
  | .teamResume _ => none
  | .saveReserveTimeout _ => none
  | .gridCompletion _ => none
  | .loaderLoad _ _ => none
  | .loaderSubmit _ _ _ => none
  | .activeSetEntry _ => none
  | .activePlaceTimeout _ => none
  | .joinRelease _ _ _ => none
  | .forcedRelease _ _ _ => none
  | .hjoinComplete _ _ => none
  | .jointOperationStart _ => none
  | .jointOperationComplete _ _ => none
  | .loadReturn _ => none
  | .accessAtHome _ _ => none
  | .storeAck _ => none
  | .atomicReturn _ => none
  | .reservation _ => none
  | .settlement _ _ => none
  | .recall _ _ => none
  | .monitorArmed _ => none
  | .sleepTimeout _ _ => none
  | .reductionDrain _ _ => none
  | .rdvPhaseRelease _ _ => none
  | .gbarPhaseComplete _ _ => none
  | .fifoResume _ _ => none
  | .bankModeSwitch _ _ => none
  | .tenderChunkCommit _ => none
  | .engineOperationComplete _ => none
  | .flitReceive _ _ => none
  | .engineStallRecovery _ => none
  | .engineFailure _ => none
  | .pLdComplete _ => none
  | .rowActivate _ _ => none
  | .rowOpenComplete _ _ => none
  | .rowTakeComplete _ _ => none
  | .prechargeStart _ _ => none
  | .bankIdle _ _ => none
  | .rowMaxOpenExpiry _ _ => none
  | .refreshSlotStart _ _ => none
  | .refreshSlotEnd _ _ => none
  | .retrainAnnounce _ _ _ => none
  | .retrainWindowStart _ => none
  | .retrainWindowEnd _ => none
  | .faultRecordWrite _ => none
  | .faultQueueRoom _ => none
  | .spillAreaAppend _ => none
  | .resume _ _ => none
  | .resumeAt _ _ => none
  | .killTeam _ _ => none
  | .relaunchTeam _ _ => none
  | .backingRegionRecovery _ _ => none
  | .capacityRecovery _ _ => none
  | .balloonWaitExpiry _ _ => none
  | .topUp _ => none
  | .eventAppend _ _ => none
  | .powerOnBoot _ => none
  | .startStageAdvance _ => none
  | .clockGovernorStep _ _ => none
  | .getMeasurements => none
  | .spdmSecureSession => none
  | .contextCreate _ => none
  | .protectedContextCreate _ => none
  | .contextTeardown _ => none
  | .scrubSector _ => none
  | .rankSetWrite _ _ _ => none
  | .descriptorChange _ _ _ _ => none
  | .pageMap _ _ _ => none
  | .synonymRegister _ _ => none
  | .scrubberPass _ _ _ => none
  | .eccUpgrade _ _ => none
  | .stage1Timeout => none
  | .vaultTrainingFailure _ => none
  | .bootRetry => none
  | .timingEdgeMiss _ => none
  | .retrainingFailure _ => none
  | .overtemperature _ => none
  | .portRetrainFailure _ => none
  | .undecodableWord _ => none
  | .deviceReset => none
  | .deviceInterfaceLock _ => none
  | .ownerKeyEnrolment _ => none
  | .ilurosLinkRetraining _ _ => none

/-! ## Decoding and encoding -/

/-- The classes in the order of their codes (R70). -/
def allCls : List Cls := [.s, .v, .m, .x, .e, .y, .k]

/-- Bit `c` set for each class `c` in which an opcode is allocated (R346). -/
noncomputable def classMask (op : Nat) : Nat :=
  allCls.foldl (fun n c => if (build c op 0 0).isSome then n + 2 ^ c.code else n) 0

/-- Steps 2 and 3 of R343 for a fetched instruction: the opcode within the class (R346), the second word within COUNT
(R345: `w1` is none when it lies past COUNT), the fields that must be zero (R347), the coded fields (R348). -/
noncomputable def decode (c : Cls) (w0 : W32) (w1 : Option W32) : Except WordFault Instr :=
  match build c (opOf w0) w0 (w1.getD 0) with
  | none => if classMask (opOf w0) = 0 then .error (.enc 1) else .error (.cls (classMask (opOf w0)))
  | some i =>
    if twoWords c (opOf w0) && w1.isNone then .error (.hdr 5)
    else if !i.zeroOk then .error (.enc 2)
    else if !i.codedOk then .error (.enc 3)
    else .ok i

/-! ## Bytes -/

/-- The four bytes of a word, little-endian (R2). -/
def wordBytes (w : W32) : List Byte := [w.extractLsb' 0 8, w.extractLsb' 8 8, w.extractLsb' 16 8, w.extractLsb' 24 8]

/-- The word of four bytes, little-endian (R2). -/
def bytesWord (b0 b1 b2 b3 : Byte) : W32 := b3 ++ b2 ++ b1 ++ b0

/-- The instruction at the head of a byte string under a class, and the bytes after it. -/
noncomputable def decodeBytes (c : Cls) (bs : List Byte) : Except WordFault (Instr × List Byte) :=
  match bs with
  | b0 :: b1 :: b2 :: b3 :: rest =>
    let w0 := bytesWord b0 b1 b2 b3
    if twoWords c (opOf w0) then
      match rest with
      | c0 :: c1 :: c2 :: c3 :: rest' => (decode c w0 (some (bytesWord c0 c1 c2 c3))).map (·, rest')
      | _ => (decode c w0 none).map (·, rest)
    else (decode c w0 none).map (·, rest)
  | _ => .error (.enc 1)

/-- The bytes of an instruction's words. -/
def encodeBytes (i : Instr) : Option (Cls × List Byte) :=
  (encode i).map fun e => (e.1, wordBytes e.2.1 ++ (e.2.2.map wordBytes).getD [])

/-- DESIGN CHOICE (log entry 11): a word alone does not tell its clause's class; the classes in which its opcode has the
length of the row are tried first, each time in this order. -/
def tableClasses : List Cls := [.s, .v, .m, .x, .e, .y, .k]
/-- The classes in the order tried for a row of `nbits` bits whose opcode is `op`. -/
def classesFor (nbits op : Nat) : List Cls := (tableClasses.filter fun c => twoWords c op == decide (32 < nbits)) ++ tableClasses

/-- The bytes of an instruction whose bits are `w`, bit 0 the least significant bit of the first word, eight bytes in all. -/
def tableBytes (w : Nat) : List Byte := wordBytes (BitVec.ofNat 32 w) ++ wordBytes (BitVec.ofNat 32 (w / 2 ^ 32))

/-- The class and the instruction of the first class under which the bits of `w` decode. -/
noncomputable def decodeTable (nbits w : Nat) : Option (Cls × Instr) :=
  (classesFor nbits (opOf (BitVec.ofNat 32 w))).findSome? fun c =>
    match decodeBytes c (tableBytes (w % 2 ^ nbits)) with
    | .ok (i, _) => some (c, i)
    | .error _ => none

/-- The instruction the decoder reads from an instruction whose bits are `w`. -/
noncomputable def decodeTableWord (nbits w : Nat) : Option Instr := (decodeTable nbits w).map (·.2)

end Sys2Proof
end

