-- ==== Sys2Proof/Config.lean ====
section
/-! DEFINITION. Config.lean: the counts of the device (01_device R11, R12), the figures a program can observe, what the
schedule may choose at a step, and the free values: constants with no body, of which nothing can be proved. -/

namespace Sys2Proof

/-! ## Counts and figures -/

/-- Tiles, cores, pairs of the device (R11); core `c` lies in tile `c / 16` and pair `c / 2`. -/
def numTiles : Nat := 8
def numCores : Nat := 128
def numPairs : Nat := 64
/-- Group slots of a quadrant (R11). -/
def quadSlots : Nat := 64
/-- Accumulator units, platforms and rendezvous points of a core (R54, R296). -/
def coreUnits : Nat := 128
def corePlats : Nat := 16
def corePoints : Nat := 48
/-- Banks of a pair that teams may hold (R108). -/
def pairTeamBanks : Nat := 28
/-- Bytes of a cluster bank (R12) and entries of its FIFO (R241). -/
def bankBytes : Nat := 65536
def fifoEntries : Nat := 16384
/-- Bytes of a block, line or platform (R12, R248). -/
def lineBytes : Nat := 512
def platBytes : Nat := 2048
/-- Sectors of a vault (R136), of a bank, and those a bank loses under the stronger code (R153). -/
def vaultSectors : Nat := 75497472
def bankSectors : Nat := 393216
def strongLoss : Nat := 98304
/-- Entries of a stockpot (R167), of an ownership directory (R121), helper frames of a quadrant (R38). -/
def potEntries : Nat := 256
def dirLines : Nat := 4096
def quadFrames : Nat := 16
/-- Entries of a share table (R137), of a fault queue and its spill area (R329, R330), of an event queue (R311). -/
def shareEntries : Nat := 1048576
def faultEntries : Nat := 4096
def eventEntries : Nat := 4096
/-- Writes of a group awaiting acknowledgement on one track (R328). -/
def trackWrites : Nat := 255
/-- The nominal core clock in MHz, its bounds and its step (R322). -/
def nominalMHz : Nat := 1750
def minMHz : Nat := 800
def stepMHz : Nat := 25
/-- The core clock cap of start-up stage 4 in MHz (R321). -/
def stage4MHz : Nat := 1200
/-- Bytes of a tender chunk (R272). -/
def chunkBytes : Nat := 65536

/-! ## Moves and upsets -/

/-- The register files of a group (R51). -/
inductive RegFile where
  | v | s | m | h | w | c
  deriving DecidableEq, Repr

/-- What goes wrong beneath a program without any agent's doing: a place that now holds an uncorrectable error (R385, R386;
`table` names the blocks that damaged descriptors or map entries describe), a shadow issue that will disagree twice (R391), a
mirrored operation that will disagree twice (R392); clock edges of a core that its monitors stretch, by `lost` MHz × ns in all
(R322); an error that an access of a bank has corrected (R393). -/
inductive Upset where
  | reg (g : GroupId) (file : RegFile) (n : Nat)
  | platform (t : TeamId) (core n : Nat)
  | scratch (pair bank off : Nat)
  | dram (asid sector : Nat)
  | l2 (asid block : Nat)
  | l1 (pair asid sector : Nat)
  | share (vault sidx : Nat)
  | table (asid first count : Nat)
  | shadow (g : GroupId) (cid : Nat)
  | mirror (core : Nat)
  | stretch (core lost : Nat)
  | corrected (vault bank : Nat)
  deriving DecidableEq, Repr

/-- What one step does: time passes, a cohort issues its next instruction, an event of the device occurs, or an upset
strikes. -/
inductive Move where
  | elapse (ns : Nat)
  | issue (g : GroupId) (cid : Nat)
  | event (i : Instr)
  | upset (u : Upset)
  deriving DecidableEq, Repr, Inhabited

/-! ## Free values -/

namespace Config

/-- DESIGN CHOICE (log entry 2): the move the machine makes at step `tick`; the spec fixes no order of its agents. -/
opaque schedule : Nat → Move
/-- DESIGN CHOICE (log entry 12): the first sector the slice picks for a run of `size` sectors (R144: anywhere in the vault). -/
opaque runChoice : (tick size : Nat) → Nat
/-- DESIGN CHOICE (log entry 134): the set of an L2 slice that a line goes to (R120 gives none). -/
opaque l2Set : (asid block : Nat) → Nat
/-- DESIGN CHOICE (log entry 134): the way of a full set that a slice replaces at step `tick`. -/
opaque l2Victim : (tick : Nat) → Nat
/-- DESIGN CHOICE (log entry 12): the row of its bank the signal box picks for a row slot (R126). -/
opaque rowChoice : (tick slot : Nat) → Nat
/-- DESIGN CHOICE (log entry 14): what x`j` reads in a helper body of a recruitment that exports no register `j` (R40). -/
opaque absentExport : (j : Nat) → W32
/-- DESIGN CHOICE (log entry 13): the key pair drawn from the random source for a key slot (R318). -/
opaque keyMaterial : (tick : Nat) → BitVec 512
/-- DESIGN CHOICE (log entry 13): the signature over the measurement registers (R317). -/
opaque signature : List (List Byte) → List Byte
/-- DESIGN CHOICE (log entry 103): whether the module nears its power limit at step `tick` (R18, R322). -/
opaque nearLimit : (tick : Nat) → Bool
/-- DESIGN CHOICE (log entry 22): whether the scrub engine cannot write the sector it has come to (R394 DETAIL 8). -/
opaque scrubFails : (tick : Nat) → Bool
/-- DESIGN CHOICE (log entry 20): RNEInt of a quotient that has no value in `cp.q` (R275). -/
opaque noQuotient : (why : Nat) → Int
/-- DESIGN CHOICE (log entry 20): the unused half of the last byte of a column of an odd number of 4-bit elements (R273). -/
opaque padNibble : (addr : Nat) → BitVec 4

end Config

end Sys2Proof
end

