-- ==== Sys2Proof/Machine/State.lean ====
section
/-! DEFINITION. Machine/State.lean: everything the spec gives the machine, as plain data; what a step can stop with; and
the machine right after reset. -/

namespace Sys2Proof.Machine

/-! ## Registers of a group (03_encoding R51 to R65) -/

/-- Shape tags (R56): U, A, G. Base and stride of tag A are those of the register's values. -/
inductive Tag where
  | u | a | g
  deriving DecidableEq, Repr

/-- A vector register: one element per home lane, tag, full/empty bit; `bad` while it holds an uncorrectable error (R385). -/
structure VReg where
  lanes : List W32
  tag : Tag
  full : Bool
  bad : Bool
  deriving DecidableEq, Repr

/-- A scalar register. -/
structure SReg where
  val : W64
  full : Bool
  bad : Bool
  deriving DecidableEq, Repr

/-- A mask register; bits at and above width are 0 (R53). -/
structure MReg where
  val : Lanes
  bad : Bool
  deriving DecidableEq, Repr

/-- States of a handle (R65). -/
inductive HState where
  | idle | pending | full | errored
  deriving DecidableEq, Repr

/-- A handle: state, token, error value (R337); `cancel` while `h.cancel` has asked a pending operation to end in error
(R339). -/
structure Handle where
  st : HState
  tok : W64
  code : Nat
  pfx : Nat
  cancel : Bool
  bad : Bool
  deriving DecidableEq, Repr

/-- States of a witness register (R55, R221). -/
inductive WState where
  | empty | live | consumed
  deriving DecidableEq, Repr

/-- A witness register (R221). -/
structure Witness where
  st : WState
  op : Nat
  nm1 : Nat
  elem : Nat
  stamp : Nat
  bytes : List Byte
  bad : Bool
  deriving DecidableEq, Repr

/-- Class of an accumulator element (R98). -/
inductive ECls where
  | fin | pinf | ninf | nan
  deriving DecidableEq, Repr

/-- An accumulator tile (R98): exponent (none = unset), mantissa and class of each element by row and column. -/
structure Tile where
  exp : Option Int
  man : List (List Int)
  cls : List (List ECls)
  bad : Bool
  deriving DecidableEq, Repr

/-- The reuse latch (R255); `rows` pairs a home lane with the values of its registers. -/
structure Latch where
  base : Nat
  count : Nat
  lanes : Lanes
  rows : List (Nat × List W32)
  deriving DecidableEq, Repr

/-! ## Threads, cohorts, recruitments (02_execution) -/

/-- A meeting: clause-header address and call depth (R19). -/
structure Meeting where
  at_ : Nat
  depth : Nat
  deriving DecidableEq, Repr

/-- Where a thread waits at a `join` (R28): the word of the `join` and what its clause's header held. -/
structure Waiting where
  word : Nat
  count : Nat
  cls : Cls
  yld : Bool
  deriving DecidableEq, Repr

/-- A thread's control state beside its cohort's program counter (R19). `wait` is the `join` it waits at. -/
structure Thread where
  meet : Meeting
  stack : List Meeting
  depth : Nat
  wait : Option Waiting
  hosting : Bool
  deriving DecidableEq, Repr

/-- A lend register as a helper frame holds it (R64), with its tag; `written` once the helper has written it, or has a load on
its way to it; `bad` while it holds an uncorrectable error (R385). -/
structure Lend where
  val : W32
  full : Bool
  tag : Tag
  written : Bool
  bad : Bool
  deriving DecidableEq, Repr

/-- What a cohort of one needs to run a helper body (R40): the recruitment and its recruiter's lane, the helper index, and for
k ≥ 1 the host thread and the lend registers of the frame. -/
structure Helper where
  recr : Nat
  k : Nat
  lane : Nat
  host : GroupId
  hostLane : Nat
  lend : List Lend
  deriving DecidableEq, Repr

/-- A deposit of `hsum` (R42). -/
structure Deposit where
  dest : Nat
  chunk : Nat
  isF32 : Bool
  val : W32
  deriving DecidableEq, Repr

/-- A recruitment (R38 to R43). `exports` holds base and stride; a U export has stride 0. -/
structure Recruitment where
  id : Nat
  lane : Nat
  depth : Nat
  chunks : Nat
  next : Nat
  exports : List (W32 × W32)
  deposits : List Deposit
  hosted : Nat
  frame : Bool
  forced : List Nat
  deriving DecidableEq, Repr

/-- The reductions of the stockpot (R233, R234). -/
inductive RedOp where
  | add32 | add64 | fadd | haddBf | fmax | fmin | maxI | xadd (f : Nat)
  deriving DecidableEq, Repr

/-- What a record needs to name an instruction (R328, R372). -/
structure Origin where
  clause : Nat
  word : Nat
  w0 : W32
  w1 : W32
  hv : Bool
  hidx : Nat
  deriving DecidableEq, Repr

/-- A stockpot entry (R166): one beat's contributions (lane, VA, operand), its track and its instruction; `key` is the place of
its group's quadrant and first slot in a round, `hold` names the rendezvous point and phase it is held for (R167). `tick` is the step
its instruction issued in; `gen` the release generation of its track before the arrival that holds it advanced it (R172). -/
structure Entry where
  gid : GroupId
  cid : Nat
  key : Nat
  org : Origin
  trk : Nat
  op : RedOp
  parts : List (Nat × Nat × Nat)
  hold : Option (Nat × Nat)
  tick : Nat
  gen : Nat
  deriving DecidableEq, Repr

/-- What a cohort has already done of the instruction it stands at. -/
inductive Prog where
  /-- Nothing: the instruction has not issued, or issues anew. -/
  | none
  /-- A release on these tracks has drained its entries and waits (R123, R167). -/
  | release (tracks : BitVec 16)
  /-- The release of a class E operation is complete; its issue waits for its handle or for room (R270, R295). -/
  | released
  /-- An acquire or `fence.xt` waits for earlier accesses on these tracks (R123, R236). -/
  | acquire (tracks : BitVec 16)
  /-- A rendezvous wait, or a barrier wait when `grid`, at point or barrier `n` for this phase, its word going to `d` (R243,
  R244); `rdv.sync` has counted its arrival. -/
  | phase (grid : Bool) (n target : Nat) (d : Code)
  /-- `sleep` until this cycle of the core's tile, its reason going to `d` (R246). -/
  | sleep (till : Nat) (d : Code)
  /-- Awake from a `sleep` for this reason, which `d` takes once it is full (R246). -/
  | woken (reason : Nat) (d : Code)
  /-- `watch` until the home slice acknowledges (R245). -/
  | watch
  /-- A matrix instruction in the rendezvous latch (R47). -/
  | latch
  /-- `fifo.push`, or `fifo.pop` when `pop`, on this bank, with these lanes left and the values it appends or has taken (R241). -/
  | fifo (f : ML) (words : Nat) (pop : Bool) (bank : Nat) (rest : List Nat) (got : List (Nat × W32))
  /-- `w.ld` until its image is read (R240). -/
  | image (op : Nat)
  /-- `hjoin` until every hosted helper has executed `hdone` (R43). -/
  | hjoin
  /-- `exit` has done its release and shut its rows (R190). -/
  | ending
  /-- A `red.*` has found its quadrant full and drains its group's entries to make room; these it has still to place (R167). -/
  | spill (rest : List Entry)
  deriving DecidableEq, Repr

/-- A cohort (R24): its threads, its program counter (header address and word index, R71), whether its clause's header has
been taken and what it held; `stopped` after a fault (R326); `flaw` when its next shadowed instruction will disagree twice;
`lastIssue` the step of its last issue (13_scheduling R301). -/
structure Cohort where
  cid : Nat
  lanes : Lanes
  clause : Nat
  word : Nat
  entered : Bool
  count : Nat
  cls : Cls
  yld : Bool
  prog : Prog
  stopped : Bool
  helper : Option Helper
  flaw : Bool
  lastIssue : Nat
  deriving DecidableEq, Repr

/-! ## Faults -/

/-- A fault record (R328) before it is packed; `ops` are the memory operations it covers, `ident` the identity of its team (R172),
`tick` the step its instruction issued in, which orders a group's records (R327). -/
structure FaultRec where
  code : Nat
  detail : Nat
  gid : Option GroupId
  cid : Nat
  core : Nat
  trk : Nat
  org : Origin
  done : Lanes
  pending : Lanes
  va : Nat
  time : Nat
  ops : List Nat
  ident : Nat
  tick : Nat
  deriving DecidableEq, Repr

/-- An item of the store replay list (R372). -/
structure ReplayItem where
  org : Origin
  code : Nat
  pending : Lanes
  va : Nat
  kind : Nat
  deriving DecidableEq, Repr

/-- A record in the fault queue: its index, the record, its replay list, and whether its service has ended (R329). -/
structure QueuedRec where
  idx : Nat
  fault : FaultRec
  items : List ReplayItem
  served : Bool
  deriving DecidableEq, Repr

/-! ## Memory operations under way -/

/-- The returning atomics (R231). -/
inductive AtOp where
  | add | minI | maxI | minN | maxN | and | or | xor | xchg | cas | fadd
  deriving DecidableEq, Repr

/-- Where a value that memory returns goes. -/
inductive Dest where
  | none
  /-- `n` consecutive v registers from `r`, per lane (R52); `bcast` tags the result U (R59). -/
  | v (r n : Nat) (bcast : Bool)
  | s (r : Nat)
  /-- Lend register `r` of a hosted helper's frame (R64). -/
  | lend (cid r n : Nat)
  | w (k : Nat)
  /-- Platform `p` of the core, and the handle (R262). -/
  | plat (p h : Nat)
  deriving DecidableEq, Repr

/-- Kinds of memory operation. -/
inductive OpKind where
  | load (signed : Bool) (acq : Bool)
  | const (signed : Bool)
  | store
  | atomic (a : AtOp)
  | red (r : RedOp)
  | image
  | unimage
  | discard
  | fill
  | cacheOp (inv : Bool) (cp : Nat)
  | pld
  /-- `acc.read` or `acc.exp` on its way to its registers (R61): no access to memory. -/
  | acc
  deriving DecidableEq, Repr

/-- How far a part of an access has come at its home: on its way or held there, held by a recall (R121), waiting for a
reservation (R142), performed, refused (code, DETAIL, and TIME then). -/
inductive PSt where
  | waiting | recalled | reserving | done
  | nack (code detail time : Nat)
  deriving DecidableEq, Repr

/-- A place in memory: a byte of the context's global space, or a byte of a bank of the pair (R107, R108). -/
inductive Loc where
  | glob (va : Nat)
  | bank (b off : Nat)
  deriving DecidableEq, Repr

/-- A part of an access: one thread's bytes `off` to `off + n` (single-copy atomic, R155) at one place, what it writes
(`val`, and `cmp` for `at.cas`) and what it has read. A replayed part acts ahead of the replay marker (R373). -/
structure Part where
  lane : Nat
  off : Nat
  n : Nat
  loc : Loc
  val : Nat
  cmp : Nat
  got : Nat
  st : PSt
  replay : Bool
  noted : Bool
  deriving DecidableEq, Repr

/-- A memory operation: one instruction's access, or one drained entry. `round` orders a drain round (R167), `hold` names the
rendezvous point and phase of its round; `strm` marks CP 1 (R124); `ep`, `gen`
and `tick` are the pair epoch, the release generation and the step of its issue, `fence` the step of the group's last event on
all tracks before it (R156); `width` is the access size; `core` is that of its group at its issue; `lo`, `hi`
and `pos` run over the range of `discard`, `fill` and the cache instructions, `priv` the base and group width where it lies in
private space (R109); `pc` is set while it counts on its track. -/
structure MemOp where
  id : Nat
  kind : OpKind
  gid : GroupId
  cid : Nat
  core : Nat
  asid : Nat
  trk : Nat
  round : Option Nat
  hold : Option (Nat × Nat)
  lanes : Lanes
  dest : Dest
  width : Nat
  org : Origin
  ep : Nat
  bypass : Bool
  strm : Bool
  gen : Nat
  tick : Nat
  fence : Nat
  parts : List Part
  lo : Nat
  hi : Nat
  pos : Nat
  priv : Option (Nat × Nat)
  tok : W64
  pc : Bool
  deriving DecidableEq, Repr

/-- A track of the group that a slice has closed (R362); `replaying` between RESUME and the replay marker (R373). -/
structure Closed where
  trk : Nat
  slice : Nat
  replaying : Bool
  deriving DecidableEq, Repr

/-! ## Groups, teams, grids (02_execution, 13_scheduling) -/

/-- The monitor of `watch` (R245). -/
structure Monitor where
  line : Nat
  armed : Bool
  fired : Bool
  deriving DecidableEq, Repr

/-- A copy that `s.rdlane` has deferred until its source register is full (R179): destination, v source, the lane it reads,
the cohort it writes a v destination in. -/
structure Deferral where
  d : Code
  a : Nat
  lane : Nat
  lanes : Lanes
  deriving DecidableEq, Repr

/-- A group. `held` lists its records not yet in the fault queue, `records` counts those not yet serviced, `nacked` is set
from a NACK to its record (R326, R363); `xt` is the step of its last `fence.xt`, `allAt` of its last
event on all 16 tracks (R156); `active`, `placed` and `yielded` are its
place in the active set (R299, R300), `ready` whether it was last found so, `readySince` the cycle from which it has been seen ready without issuing, `lastIssue` the step
of its last issue (R301). `lastArr` and `barArr` hold the phase of its last arrival at each point and barrier
until it waits; `barWait` the phase it last arrived in (R242, R244). -/
structure Group where
  id : GroupId
  asid : Nat
  core : Nat
  quad : Nat
  slots : List Nat
  width : Nat
  vregs : Nat
  acc : Nat
  plat : Nat
  banks : Nat
  rdv : Nat
  lendCount : Nat
  v : List VReg
  s : List SReg
  m : List MReg
  h : List Handle
  w : List Witness
  c : List Tile
  latch : Option Latch
  randkey : W64
  stamp : Nat
  why : W64
  pc : List Nat
  pot : List Entry
  monitor : Option Monitor
  lastArr : List (Option Nat)
  barArr : List (Option Nat)
  barWait : List (Option Nat)
  threads : List Thread
  cohorts : List Cohort
  recruits : List Recruitment
  nextCid : Nat
  held : List FaultRec
  records : Nat
  nacked : Bool
  closed : List Closed
  copies : List Deferral
  xt : Nat
  allAt : Nat
  active : Bool
  placed : Nat
  yielded : Bool
  ready : Bool
  readySince : Option Nat
  lastIssue : Nat
  deriving DecidableEq, Repr

/-- A rendezvous point (R242); `err` holds the code while its phase stands in error (R336). `phase` counts without bound;
the phase number is its value modulo 128. -/
structure Point where
  expected : Nat
  arrivals : Nat
  phase : Nat
  err : Option Nat
  deriving DecidableEq, Repr

/-- A platform of a core of the team (R248), its writes under way by number in issue order (R171). -/
structure Platform where
  core : Nat
  n : Nat
  bytes : List Host.Cell
  writes : List Nat
  bad : Bool
  deriving DecidableEq, Repr

/-- A matrix instruction as it waits in the rendezvous latch or runs: its group, cohort, fields, A rows (R253, R256), and the
completion point of the consist that listed its group at its issue, none where none did (R46). -/
structure MatInstr where
  grp : Nat
  cid : Nat
  kind : Nat
  f : XM
  rows : List (Nat × List W32)
  org : Origin
  joint : Option Nat
  deriving DecidableEq, Repr

/-- A matrix operation under way: the instructions it performs, the B and scale platforms as read at its start. -/
structure MatRun where
  id : Nat
  team : TeamId
  instrs : List MatInstr
  b : List Host.Cell
  scale : List Host.Cell
  start : Nat
  point : Option Nat
  deriving DecidableEq, Repr

/-- A consist (R46, R257): core, listed groups, completion point, the point's former expected count. -/
structure Consist where
  core : Nat
  mask : Lanes
  point : Nat
  former : Nat
  deriving DecidableEq, Repr

/-- Modes of a cluster bank (R119). -/
inductive BankMode where
  | way | scratch | fifo
  deriving DecidableEq, Repr

/-- A cluster bank: mode, owner team, bytes that are not zero, FIFO, offsets in error, and a `bank.mode` under way with the
number the next operation had at its issue (R119). -/
structure CBank where
  mode : BankMode
  owner : Option TeamId
  bytes : List Host.Cell
  fifo : List W32
  bad : List Nat
  switch : Option (BankMode × Nat)
  deriving DecidableEq, Repr

/-- A row recorded at pre-emption (R268, R305): slot address, handle, group, token and expiry reason. -/
structure SavedRow where
  slot : Nat
  core : Nat
  h : Nat
  grp : Nat
  tok : W64
  expired : Option Nat
  deriving DecidableEq, Repr

/-- A part of a save area (R305); `grp` numbers the group of a group block. -/
inductive SavePart where
  | teamHeader | gens | points | consists | rows | entries | plats | banks
  | groupHeader (grp : Nat) | sregs (grp : Nat) | masks (grp : Nat) | handles (grp : Nat) | witnesses (grp : Nat)
  | tags (grp : Nat) | values (grp : Nat) | latch (grp : Nat) | tiles (grp : Nat) | threads (grp : Nat)
  deriving DecidableEq, Repr

/-- What the team does as a whole (R304). -/
inductive TeamState where
  | running | saved
  deriving DecidableEq, Repr

/-- A team. `deferredRoom` is the size of its deferred area in bytes, `wants` while a move into it waits for a step of 64 KiB
(R389). `area` is the layout of its save area while it is saved: the parts in order and their bytes (R305). `stop` while
pre-emption has asked it to stop (R304), `halted` the cohorts (group, number) found waiting at an instruction since, `ending` once
a record's service has begun to end it (R335): its groups issue nothing more. -/
structure Team where
  id : TeamId
  asid : Nat
  st : TeamState
  core : Nat
  pairTeam : Bool
  ident : Nat
  ae : Nat
  gens : List Nat
  points : List Point
  plats : List Platform
  banks : List Nat
  savedBanks : List CBank
  consists : List Consist
  latched : List MatInstr
  deferred : List Entry
  deferredRoom : Nat
  wants : Bool
  rows : List SavedRow
  area : List (SavePart × Nat)
  reserve : Nat
  placedAt : Nat
  stop : Bool
  halted : List (Nat × Nat)
  ending : Bool
  arrivalsDone : List (Nat × Nat × Nat)
  engineOps : Nat
  launches : Nat
  deriving DecidableEq, Repr

/-- A grid barrier (R244). -/
structure Barrier where
  phase : Nat
  deriving DecidableEq, Repr

/-- What a grid with RELAUNCH = 1 keeps of a team index (R388, R390): relaunches; (barrier, group, count, phases of the
arrivals); tokens of its turntable operations and launches in issue order. -/
structure Kept where
  team : Nat
  relaunches : Nat
  arrivals : List (Nat × Nat × List Nat)
  engines : List W64
  launches : List W64
  deriving DecidableEq, Repr

/-- A grid from its submission on. `next` is the lowest-numbered unplaced team; `ended` lists the teams that have ended;
`again` the failed teams to place anew (R388). -/
structure Grid where
  id : GridId
  asid : Nat
  q : LaunchWords
  queue : Nat
  core : Nat
  next : Nat
  ended : List Nat
  again : List Nat
  failed : Option Nat
  bars : List Barrier
  kept : List Kept
  tick : Nat
  waitSince : Option Nat
  deriving DecidableEq, Repr

/-! ## Cores, pairs, vaults -/

/-- States of an open-row entry (R264). -/
inductive RowState where
  | opening | opened
  | expired (why : Nat)
  deriving DecidableEq, Repr

/-- An open-row table entry in use (R264): slot address, bank, row, token, the group and handle it was opened under, cycle of its
`row.open` and of its activation, and the end of the last take's bus occupancy. -/
structure RowEntry where
  e : Nat
  st : RowState
  asid : Nat
  slot : Nat
  bank : Nat
  row : Nat
  tok : W64
  gid : GroupId
  h : Nat
  opened : Nat
  activated : Option Nat
  takeEnd : Nat
  deriving DecidableEq, Repr

/-- A `row.take` under way (R266): platform, cycle its bus occupancy began, and the bytes of the row it reads then. -/
structure Take where
  id : Nat
  e : Nat
  tok : W64
  gid : GroupId
  p : Nat
  start : Nat
  bytes : List Host.Cell
  deriving DecidableEq, Repr

/-- A core: open rows, rows of tokens that name no entry any more with how they ended, takes, matrix operations; `mirror` when
the next mirrored operation will disagree twice (R392). -/
structure Core where
  rows : List RowEntry
  gone : List RowEntry
  takes : List Take
  runs : List MatRun
  mirror : Bool
  deriving DecidableEq, Repr

/-- A sector of an L1 line (R117, R118): its fill epoch, the step of its fill, its bytes as one number. DEDUCED (log entry 129):
each sector takes the epoch of its own fill. -/
structure L1Sector where
  n : Nat
  ep : Nat
  tick : Nat
  data : Nat
  deriving DecidableEq, Repr

/-- A line of the L1 of a pair: bank (way), ASID, line address, valid sectors. Lines stand from most to least recently used. -/
structure L1Line where
  bank : Nat
  asid : Nat
  line : Nat
  sectors : List L1Sector
  deriving DecidableEq, Repr

/-- A core pair: epoch, banks by number, L1 lines. -/
structure Pair where
  ep : Nat
  banks : List CBank
  l1 : List L1Line
  deriving DecidableEq, Repr

/-- States of a DRAM bank (R128); a shutting one still holds its row until its precharge. -/
inductive BankState where
  | idle
  | activating (e : Nat)
  | opened (e : Nat)
  | shutting (earliest row : Nat)
  | precharging (since : Nat)
  | refreshing (since : Nat)
  | retraining
  deriving DecidableEq, Repr

/-- A DRAM bank where it differs from a bank at rest: state, postponed refresh slots (R129), stronger code, corrected
errors by the time they were counted, rows left to rewrite under the stronger code (R393), slots begun; `held` numbers the
operations, fetches and device writes whose cache-path access its open row has held (R128). -/
structure DBank where
  n : Nat
  st : BankState
  postponed : Nat
  strong : Bool
  errs : List (Nat × Nat)
  rewrite : Nat
  slots : Nat
  held : List Nat
  deriving DecidableEq, Repr

/-- A retraining window of a vault (R130, R131): start and length in ns. -/
structure Window where
  start : Nat
  len : Nat
  active : Bool
  deriving DecidableEq, Repr

/-- A share-table entry in use (R137). -/
structure Share where
  sidx : Nat
  refs : Nat
  code : Nat
  sector : Nat
  deriving DecidableEq, Repr

/-- A line of an L2 slice: its context and block, a valid and a dirty bit for each sector (R120). -/
structure L2Line where
  asid : Nat
  block : Nat
  valid : BitVec 8
  dirty : BitVec 8
  deriving DecidableEq, Repr

/-- A vault and its slice. `runs` are the runs in use (first sector, size), `rows` the DRAM rows that row pages hold, `retired` the
sectors the scrub engine could not write (R394). -/
structure Vault where
  banks : List DBank
  window : Option Window
  lastWindow : Option Nat
  busEnd : Nat
  degraded : Bool
  trainFails : Nat
  windowFails : Nat
  shares : List Share
  runs : List (Nat × Nat)
  rows : List (Nat × Nat)
  retired : List Nat
  trained : Bool
  l2 : List L2Line
  deriving DecidableEq, Repr

/-! ## Contexts and partitions -/

/-- A map entry (R136). -/
structure MapEntry where
  code : Nat
  shared : Bool
  poison : Bool
  sidx : Nat
  loc : Nat
  deriving DecidableEq, Repr

/-- A dirty line at its home: the owned size recorded with it (R142), whether the block still owns its run (R144), and the block's
bytes, by their places in memory, as its run in DRAM still holds them. -/
structure Dirty where
  block : Nat
  owned : Nat
  ownsRun : Bool
  old : List Host.Cell
  deriving DecidableEq, Repr

/-- The writer tag or reader tag of a sector (R172). -/
structure RaceTag where
  ident : Nat
  trk : Nat
  gen : Nat
  plain : Bool
  mask : Nat
  deriving DecidableEq, Repr

/-- The race tags of a sector (R172). -/
structure SectorTags where
  sector : Nat
  writer : Option RaceTag
  reader : Option RaceTag
  deriving DecidableEq, Repr

/-- A mailbox (R278). -/
structure Mbox where
  val : W32
  seq : Nat
  valid : Bool
  deriving DecidableEq, Repr

/-- An event queue (R311): base, next index counted without bound, events posted and not yet appended (KIND, CORE,
PAYLOAD). -/
structure EventQueue where
  base : QueueBase
  next : Nat
  waiting : List (Nat × Nat × W64)
  deriving DecidableEq, Repr

/-- A reservation on its way to the pantry home (R142). -/
structure Reserve where
  op : Nat
  part : Nat
  need : Nat
  deriving DecidableEq, Repr

/-- A PANTRY.FREE or PANTRY.HELD read on its way to the pantry home (R145). -/
structure PantryRead where
  id : Nat
  gid : GroupId
  held : Bool
  lanes : Lanes
  dest : Dest
  deriving DecidableEq, Repr

/-- An armed bucket (R279). -/
structure Bucket where
  eng : Nat
  lo : Nat
  len : Nat
  expect : Nat
  count : Nat
  deriving DecidableEq, Repr

/-- A context. `owed` lists the targets posted to it and still outstanding: the short context each serves, its sectors (R149).
`waitSince` holds when a wait for balloon sectors began (R371), by what waits. `loadStopped` is set once the loader has stopped
with an error (R397), `toSubmit` the records the loader has written and is still to submit, with their priorities (R403), `ending` once its teardown has begun (R320). -/
structure Context where
  asid : Nat
  part : Nat
  descs : List ((Nat × Nat) × W64)
  entries : List (Nat × MapEntry)
  dirty : List Dirty
  dramBad : List Nat
  l2Bad : List Nat
  tags : List SectorTags
  budget : Nat
  free : Nat
  held : Nat
  watermark : Nat
  balloonReq : Nat
  balloonList : Nat
  pantryHome : Nat
  reserves : List Reserve
  reads : List PantryRead
  mboxes : List Mbox
  queues : List EventQueue
  notify : Nat
  fq : List QueuedRec
  fqNext : Nat
  spill : List FaultRec
  backing : List BackingRegion
  actions : List (Nat × Action)
  saveReserve : Nat
  owed : List (Nat × Nat)
  waitSince : List (Nat × Nat)
  buckets : List Bucket
  key : Option Nat
  loadStopped : Bool
  toSubmit : List (Nat × LaunchWords)
  ending : Bool
  deriving DecidableEq, Repr

/-- A launch record in a queue (R293). -/
structure Launch where
  grid : GridId
  eligible : Bool
  deriving DecidableEq, Repr

/-- A host ring (R310). -/
structure Ring where
  cfg : W64
  tail : Nat
  head : Nat
  deriving DecidableEq, Repr

/-- An operation that has failed (R337, R338): KIND, SEQ, CODE, PREFIX. -/
structure FailedOp where
  kind : Nat
  seq : Nat
  code : Nat
  pfx : Nat
  deriving DecidableEq, Repr

/-- A partition (R308). `scrub` is its scrub queue (vault, sector), `scrubDone` counts the sectors done, `scrubbing` lists the
cores that a torn-down context has left, `scrubBanks` its cluster banks (pair, bank), `returning` the sectors of its tables,
segments and row pages, which go back to the pool with the scrub's end (R320). `ports` lists its Iluros ports. `blocked` lists the
teams that have fitted nowhere (R296). `seqs` counts the operations of KIND 1 to 5 issued (R271); `live` lists the tokens of those
not yet completed; `collectives` counts the collectives placed in each rank set (R314). -/
structure Partition where
  first : Nat
  tiles : Nat
  ratio : Nat
  pool : Nat
  mapped : Nat
  queues : List (List Launch)
  lastQueue : Nat
  blocked : List (GridId × Nat)
  rings : List Ring
  seqs : List Nat
  live : List W64
  failed : List FailedOp
  rankSets : List (Nat × RankSet)
  collectives : List (Nat × Nat)
  synonyms : List Synonym
  nextIdent : Nat
  scrub : List (Nat × Nat)
  scrubDone : Nat
  scrubbing : List Nat
  scrubBanks : List (Nat × Nat)
  returning : Nat
  ports : List Nat
  deriving DecidableEq, Repr

/-- Kinds of engine operation (R272, R277). -/
inductive EngKind where
  | cp | cvt | quant | row | dup
  | ar | rs | ag | send | recv | norm | bucket
  deriving DecidableEq, Repr

/-- An engine operation under way. A, B and C are its operands; `chunk` the chunks committed (R272); `snap` the bytes of an
overlapping source at issue, `lag` while they are not all read, `late` the pieces still to be read; `granted` the reservations (ASID, block, sectors) of a chunk
that waits; `stall` the code and address of a recoverable fault (R375); `failed` code, address and PREFIX of a failure; `plan` the
descriptor it has read, none before that; `place` its place in its rank set (R314); `peers` the elements other ranks have sent;
`started` once a collective has read its source, `shot`. -/
structure Engine where
  id : Nat
  kind : EngKind
  gid : GroupId
  asid : Nat
  part : Nat
  core : Nat
  tok : W64
  a : W64
  b : W64
  c : W64
  total : Nat
  chunk : Nat
  snap : Option (List Host.Cell)
  lag : Bool
  late : List (Nat × Nat)
  owned : List Nat
  granted : List (Nat × Nat × Nat)
  stall : Option (Nat × Nat)
  cancel : Bool
  failed : Option (Nat × Nat × Nat)
  plan : Option (List W64)
  rset : Nat
  place : Nat
  peers : List (Nat × List W32)
  started : Bool
  shot : Option (List W32)
  deriving DecidableEq, Repr

/-- A compute tile: clock in MHz, cycles counted in MHz × ns, closed to new teams, times of its edge misses at
800 MHz, time of its last step (R322, R394). -/
structure TileState where
  mhz : Nat
  acc : Nat
  closed : Bool
  misses : List Nat
  lastStep : Nat
  deriving DecidableEq, Repr

/-- An Iluros port (R313): `paused` lists the channels its peer has stopped, `stopped` those it has stopped its peer on, `inbox` the
flits received and not yet delivered. -/
structure Port where
  up : Bool
  enabled : Bool
  fails : Nat
  paused : List Nat
  unacked : List Flit
  nextSeq : Nat
  expect : Nat
  toSend : List Flit
  inbox : List Flit
  stopped : List Nat
  deriving DecidableEq, Repr

/-- A key slot (R318): owner and key pair. -/
structure KeySlot where
  owner : Option Nat
  key : BitVec 512
  deriving DecidableEq, Repr

/-- On-package flash (R316, R320, R393): owner key digest, banks on the stronger code, scrub queue by partition. -/
structure Flash where
  owner : Option (List Byte)
  strong : List (Nat × Nat)
  scrub : List (Nat × Nat × Nat)
  deriving DecidableEq, Repr

/-- A report over the management port or to a host that no program reads: a failure's stage and DETAIL (R394), the measurement
answer (R317), an MSI-X vector of a virtual function (R312), a load that stopped (R397). -/
inductive Report where
  | env (stage detail : Nat)
  | measurements (regs : List (List Byte)) (sig : List Byte)
  | msix (vf vector : Nat)
  | load (asid : Nat)
  deriving DecidableEq, Repr

/-- The cohort whose instruction `exec` performs, and the words it was fetched as (for fault records). -/
structure Issue where
  gid : GroupId
  cid : Nat
  w0 : W32
  w1 : W32
  deriving DecidableEq, Repr

/-- The machine. `stage` is the start-up stage (R321); `bootStep` the step of R316 the boot has come to, 0 while a failed boot
waits for its retry, 8 once the firmware runs, 9 while the flash cannot be unsealed; `bootTime` the time such a wait began, or
that of the next report of stage 1 (R394); `locked` the locked virtual functions (R318); `dead` once the module has powered down,
`hot` while the inlet stands above +45 °C (R394), `above30` while it stands above +30 °C (R322); `slot` and `macOffset` the straps
read at boot (R316); `stretched` lists for cores what stretched edges are still to cost their CLOCK and have cost it, in MHz × ns
(R322). -/
structure State where
  time : Nat
  stage : Nat
  bootStep : Nat
  bootTime : Nat
  measurements : List (List Byte)
  spdm : Bool
  locked : List Nat
  flash : Flash
  keys : List KeySlot
  ports : List Port
  reports : List Report
  dead : Bool
  hot : Bool
  above30 : Bool
  slot : Nat
  macOffset : Nat
  stretched : List (Nat × Nat × Nat)
  tiles : List TileState
  parts : List Partition
  ctxs : List Context
  grids : List Grid
  teams : List Team
  groups : List Group
  ops : List MemOp
  engs : List Engine
  cores : List (Nat × Core)
  pairs : List (Nat × Pair)
  vaults : List (Nat × Vault)
  mem : List Host.Cell
  hostMem : List Host.Cell
  nextId : Nat
  nextRound : Nat
  cur : Option Issue
  agenda : List Move
  tick : Nat
  deriving DecidableEq, Repr

/-- Why the machine stops. -/
inductive Fault where
  /-- Raised by `step` in a module that has powered down (21_faults_containment R394 DETAIL 7). Safe: nothing runs after it. -/
  | poweredDown
  deriving DecidableEq, Repr

/-- Why `exec` gives an instruction no meaning. -/
inductive Refusal where
  /-- Raised by an arm of `exec` for an instruction not modelled yet. Safe: the run ends. -/
  | notModelled (mnemonic : String)
  /-- Raised by a meaning when `State.cur` names no cohort of a running group: no instruction issues without one. Safe. -/
  | noCohort
  deriving DecidableEq, Repr

/-! ## Reset -/

/-- A cluster bank at reset: way mode, no owner, zero (R405). -/
def CBank.reset : CBank := ⟨.way, none, [], [], [], none⟩
/-- A pair at reset; DESIGN CHOICE (log entry 9): EP is 1. -/
def Pair.reset : Pair := ⟨1, List.replicate 32 CBank.reset, []⟩
/-- A core at reset. -/
def Core.reset : Core := ⟨[], [], [], [], false⟩
/-- A DRAM bank at reset: idle under the standard code (R152). -/
def DBank.reset (n : Nat) : DBank := ⟨n, .idle, 0, false, [], 0, 0, []⟩
/-- A vault at reset. -/
def Vault.reset : Vault := ⟨[], none, none, 0, false, 0, 0, [], [], [], [], false, []⟩
/-- A tile at reset; DESIGN CHOICE (log entry 4): its clock stands at the stage 4 cap. -/
def TileState.reset : TileState := ⟨stage4MHz, 0, false, [], 0⟩
/-- A port at reset; DESIGN CHOICE (log entry 5): its link is up. -/
def Port.reset : Port := ⟨true, true, 0, [], [], 0, 0, [], [], []⟩
/-- Flash at reset; DESIGN CHOICE (log entry 5): nothing enrolled, queued or moved. -/
def Flash.reset : Flash := ⟨none, [], []⟩

/-- The machine right after reset: power-on, start-up stage 0, boot step 1, no partition, context or grid (R316, R321). -/
def State.reset : State where
  time := 0
  stage := 0
  bootStep := 1
  bootTime := 0
  measurements := []
  spdm := false
  locked := []
  flash := Flash.reset
  keys := List.replicate 64 ⟨none, 0⟩
  ports := List.replicate 16 Port.reset
  reports := []
  dead := false
  hot := false
  above30 := false
  slot := 0
  macOffset := 0
  stretched := []
  tiles := List.replicate 8 TileState.reset
  parts := []
  ctxs := []
  grids := []
  teams := []
  groups := []
  ops := []
  engs := []
  cores := []
  pairs := []
  vaults := []
  mem := []
  hostMem := []
  nextId := 0
  nextRound := 0
  cur := none
  agenda := []
  tick := 0

end Sys2Proof.Machine
end

