-- ==== Sys2Proof/Machine/Ops.lean ====
section
/-! DEFINITION. Machine/Ops.lean: the named operations over the state: who is executing, reading and writing groups and
their registers, moving a cohort on, taking an exception (18_faults R326, R328, R332) and returning from one (R333). -/

namespace Sys2Proof.Machine

/-- The outcome of a meaning. -/
abbrev Out := Host.Outcome State Fault Refusal

/-- Bits `lo + n − 1` to `lo` of a number. -/
def bitsOf (w lo n : Nat) : Nat := w / 2 ^ lo % 2 ^ n
/-- Whether bit `i` of a number is 1. -/
def bitAt (w i : Nat) : Bool := w / 2 ^ i % 2 == 1
/-- A signed reading of the low `n` bits of a number. -/
def signedOf (n w : Nat) : Int := if 2 ^ (n - 1) ≤ w % 2 ^ n then (w % 2 ^ n : Nat) - (2 ^ n : Int) else (w % 2 ^ n : Nat)
/-- The value of the pair whose key is `k`. -/
def assoc [BEq κ] (k : κ) (l : List (κ × α)) : Option α := (l.find? fun p => p.1 == k).map (·.2)
/-- The list with `k`'s pair replaced, or appended where there is none. -/
def assocSet [BEq κ] (k : κ) (a : α) (l : List (κ × α)) : List (κ × α) :=
  if l.any fun p => p.1 == k then l.map fun p => if p.1 == k then (k, a) else p else l ++ [(k, a)]

/-- A number as `n` bytes, little-endian; and back. -/
def bytesLE (n x : Nat) : List Nat := (List.range n).map fun i => x / 256 ^ i % 256
def ofBytesLE (l : List Nat) : Nat := l.foldr (fun b n => b + 256 * n) 0
/-- An element placed before the first of a list with a greater key. -/
def insertBy (key : α → Nat) (x : α) (l : List α) : List α :=
  match l with
  | [] => [x]
  | y :: rest => if key x < key y then x :: y :: rest else y :: insertBy key x rest
/-- A list in ascending order of a key, equals in their order. -/
def sortBy (key : α → Nat) (l : List α) : List α := l.foldl (fun acc x => insertBy key x acc) []

/-! ## Groups, teams, grids, contexts by name -/

/-- The group of a name. -/
def State.group? (s : State) (g : GroupId) : Option Group := s.groups.find? fun x => x.id == g
/-- The group of a name, unless pre-emption has taken it off its slots (R304). -/
def State.resident? (s : State) (g : GroupId) : Option Group :=
  (s.group? g).bind fun x => if x.slots.isEmpty then none else some x
/-- The state with a group written back. -/
def State.putGroup (s : State) (g : Group) : State :=
  { s with groups := s.groups.map fun x => if x.id == g.id then g else x }
/-- The team of a name. -/
def State.team? (s : State) (t : TeamId) : Option Team := s.teams.find? fun x => x.id == t
/-- The state with a team written back. -/
def State.putTeam (s : State) (t : Team) : State :=
  { s with teams := s.teams.map fun x => if x.id == t.id then t else x }
/-- The grid of a name. -/
def State.grid? (s : State) (g : GridId) : Option Grid := s.grids.find? fun x => x.id == g
/-- The state with a grid written back. -/
def State.putGrid (s : State) (g : Grid) : State :=
  { s with grids := s.grids.map fun x => if x.id == g.id then g else x }
/-- The context of an ASID. -/
def State.ctx? (s : State) (asid : Nat) : Option Context := s.ctxs.find? fun x => x.asid == asid
/-- The state with a context written back. -/
def State.putCtx (s : State) (c : Context) : State :=
  { s with ctxs := s.ctxs.map fun x => if x.asid == c.asid then c else x }
/-- A partition by number. -/
def State.part? (s : State) (n : Nat) : Option Partition := s.parts[n]?
/-- The state with a partition written back. -/
def State.putPart (s : State) (n : Nat) (p : Partition) : State := { s with parts := s.parts.set n p }
/-- A core: at rest where nothing is listed. -/
def State.core (s : State) (n : Nat) : Core := (assoc n s.cores).getD Core.reset
/-- The state with a core written back. -/
def State.putCore (s : State) (n : Nat) (c : Core) : State := { s with cores := assocSet n c s.cores }
/-- A core pair: at rest where nothing is listed. -/
def State.pair (s : State) (n : Nat) : Pair := (assoc n s.pairs).getD Pair.reset
/-- The state with a pair written back. -/
def State.putPair (s : State) (n : Nat) (p : Pair) : State := { s with pairs := assocSet n p s.pairs }
/-- A vault: at rest where nothing is listed. -/
def State.vault (s : State) (n : Nat) : Vault := (assoc n s.vaults).getD Vault.reset
/-- The state with a vault written back. -/
def State.putVault (s : State) (n : Nat) (v : Vault) : State := { s with vaults := assocSet n v s.vaults }
/-- A memory operation by its number. -/
def State.op? (s : State) (id : Nat) : Option MemOp := s.ops.find? fun o => o.id == id
/-- The state with a memory operation written back. -/
def State.putOp (s : State) (o : MemOp) : State :=
  { s with ops := s.ops.map fun x => if x.id == o.id then o else x }
/-- An engine operation by its number. -/
def State.eng? (s : State) (id : Nat) : Option Engine := s.engs.find? fun e => e.id == id
/-- The state with an engine operation written back. -/
def State.putEng (s : State) (e : Engine) : State :=
  { s with engs := s.engs.map fun x => if x.id == e.id then e else x }

/-- The pair of a core (R11). -/
def pairOf (core : Nat) : Nat := core / 2
/-- The tile of a core (R11). -/
def tileOf (core : Nat) : Nat := core / 16
/-- The cycles of tile `t` (R323). -/
def State.cycles (s : State) (t : Nat) : Nat := ((s.tiles[t]?.map (·.acc)).getD 0) / 1000

/-- CLOCK of a core: the cycles of its tile less those that its stretched edges have cost (R322). -/
def State.now (s : State) (core : Nat) : Nat :=
  (((s.tiles[tileOf core]?.map (·.acc)).getD 0) - ((assoc core s.stretched).map (·.2)).getD 0) / 1000

/-! ## The executing cohort -/

/-- A cohort of a group by its number. -/
def Group.cohort? (g : Group) (cid : Nat) : Option Cohort := g.cohorts.find? fun c => c.cid == cid
/-- The group with a cohort written back. -/
def Group.putCohort (g : Group) (c : Cohort) : Group :=
  { g with cohorts := g.cohorts.map fun x => if x.cid == c.cid then c else x }
/-- The group without a cohort. -/
def Group.dropCohort (g : Group) (cid : Nat) : Group := { g with cohorts := g.cohorts.filter fun x => x.cid != cid }

/-- What a meaning sees: the issued words, the group whose registers it uses (the recruiter's, for a helper) and the
executing cohort; `shadow` while the group runs in shadow mode (R49). -/
structure View where
  iss : Issue
  g : Group
  c : Cohort
  shadow : Bool
  deriving DecidableEq, Repr

/-- Whether a grid was launched with the shadow flag (R49, R289 Q0[56]). -/
def Grid.shadow (g : Grid) : Bool := bitAt g.q.q0.toNat 56

/-- A hosted helper's frame with the lend registers of its host that a load has filled since `recruit` (R40, R64). -/
def State.refreshLend (s : State) (c : Cohort) (first : Nat) : Cohort :=
  match c.helper with
  | none => c
  | some h =>
    if h.k = 0 then c
    else
      match s.group? h.host with
      | none => c
      | some hg =>
        let now := fun (p : Lend × Nat) =>
          if p.1.full || p.1.written then p.1
          else
            match hg.v[first + p.2]? with
            | none => p.1
            | some x => if x.full then ⟨(x.lanes[h.hostLane]?).getD 0, true, x.tag, false, x.bad⟩ else p.1
        let h' : Helper := { h with lend := h.lend.zipIdx.map now }
        { c with helper := some h' }
/-- The view of the executing cohort, where there is one. -/
def State.view (s : State) : Option View :=
  match s.cur with
  | none => none
  | some i =>
    match s.group? i.gid with
    | none => none
    | some g =>
      match g.cohort? i.cid with
      | none => none
      | some c =>
        let c := s.refreshLend c (g.vregs - g.lendCount)
        some ⟨i, g.putCohort c, c, ((s.grid? i.gid.team.grid).map Grid.shadow).getD false⟩

/-- Whether the executing cohort covers the whole home group (R24). -/
def View.whole (v : View) : Bool := v.c.lanes == allLanes v.g.width && v.c.helper.isNone
/-- The home lanes of the executing cohort, ascending. -/
def View.lanes (v : View) : List Nat := lanesOf v.g.width v.c.lanes
/-- Whether the cohort runs a helper body, as helper 0 or hosted (R40). -/
def View.helping (v : View) : Bool := v.c.helper.isSome
/-- Whether the cohort is a hosted helper, k ≥ 1 (R39). -/
def View.hosted (v : View) : Bool :=
  match v.c.helper with
  | some h => h.k != 0
  | none => false
/-- `hidx` (R69). -/
def View.hidx (v : View) : Nat := (v.c.helper.map (·.k)).getD 0

/-- A thread's control state. -/
def Group.thread (g : Group) (i : Nat) : Thread := (g.threads[i]?).getD ⟨⟨0, 0⟩, [], 0, none, false⟩
/-- The group with a thread written back. -/
def Group.putThread (g : Group) (i : Nat) (t : Thread) : Group := { g with threads := g.threads.set i t }

/-! ## Moving a cohort on (R71) -/

/-- The address of the clause after the cohort's (R70). -/
def Cohort.successor (c : Cohort) : Nat := c.clause + 4 * (c.count + 1)
/-- The cohort at word 1 of the clause at `a`, whose header it has not taken yet. -/
def Cohort.goto (c : Cohort) (a : Nat) : Cohort :=
  { c with clause := a % 2 ^ 56, word := 1, entered := false, prog := .none }
/-- The cohort past an instruction of `n` words: the next word, or word 1 of the successor. -/
def Cohort.advance (c : Cohort) (n : Nat) : Cohort :=
  if c.word + n ≤ c.count then { c with word := c.word + n, prog := .none } else c.goto c.successor
/-- The group with a cohort that leaves its clause for the one at `a`; under YLD the group may be swapped out (R300). -/
def Group.goto (g : Group) (c : Cohort) (a : Nat) : Group :=
  let g := g.putCohort (c.goto a)
  if c.yld then { g with yielded := true } else g
/-- The group with a cohort moved past its instruction. -/
def Group.advance (g : Group) (cid n : Nat) : Group :=
  match g.cohort? cid with
  | none => g
  | some c => if c.word + n ≤ c.count then g.putCohort (c.advance n) else g.goto c c.successor
/-- The group with a cohort that keeps its place and notes what it has already done. -/
def Group.hold (g : Group) (cid : Nat) (p : Prog) : Group :=
  match g.cohort? cid with
  | none => g
  | some c => g.putCohort { c with prog := p }

/-! ## Fault codes (R325) -/

def codeENC : Nat := 0x01
def codeHDR : Nat := 0x02
def codeCLASS : Nat := 0x03
def codeEMPTY : Nat := 0x04
def codeDIVEXIT : Nat := 0x05
def codeMEETSTACK : Nat := 0x06
def codeOPERAND : Nat := 0x07
def codeTRAP : Nat := 0x08
def codeBRK : Nat := 0x09
def codeXLATE : Nat := 0x10
def codePROT : Nat := 0x11
def codeALIGN : Nat := 0x12
def codeRACE : Nat := 0x13
def codeCAPACITY : Nat := 0x14
def codeROWPAGE : Nat := 0x15
def codeROWBANK : Nat := 0x20
def codeROWEXP : Nat := 0x21
def codeROWVAULT : Nat := 0x22
def codeWSTALE : Nat := 0x28
def codeWSHAPE : Nat := 0x29
def codeEXPORT : Nat := 0x30
def codeHELPER : Nat := 0x31
def codeCONSIST : Nat := 0x38
def codeHANDLE : Nat := 0x39
def codeENGINE : Nat := 0x3A
def codeUE : Nat := 0x40
def codeSHADOW : Nat := 0x41
def codeMIRROR : Nat := 0x42
def codeENV : Nat := 0x48

/-! ## Taking an exception (R326, R328, R332, R342) -/

/-- What a record keeps of the instruction a cohort stands at (R328). -/
def Cohort.origin (c : Cohort) (w0 w1 : W32) : Origin :=
  let k := (c.helper.map (·.k)).getD 0
  ⟨c.clause, c.word, w0, w1, k != 0, k⟩

/-- The record of a fault of a cohort of group `g`. -/
def faultRec (g : Group) (c : Cohort) (org : Origin) (code detail va trk : Nat) (done pending : Lanes) (time : Nat)
    (ops : List Nat) : FaultRec :=
  ⟨code, detail, some g.id, c.cid, g.core, trk, org, done, pending, va, time, ops, 0, 0⟩

/-- Taking an exception: the cohort stops at its instruction, the group enters the siding and its record waits for the
fault queue; registers, memory and counters keep their values. -/
def State.raise (s : State) (g : Group) (c : Cohort) (org : Origin) (code detail va trk : Nat) (done pending : Lanes)
    (ops : List Nat) : State :=
  let g := g.putCohort { c with stopped := true, flaw := c.flaw && code != codeSHADOW }
  let f : FaultRec := { faultRec g c org code detail va trk done pending s.time ops with
    ident := ((s.team? g.id.team).map (·.ident)).getD 0, tick := s.tick }
  s.putGroup { g with held := g.held ++ [f], records := g.records + 1 }
/-- The group whose newest record is of an instruction that issued in step `tick`: it stands among the others in the order their
instructions issued (R327). -/
def Group.dateRecord (g : Group) (tick : Nat) : Group :=
  match g.held.getLast? with
  | none => g
  | some f => { g with held := insertBy (·.tick) { f with tick := tick } g.held.dropLast }
/-- The state in which a group's newest record is dated. -/
def State.dateRecord (s : State) (gid : GroupId) (tick : Nat) : State :=
  match s.group? gid with
  | none => s
  | some g => s.putGroup (g.dateRecord tick)

/-- A fault found at issue (R344): DONE 0, PENDING the executing cohort. -/
def State.raiseAt (s : State) (v : View) (code detail va trk : Nat) : State :=
  s.raise v.g v.c (v.c.origin v.iss.w0 v.iss.w1) code detail va trk 0 v.c.lanes []

/-- The group with its stopped cohorts let go, where no record of it is left to be serviced or made. -/
def Group.freed (g : Group) : Group :=
  if g.records = 0 && !g.nacked then { g with cohorts := g.cohorts.map fun c => { c with stopped := false } } else g
/-- The return from an exception as far as the group is concerned (R327, R333): one record is serviced; `c` is the faulting
cohort as the service leaves it. A cohort goes on once every record of its group is serviced (R327, R396). -/
def Group.serviced (g : Group) (c : Cohort) : Group :=
  let g := g.putCohort c
  { g with records := g.records - 1 }.freed

/-! ## Registers of a group -/

/-- An empty register as a default for lists that are always long enough. -/
def VReg.zero (width : Nat) : VReg := ⟨List.replicate width 0, .u, true, false⟩

def Group.vreg (g : Group) (r : Nat) : VReg := (g.v[r]?).getD (VReg.zero g.width)
def Group.sreg (g : Group) (r : Nat) : SReg := (g.s[r]?).getD ⟨0, true, false⟩
def Group.mreg (g : Group) (r : Nat) : MReg := (g.m[r]?).getD ⟨0, false⟩
def Group.handle (g : Group) (r : Nat) : Handle := (g.h[r]?).getD ⟨.idle, 0, 0, 0, false, false⟩
def Group.witness (g : Group) (r : Nat) : Witness := (g.w[r]?).getD ⟨.empty, 0, 0, 0, 0, [], false⟩
def Group.tile (g : Group) (r : Nat) : Tile := (g.c[r]?).getD ⟨none, [], [], false⟩

def Group.putVreg (g : Group) (r : Nat) (x : VReg) : Group := { g with v := g.v.set r x }
def Group.putSreg (g : Group) (r : Nat) (x : SReg) : Group := { g with s := g.s.set r x }
def Group.putMreg (g : Group) (r : Nat) (x : MReg) : Group := { g with m := g.m.set r x }
def Group.putHandle (g : Group) (r : Nat) (x : Handle) : Group := { g with h := g.h.set r x }
def Group.putWitness (g : Group) (r : Nat) (x : Witness) : Group := { g with w := g.w.set r x }
def Group.putTile (g : Group) (r : Nat) (x : Tile) : Group := { g with c := g.c.set r x }

/-- The element of a vector register in a home lane. -/
def Group.elem (g : Group) (r i : Nat) : W32 := ((g.vreg r).lanes[i]?).getD 0

/-- A scalar register written whole, full at once. -/
def Group.setS (g : Group) (r : Nat) (x : W64) : Group := g.putSreg r ⟨x, true, false⟩
/-- A mask written whole; bits at and above width are 0 and m0 is not written (R53). -/
def Group.setM (g : Group) (r : Nat) (x : Lanes) : Group :=
  if r = 0 then g else g.putMreg r ⟨x &&& allLanes g.width, false⟩

/-- A vector register becomes empty (R61), with the tag that the value on its way to it will have: a tag is the instruction's and
depends on no timing (R56). -/
def Group.emptyV (g : Group) (r : Nat) (t : Tag) : Group := g.putVreg r { g.vreg r with full := false, tag := t }
/-- A scalar register becomes empty. -/
def Group.emptyS (g : Group) (r : Nat) : Group := g.putSreg r { g.sreg r with full := false }

end Sys2Proof.Machine
end

