-- ==== Sys2Proof/Machine/Flags.lean ====
section
/-! DEFINITION. Machine/Flags.lean: the flags of registers: shape tags (03_encoding R56 to R59) and how a write to a vector
register, a mask or a witness register leaves them. This hardware has no status register and no condition flags (R85). -/

namespace Sys2Proof.Machine

/-- The code of a tag (R56). -/
def Tag.code (t : Tag) : Nat :=
  match t with
  | .u => 0 | .a => 1 | .g => 2

/-- Rows `v.add` of R58. -/
def tagAdd (x y : Tag) : Tag :=
  match x, y with
  | .g, _ => .g
  | _, .g => .g
  | .u, .u => .u
  | _, _ => .a
/-- Rows `v.sub` of R58; U, U is not listed for it, so the table's last row gives G (log entry 15). -/
def tagSub (x y : Tag) : Tag := if x == .u && y == .u then .g else tagAdd x y
/-- Row `v.mul` of R58; U, U falls under the last row (log entry 15). -/
def tagMul (x y : Tag) : Tag :=
  match x, y with
  | .a, .u => .a
  | .u, .a => .a
  | _, _ => .g
/-- Row `v.shl` of R58; U, U falls under the last row (log entry 15). -/
def tagShl (x y : Tag) : Tag :=
  match x, y with
  | .a, .u => .a
  | _, _ => .g
/-- The shifted operand of `v.addsh` (R58): the `v.shl` row, with U, U giving U. -/
def tagShifted (x : Tag) : Tag := if x == .u then .u else tagShl x .u
/-- Row `v.iota` of R58. -/
def tagIota (x y : Tag) : Tag :=
  match x, y with
  | .u, .u => .a
  | _, _ => .g
/-- The row of R58 for every instruction it does not name: U when every source is U. -/
def tagAll (l : List Tag) : Tag := if l.all fun t => t == .u then .u else .g

/-- R58: the tag of a register written in the lanes `sel` with a result tagged `t`. -/
def tagWritten (width : Nat) (sel : Lanes) (t : Tag) : Tag := if sel == allLanes width then t else .g

/-- A vector register written in the lanes `sel` (R58, R199): other lanes keep their values; a write that selects no lane
leaves the register as it is (DEDUCED, log entry 16). -/
def VReg.write (x : VReg) (width : Nat) (sel : Lanes) (val : Nat → W32) (t : Tag) : VReg :=
  if sel == 0 then x
  else
    { lanes := (List.range width).map fun i => if sel.getLsbD i then val i else (x.lanes[i]?).getD 0
      tag := tagWritten width sel t
      full := x.full
      bad := x.bad && sel != allLanes width }

/-- The group with vector register `r` written in the lanes `sel`. -/
def Group.setV (g : Group) (r : Nat) (sel : Lanes) (val : Nat → W32) (t : Tag) : Group :=
  g.putVreg r ((g.vreg r).write g.width sel val t)

/-- Copies deferred on v register `r`, which has become full (R61, R179); `fuel` bounds a chain of them. -/
def Group.runCopies (fuel : Nat) (g : Group) (r : Nat) : Group :=
  match fuel with
  | 0 => g
  | k + 1 =>
    let due := g.copies.filter fun p => p.a == r
    let g := { g with copies := g.copies.filter fun p => p.a != r }
    due.foldl (fun g p =>
      let x := g.elem r p.lane
      let n := p.d.toNat
      if n < 64 then
        let g := g.setV n p.lanes (fun _ => x) .u
        (g.putVreg n { g.vreg n with full := true }).runCopies k n
      else g.setS (n - 64) (x.setWidth 64)) g
/-- A vector register becomes full. -/
def Group.fillV (g : Group) (r : Nat) : Group :=
  (g.putVreg r { g.vreg r with full := true }).runCopies g.copies.length r

/-- The group with bits `sel` of mask `r` replaced (R204); m0 is never written (R53). -/
def Group.setMBits (g : Group) (r : Nat) (sel bits : Lanes) : Group :=
  g.setM r (((g.mreg r).val &&& ~~~sel) ||| (bits &&& sel))

end Sys2Proof.Machine
end

