-- ==== Sys2Proof/Machine/Float.lean ====
section
/-! DEFINITION. Machine/Float.lean: the number formats and the arithmetic of 04_arithmetic on exact values: a floating-point
value is a NaN, an infinity, or a sign, a magnitude and a power of two; every operation is exact and rounds once. -/

namespace Sys2Proof.Machine

/-! ## Formats (R84) -/

/-- A floating-point value: NaN, ±∞, or (−1)^neg × m × 2^e. -/
inductive FVal where
  | nan
  | inf (neg : Bool)
  | fin (neg : Bool) (m : Nat) (e : Int)
  deriving DecidableEq, Repr

/-- How a format codes NaN: not at all, as IEEE 754 does, or by the one code of e4m3. -/
inductive NanKind where
  | none | ieee | ones
  deriving DecidableEq, Repr

/-- A floating-point format (R84): fraction bits, exponent bits, bias, infinities, NaNs. -/
structure Fmt where
  mb : Nat
  eb : Nat
  bias : Nat
  inf : Bool
  nan : NanKind
  deriving DecidableEq, Repr

def f32 : Fmt := ⟨23, 8, 127, true, .ieee⟩
def f16 : Fmt := ⟨10, 5, 15, true, .ieee⟩
def bf16 : Fmt := ⟨7, 8, 127, true, .ieee⟩
def e4m3 : Fmt := ⟨3, 4, 7, false, .ones⟩
def e5m2 : Fmt := ⟨2, 5, 15, true, .ieee⟩
def e3m2 : Fmt := ⟨2, 3, 3, false, .none⟩
def e2m3 : Fmt := ⟨3, 2, 1, false, .none⟩
def e2m1 : Fmt := ⟨1, 2, 1, false, .none⟩

/-- Bits of a format. -/
def Fmt.bits (t : Fmt) : Nat := t.mb + t.eb + 1
/-- The sign bit's weight. -/
def Fmt.signBit (t : Fmt) : Nat := 2 ^ (t.mb + t.eb)
/-- The code of +∞ in a format that has it. -/
def Fmt.infCode (t : Fmt) : Nat := (2 ^ t.eb - 1) * 2 ^ t.mb
/-- The code of the largest finite value. -/
def Fmt.maxCode (t : Fmt) : Nat :=
  match t.nan with
  | .none => t.signBit - 1
  | .ieee => t.infCode - 1
  | .ones => t.signBit - 2
/-- R85: the canonical NaN; code 0 where the format has none (R92). -/
def Fmt.nanCode (t : Fmt) : Nat :=
  match t.nan with
  | .none => 0
  | .ieee => t.infCode + 2 ^ (t.mb - 1)
  | .ones => t.signBit - 1

/-- The value of a code (R84). -/
def Fmt.decode (t : Fmt) (bits : Nat) : FVal :=
  let b := bits % (2 * t.signBit)
  let neg : Bool := t.signBit ≤ b
  let mag := b % t.signBit
  let f := mag % 2 ^ t.mb
  let e := mag / 2 ^ t.mb
  if t.nan == .ieee && e == 2 ^ t.eb - 1 then (if f = 0 then .inf neg else .nan)
  else if t.nan == .ones && mag == t.signBit - 1 then .nan
  else if e = 0 then .fin neg f (1 - t.bias - t.mb)
  else .fin neg (2 ^ t.mb + f) (e - t.bias - t.mb)

/-! ## Rounding (R89) -/

/-- The rounding modes (R75, R89). -/
inductive RM where
  | rne | rtz | rdn | rup | rna
  deriving DecidableEq, Repr

/-- The mode of an RM field; 101 to 111 are refused at decoding (R348). -/
def RM.ofField (n : Nat) : RM :=
  match n with
  | 0 => .rne | 1 => .rtz | 2 => .rdn | 3 => .rup | _ => .rna

/-- Whether the truncated magnitude `r` goes up: `rem` of `2 ^ sh` is cut off, and `sticky` says that more lies below. -/
def roundsUp (rm : RM) (neg : Bool) (r rem sh : Nat) (sticky : Bool) : Bool :=
  let twice := 2 * rem
  let one := 2 ^ sh
  let inexact := rem != 0 || sticky
  match rm with
  | .rne => decide (one < twice) || (twice == one && (sticky || r % 2 == 1))
  | .rtz => false
  | .rdn => neg && inexact
  | .rup => !neg && inexact
  | .rna => decide (one ≤ twice)

/-- `m × 2^e` (and a little more when `sticky`) rounded to an integer multiple of `2^q`, as that multiple. -/
def roundAt (rm : RM) (neg : Bool) (m : Nat) (e q : Int) (sticky : Bool) : Nat :=
  if q ≤ e then
    let r := m * 2 ^ (e - q).toNat
    if roundsUp rm neg r 0 1 sticky then r + 1 else r
  else
    let sh := (q - e).toNat
    let r := m / 2 ^ sh
    if roundsUp rm neg r (m % 2 ^ sh) sh sticky then r + 1 else r

/-- The code an overflow gives (R89, R92): ∞, or the largest finite value. -/
def Fmt.overflow (t : Fmt) (rm : RM) (sat neg : Bool) : Nat :=
  let toInf : Bool := match rm with
    | .rne => true | .rna => true | .rtz => false | .rdn => neg | .rup => !neg
  let s := if neg then t.signBit else 0
  if !toInf || sat then s + t.maxCode
  else if t.inf then s + t.infCode
  else match t.nan with
    | .ones => t.nanCode
    | _ => s + t.maxCode

/-- R89: the code of (−1)^neg × m × 2^e rounded once. -/
def Fmt.round (t : Fmt) (rm : RM) (sat neg : Bool) (m : Nat) (e : Int) (sticky : Bool) : Nat :=
  let s := if neg then t.signBit else 0
  if m = 0 then s
  else
    let lead : Int := e + Nat.log2 m
    let x : Int := max lead (1 - t.bias)
    let r := roundAt rm neg m e (x - t.mb) sticky
    let code := (x + t.bias - 1).toNat * 2 ^ t.mb + r
    if t.maxCode < code then t.overflow rm sat neg else s + code

/-- The code of a value in a format (R92): rounded, NaN canonical, infinities kept or taken as an overflow. -/
def Fmt.encode (t : Fmt) (rm : RM) (sat : Bool) (v : FVal) : Nat :=
  match v with
  | .nan => t.nanCode
  | .inf neg => if t.inf then (if neg then t.signBit else 0) + t.infCode else t.overflow rm sat neg
  | .fin neg m e => t.round rm sat neg m e false

/-- RNEInt and its kin: a finite value rounded to an integer. -/
def roundInt (rm : RM) (neg : Bool) (m : Nat) (e : Int) : Int :=
  let r := roundAt rm neg m e 0 false
  if neg then -r else r

/-! ## Exact arithmetic (R90) -/

def FVal.isNan (v : FVal) : Bool := v == .nan
def FVal.neg? (v : FVal) : Bool :=
  match v with
  | .nan => false | .inf n => n | .fin n _ _ => n
def FVal.isZero (v : FVal) : Bool :=
  match v with
  | .fin _ m _ => m == 0
  | _ => false
/-- The value with its sign changed. -/
def FVal.flip (v : FVal) : FVal :=
  match v with
  | .nan => .nan | .inf n => .inf !n | .fin n m e => .fin (!n) m e

/-- The signed significand of a finite value at exponent `q ≤ e`. -/
def signedAt (neg : Bool) (m : Nat) (e q : Int) : Int :=
  let r : Int := m * 2 ^ (e - q).toNat
  if neg then -r else r

/-- The exact sum; a zero sum of opposite signs is −0 only under RDN (R90). -/
def FVal.add (rm : RM) (a b : FVal) : FVal :=
  match a, b with
  | .nan, _ => .nan
  | _, .nan => .nan
  | .inf x, .inf y => if x == y then .inf x else .nan
  | .inf x, .fin _ _ _ => .inf x
  | .fin _ _ _, .inf y => .inf y
  | .fin x m e, .fin y n d =>
    let q := min e d
    let t := signedAt x m e q + signedAt y n d q
    if t = 0 then
      if m = 0 && n = 0 && x == y then .fin x 0 0 else .fin (rm == .rdn) 0 0
    else .fin (decide (t < 0)) t.natAbs q

/-- The exact product (R90). -/
def FVal.mul (a b : FVal) : FVal :=
  match a, b with
  | .nan, _ => .nan
  | _, .nan => .nan
  | .inf x, .inf y => .inf (x != y)
  | .inf x, .fin y n _ => if n = 0 then .nan else .inf (x != y)
  | .fin x m _, .inf y => if m = 0 then .nan else .inf (x != y)
  | .fin x m e, .fin y n d => .fin (x != y) (m * n) (e + d)

/-- Numerical order of two values that are not NaN: true when `a < b`; zeros are equal. -/
def FVal.lt (a b : FVal) : Bool :=
  match a, b with
  | .nan, _ => false
  | _, .nan => false
  | .inf x, .inf y => x && !y
  | .inf x, .fin _ _ _ => x
  | .fin _ _ _, .inf y => !y
  | .fin x m e, .fin y n d =>
    let q := min e d
    decide (signedAt x m e q < signedAt y n d q)

/-- Equality as numbers: zeros are equal, NaN equals nothing. -/
def FVal.eqv (a b : FVal) : Bool := !a.isNan && !b.isNan && !a.lt b && !b.lt a

/-- Order with −0 below +0 (R90, R104). -/
def FVal.below (a b : FVal) : Bool := a.lt b || (a.isZero && b.isZero && a.neg? && !b.neg?)

/-! ## f32 operations (R90, R91) -/

/-- The f32 value of a word. -/
def fv (w : W32) : FVal := f32.decode w.toNat
/-- The f32 word of an exact value, rounded by `rm`. -/
def fw (rm : RM) (sat : Bool) (v : FVal) : W32 := BitVec.ofNat 32 (f32.encode rm sat v)
/-- The canonical f32 NaN (R85). -/
def nan32 : W32 := 0x7FC00000#32

def fadd (a b : W32) : W32 := fw .rne false (FVal.add .rne (fv a) (fv b))
def fsub (a b : W32) : W32 := fw .rne false (FVal.add .rne (fv a) (fv b).flip)
def fmul (a b : W32) : W32 := fw .rne false (FVal.mul (fv a) (fv b))
/-- Fused a × b + c rounded once. -/
def ffma (rm : RM) (sat : Bool) (a b c : W32) : W32 := fw rm sat (FVal.add rm (FVal.mul (fv a) (fv b)) (fv c))

/-- minimumNumber and maximumNumber (R90) on words of a format. -/
def Fmt.minNum (t : Fmt) (a b : Nat) : Nat :=
  let x := t.decode a
  let y := t.decode b
  if x.isNan && y.isNan then t.nanCode else if x.isNan then b else if y.isNan then a else if y.below x then b else a
def Fmt.maxNum (t : Fmt) (a b : Nat) : Nat :=
  let x := t.decode a
  let y := t.decode b
  if x.isNan && y.isNan then t.nanCode else if x.isNan then b else if y.isNan then a else if x.below y then b else a
def fmin (a b : W32) : W32 := BitVec.ofNat 32 (f32.minNum a.toNat b.toNat)
def fmax (a b : W32) : W32 := BitVec.ofNat 32 (f32.maxNum a.toNat b.toNat)

/-- `m / n × 2^e` to `prec` bits or more, with the sticky bit. -/
def quotient (m n prec : Nat) (e : Int) : Nat × Int × Bool :=
  let k := prec + Nat.log2 n + 1
  let num := m * 2 ^ k
  (num / n, e - k, num % n != 0)

/-- f32 division (R91). -/
def fdiv (a b : W32) : W32 :=
  match fv a, fv b with
  | .nan, _ => nan32
  | _, .nan => nan32
  | .inf _, .inf _ => nan32
  | .inf x, .fin y _ _ => fw .rne false (.inf (x != y))
  | .fin x _ _, .inf y => fw .rne false (.fin (x != y) 0 0)
  | .fin x m e, .fin y n d =>
    if n = 0 then (if m = 0 then nan32 else fw .rne false (.inf (x != y)))
    else if m = 0 then fw .rne false (.fin (x != y) 0 0)
    else
      let q := quotient m n 64 (e - d)
      BitVec.ofNat 32 (f32.round .rne false (x != y) q.1 q.2.1 q.2.2)

/-- f32 reciprocal (R91). -/
def frcp (a : W32) : W32 := fdiv 0x3F800000#32 a

/-- ⌊√n⌋ by bits: `r` holds the root so far, `fuel` the bits still to try. -/
def isqrtBits (n : Nat) (fuel r : Nat) : Nat :=
  match fuel with
  | 0 => r
  | k + 1 =>
    let t := r + 2 ^ k
    isqrtBits n k (if t * t ≤ n then t else r)

/-- ⌊√n⌋. -/
def isqrt (n : Nat) : Nat := isqrtBits n (Nat.log2 n / 2 + 1) 0

/-- f32 square root (R91). -/
def fsqrt (a : W32) : W32 :=
  match fv a with
  | .nan => nan32
  | .inf x => if x then nan32 else a
  | .fin x m e =>
    if m = 0 then a
    else if x then nan32
    else
      -- m × 2^e = (m × 2^(64 + e mod 2)) × 2^(e − 64 − e mod 2), an even power
      let odd := (e % 2).toNat
      let n := m * 2 ^ (64 + odd)
      let r := isqrt n
      BitVec.ofNat 32 (f32.round .rne false false r ((e - 64 - odd) / 2) (r * r != n))

/-- f32 reciprocal square root (R91). -/
def frsq (a : W32) : W32 :=
  match fv a with
  | .nan => nan32
  | .inf x => if x then nan32 else 0
  | .fin x m e =>
    if m = 0 then fw .rne false (.inf x)
    else if x then nan32
    else
      let odd := (e % 2).toNat
      let n := m * 2 ^ odd
      -- 1/√(n × 2^(e−odd)) = √(2^160 / n) × 2^(−80 − (e−odd)/2)
      let r := isqrt (2 ^ 160 / n)
      BitVec.ofNat 32 (f32.round .rne false false r (-80 - (e - odd) / 2) (r * r * n != 2 ^ 160))

/-- Bits of the fixed-point roots of `fexp2`. -/
def expBits : Nat := 256

/-- Multiplies `acc` (fixed point, `expBits`) by 2^(f / 2^fb) for the fb-bit fraction `f`, from its top bit down; `root` is
2^(1/2) at first and its square root at each next bit. -/
def expMul (fb f root acc : Nat) : Nat :=
  match fb with
  | 0 => acc
  | k + 1 =>
    let acc' := if f / 2 ^ k % 2 = 1 then acc * root / 2 ^ expBits else acc
    expMul k f (isqrt (root * 2 ^ expBits)) acc'

/-- f32 2^a (R91). The root product carries more than 200 exact bits, far more than the 24 + 32 that decide the rounding of
any f32 argument. -/
def fexp2 (a : W32) : W32 :=
  match fv a with
  | .nan => nan32
  | .inf x => if x then 0 else a
  | .fin x m e =>
    if m = 0 then 0x3F800000#32
    else
      let fb := (-e).toNat
      let whole : Int := signedAt x m e (min e 0)
      let n : Int := whole / 2 ^ fb
      let f := (whole % 2 ^ fb).toNat
      if 128 ≤ n then 0x7F800000#32
      else if n < -151 then 0
      else
        let one := 2 ^ expBits
        let y := expMul fb f (isqrt (2 * one * one)) one
        BitVec.ofNat 32 (f32.round .rne false false y (n - expBits) (f != 0))

/-- Bits of the fixed-point squarings of `flog2`. -/
def logBits : Nat := 256

/-- `fuel` binary digits of log₂ y, most significant first, for y in [1, 2) at `logBits` (repeated squaring). -/
def logDigits (fuel y acc : Nat) : Nat :=
  match fuel with
  | 0 => acc
  | k + 1 =>
    let z := y * y / 2 ^ logBits
    if 2 ^ (logBits + 1) ≤ z then logDigits k (z / 2) (2 * acc + 1) else logDigits k z (2 * acc)

/-- f32 log₂ a (R91), from 112 digits of the fraction. -/
def flog2 (a : W32) : W32 :=
  match fv a with
  | .nan => nan32
  | .inf x => if x then nan32 else a
  | .fin x m e =>
    if m = 0 then 0xFF800000#32
    else if x then nan32
    else
      let l := Nat.log2 m
      let n : Int := e + l
      if m = 2 ^ l then fw .rne false (.fin (decide (n < 0)) n.natAbs 0)
      else
        let y := m * 2 ^ (logBits - l)
        let d : Int := n * 2 ^ 112 + logDigits 112 y 0
        -- the true value lies strictly above d × 2^−112
        if 0 ≤ d then BitVec.ofNat 32 (f32.round .rne false false d.natAbs (-112) true)
        else BitVec.ofNat 32 (f32.round .rne false true (d.natAbs - 1) (-112) true)

/-- fclamp (R211). -/
def fclamp (a b c : W32) : W32 := fmin (fmax a b) c

/-! ## Packed 16-bit (R212) and element types (R76) -/

/-- The 16-bit format of a packed TY. -/
def packedFmt (ty : Nat) : Fmt := if ty = 3 then f16 else bf16

/-- One result per 16-bit element. -/
def packed2 (op : Nat → Nat → Nat → Nat) (a b c : W32) : W32 :=
  BitVec.ofNat 16 (op (a.toNat / 65536) (b.toNat / 65536) (c.toNat / 65536)) ++
    BitVec.ofNat 16 (op (a.toNat % 65536) (b.toNat % 65536) (c.toNat % 65536))

def hadd (t : Fmt) (rm : RM) (sat : Bool) (a b _c : Nat) : Nat := t.encode rm sat (FVal.add rm (t.decode a) (t.decode b))
def hmul (t : Fmt) (rm : RM) (sat : Bool) (a b _c : Nat) : Nat := t.encode rm sat (FVal.mul (t.decode a) (t.decode b))
def hfma (t : Fmt) (rm : RM) (sat : Bool) (a b c : Nat) : Nat :=
  t.encode rm sat (FVal.add rm (FVal.mul (t.decode a) (t.decode b)) (t.decode c))

/-- A TY code as an integer type: signed, bits. -/
def intTy (ty : Nat) : Option (Bool × Nat) :=
  match ty with
  | 0x0 => some (true, 32) | 0x1 => some (false, 32) | 0xA => some (true, 8) | 0xB => some (false, 8)
  | 0xC => some (true, 16) | 0xD => some (false, 16) | 0xE => some (true, 4) | 0xF => some (false, 4)
  | _ => none

/-- A TY code as a floating-point format; integer codes answer f32 and are never asked. -/
def fmtTy (ty : Nat) : Fmt :=
  match ty with
  | 0x3 => f16 | 0x4 => bf16 | 0x5 => e4m3 | 0x6 => e5m2 | 0x7 => e3m2 | 0x8 => e2m3 | 0x9 => e2m1
  | _ => f32

/-- Bits of an element in a packed place (R215): 6-bit codes take a byte. -/
def tyBits (ty : Nat) : Nat :=
  match ty with
  | 0x0 => 32 | 0x1 => 32 | 0x2 => 32 | 0x3 => 16 | 0x4 => 16 | 0xC => 16 | 0xD => 16
  | 0x9 => 4 | 0xE => 4 | 0xF => 4
  | _ => 8

/-- The integer of the low bits of a code. -/
def intOf (signed : Bool) (bits n : Nat) : Int :=
  let r := n % 2 ^ bits
  if signed && 2 ^ (bits - 1) ≤ r then (r : Int) - 2 ^ bits else r

def intMin (signed : Bool) (bits : Nat) : Int := if signed then -2 ^ (bits - 1) else 0
def intMax (signed : Bool) (bits : Nat) : Int := if signed then 2 ^ (bits - 1) - 1 else 2 ^ bits - 1
/-- An integer clamped to the range of a type (R83). -/
def clampInt (signed : Bool) (bits : Nat) (i : Int) : Int := max (intMin signed bits) (min (intMax signed bits) i)

/-- The exact value of a code of a type. -/
def valueOf (ty n : Nat) : FVal :=
  match intTy ty with
  | some (sg, b) => let i := intOf sg b n; .fin (decide (i < 0)) i.natAbs 0
  | none => (fmtTy ty).decode n

/-- An integer as a 32-bit word, extended by its type. -/
def intWord (i : Int) : W32 := BitVec.ofInt 32 i

/-- R92: a value converted to an integer type. -/
def toIntTy (signed : Bool) (bits : Nat) (rm : RM) (v : FVal) : Int :=
  match v with
  | .nan => 0
  | .inf neg => if neg then intMin signed bits else intMax signed bits
  | .fin neg m e => clampInt signed bits (roundInt rm neg m e)

/-- R92: a code of type `src` converted to type `dst`, as a 32-bit word (R213). -/
def convert (src dst : Nat) (rm : RM) (sat : Bool) (a : W32) : W32 :=
  match intTy dst with
  | some (sg, b) =>
    match intTy src with
    | some (sg', b') =>
      let i := intOf sg' b' a.toNat
      intWord (if sat then clampInt sg b i else intOf sg b (i % 2 ^ b).toNat)
    | none => intWord (toIntTy sg b rm (valueOf src a.toNat))
  | none => BitVec.ofNat 32 ((fmtTy dst).encode rm sat (valueOf src a.toNat))

/-- R93: f32 to a narrow format with `w` random bits `r`. -/
def convertSr (dst : Nat) (sat : Bool) (a b : W32) (w : Nat) : W32 :=
  let t := fmtTy dst
  match fv a with
  | .nan => BitVec.ofNat 32 t.nanCode
  | .inf neg => BitVec.ofNat 32 (t.encode .rna sat (.inf neg))
  | .fin neg m e =>
    if m = 0 then BitVec.ofNat 32 (if neg then t.signBit else 0)
    else
      let q : Int := max (e + Nat.log2 m) (1 - t.bias) - t.mb
      let d := (q - e).toNat
      let f := m % 2 ^ d
      let r := b.toNat % 2 ^ w
      let up : Bool :=
        if f = 0 then false
        else if d ≤ w then decide (2 ^ d ≤ f + r / 2 ^ (w - d))
        else decide (2 ^ w ≤ f / 2 ^ (d - w) + r)
      let x := q + t.mb
      let k := if q ≤ e then m * 2 ^ (e - q).toNat else m / 2 ^ d
      let code := (x + t.bias - 1).toNat * 2 ^ t.mb + (if up then k + 1 else k)
      let s := if neg then t.signBit else 0
      BitVec.ofNat 32 (if t.maxCode < code then t.overflow .rna sat neg else s + code)

/-! ## Random numbers (R94) -/

/-- One round of Rand. -/
def randRound (x k m : W32) (sh : Nat) : W32 :=
  let y := (x ^^^ k) * m
  y ^^^ (y >>> sh)

/-- R94. -/
def rand (key : W64) (ctr : W32) (lane grp : Nat) : W32 :=
  let k0 := key.extractLsb' 0 32
  let k1 := key.extractLsb' 32 32
  let x0 := ctr ^^^ (BitVec.ofNat 32 (grp * 64 + lane) * 0x9E3779B9#32)
  let x1 := randRound x0 k0 0xC13FA9A5#32 15
  let x2 := randRound x1 k1 0x91E10DA5#32 13
  let x3 := randRound x2 (k0 ^^^ 0x5A827999#32) 0xB4B82E39#32 16
  randRound x3 (k1 ^^^ 0x6ED9EBA1#32) 0x8B5A42E7#32 14

/-! ## Fixed reduction orders (R102, R103) -/

/-- The operations of the lane reductions. -/
inductive RedKind where
  | sum | max | min
  deriving DecidableEq, Repr

/-- The node operation for an element type: f32, or the integers with their sign. -/
def redNode (k : RedKind) (ty : Nat) (a b : W32) : W32 :=
  if ty = 2 then
    match k with
    | .sum => fadd a b | .max => fmax a b | .min => fmin a b
  else
    match k with
    | .sum => a + b
    | .max => if ty = 0 then (if a.slt b then b else a) else (if a.ult b then b else a)
    | .min => if ty = 0 then (if b.slt a then b else a) else (if b.ult a then b else a)

/-- Combine of R102. -/
def combine (op : α → α → α) (a b : Option α) : Option α :=
  match a, b with
  | none, y => y
  | x, none => x
  | some x, some y => some (op x y)

/-- One level of the tree. -/
def pairUp (op : α → α → α) (l : List (Option α)) : List (Option α) :=
  match l with
  | a :: b :: rest => combine op a b :: pairUp op rest
  | l => l

/-- Levels of the tree until one node is left; `fuel` is the length of the list. -/
def treeLevels (op : α → α → α) (fuel : Nat) (l : List (Option α)) : Option α :=
  match fuel, l with
  | _, [x] => x
  | 0, _ => none
  | k + 1, l => treeLevels op k (pairUp op l)

/-- TreeReduce (R102) over leaves, some of them empty. -/
def treeReduce (op : α → α → α) (leaves : List (Option α)) : Option α := treeLevels op leaves.length leaves

/-- The running results of a scan (R103). -/
def scanList (op : α → α → α) (acc : Option α) (l : List α) : List α :=
  match l with
  | [] => []
  | x :: rest =>
    let y := match acc with
      | none => x
      | some a => op a x
    y :: scanList op (some y) rest

end Sys2Proof.Machine
end

