-- ==== Sys2Proof/Machine/Operands.lean ====
section
/-! DEFINITION. Machine/Operands.lean: the operand forms (03_encoding R66 to R69, 08 R176, 09 R198, 02 R40), and the checks
every instruction passes before it takes effect, in the order of 19_faults_isa R343. -/

namespace Sys2Proof.Machine

/-! ## Operand codes (R66) -/

/-- What a 7-bit operand code names. -/
inductive Opd where
  | v (r : Nat) | s (r : Nat) | m (r : Nat) | x (r : Nat) | sp (r : Nat) | k (r : Nat)
  deriving DecidableEq, Repr

/-- R66. -/
def opd (c : Code) : Opd :=
  let n := c.toNat
  if n < 64 then .v n else if n < 96 then .s (n - 64) else if n < 104 then .m (n - 96)
  else if n < 112 then .x (n - 104) else if n < 120 then .sp (n - 112) else .k (n - 120)

/-- The columns of R68. -/
inductive Col where
  | word | bf | hf
  deriving DecidableEq, Repr

/-- R68: the value of inline constant `n` in a 32-bit or 64-bit operand. -/
def inlineWord (n : Nat) : W32 :=
  match n with
  | 0 => 1 | 1 => 2 | 2 => 4 | 3 => 0xFFFFFFFF#32
  | 4 => 0x3F000000#32 | 5 => 0x3F800000#32 | 6 => 0x40000000#32 | _ => 0xBF800000#32
/-- R68: the value of inline constant `n` in a column. -/
def inlineConst (k : Col) (n : Nat) : W32 :=
  match k with
  | .word => inlineWord n
  | .bf => if n < 4 then inlineWord n else let h := (inlineWord n).extractLsb' 16 16; h ++ h
  | .hf =>
    match n with
    | 4 => 0x38003800#32 | 5 => 0x3C003C00#32 | 6 => 0x40004000#32 | 7 => 0xBC00BC00#32
    | n => inlineWord n
/-- R68: the value of inline constant `n` in a 64-bit operand. -/
def inline64 (n : Nat) : W64 := if n = 3 then BitVec.allOnes 64 else (inlineWord n).setWidth 64

/-- The recruitment a helper body belongs to. -/
def View.recruitment (v : View) : Option Recruitment :=
  match v.c.helper with
  | none => none
  | some h => v.g.recruits.find? fun r => r.id == h.recr

/-- R69: the special operand `n` of the thread in home lane `i`; in a helper body the recruiter's values (R40). -/
def View.special (v : View) (n i : Nat) : Nat :=
  match n with
  | 0 => 0
  | 1 => i
  | 2 => i % 16
  | 3 => v.g.id.grp
  | 4 => v.g.id.team.team
  | 5 => v.g.width
  | 6 => v.hidx
  | _ => match v.recruitment with
    | some r => r.depth
    | none => (v.g.thread i).depth

/-- R40: export `j` of the recruitment. -/
def View.export (v : View) (j : Nat) : W32 :=
  match v.recruitment with
  | none => Config.absentExport j
  | some r =>
    match r.exports[j]? with
    | none => Config.absentExport j
    | some (base, stride) => base + stride * BitVec.ofNat 32 v.hidx

/-- A mask as an operand: m0 is the executing cohort (R53). -/
def View.mask (v : View) (r : Nat) : Lanes := if r = 0 then v.c.lanes else (v.g.mreg r).val

/-- The first lend register (R37). -/
def Group.lend0 (g : Group) : Nat := g.vregs - g.lendCount
/-- The helper's copy of lend register `r`, for a hosted helper (R64). -/
def View.lend (v : View) (r : Nat) : Option Lend :=
  match v.c.helper with
  | none => none
  | some h => if h.k = 0 || decide (r < v.g.lend0) then none else h.lend[r - v.g.lend0]?

/-- The element of v register `r` that the thread in home lane `i` sees. -/
def View.elem (v : View) (r i : Nat) : W32 :=
  if v.hosted then ((v.lend r).map (·.val)).getD 0 else v.g.elem r i

/-- R198: a 32-bit source as the thread in home lane `i` reads it. -/
def View.r32 (v : View) (k : Col) (c : Code) (i : Nat) : W32 :=
  match opd c with
  | .v r => v.elem r i
  | .s r => (v.g.sreg r).val.setWidth 32
  | .m r => (v.mask r).setWidth 32
  | .x j => v.export j
  | .sp n => BitVec.ofNat 32 (v.special n i)
  | .k n => inlineConst k n

/-- R176: a source as one 64-bit value, read in home lane `i`. -/
def View.r64 (v : View) (c : Code) (i : Nat) : W64 :=
  match opd c with
  | .v r => (v.elem r i).setWidth 64
  | .s r => (v.g.sreg r).val
  | .m r => v.mask r
  | .x j => (v.export j).setWidth 64
  | .sp n => BitVec.ofNat 64 (v.special n i)
  | .k n => inline64 n

/-- A 64-bit vector operand (R52, R67): a v code names the pair vN:vN+1. -/
def View.rPair (v : View) (c : Code) (i : Nat) : W64 :=
  match opd c with
  | .v r => v.elem (r + 1) i ++ v.elem r i
  | _ => v.r64 c i

/-- The lowest lane of the cohort, where uniform operands are read. -/
def View.lane0 (v : View) : Nat := (v.lanes.head?).getD 0
/-- A uniform operand as R176 reads it. -/
def View.uni (v : View) (c : Code) : W64 := v.r64 c v.lane0

/-- R57: the tag of a source. -/
def View.tag (v : View) (c : Code) : Tag :=
  match opd c with
  | .v r => if v.hosted then ((v.lend r).map (·.tag)).getD .g else (v.g.vreg r).tag
  | .sp n =>
    if v.helping then .u
    else match n with
      | 1 => .a
      | 2 => if v.g.width = 16 then .a else .g
      | 7 => .g
      | _ => .u
  | _ => .u

/-- Whether `n` registers from the one a code names hold an empty one (R61, R350). -/
def View.isEmpty (v : View) (c : Code) (n : Nat) : Bool :=
  match opd c with
  | .v r => (List.range n).any fun j =>
      if v.hosted then ((v.lend (r + j)).map fun l => !l.full).getD false else !(v.g.vreg (r + j)).full
  | .s r => !(v.g.sreg r).full
  | _ => false

/-- Whether `n` registers from the one a code names hold an uncorrectable error (R385); a hosted helper's are those of its frame. -/
def View.isBad (v : View) (c : Code) (n : Nat) : Bool :=
  match opd c with
  | .v r => (List.range n).any fun j =>
      if v.hosted then ((v.lend (r + j)).map (·.bad)).getD false else (v.g.vreg (r + j)).bad
  | .s r => (v.g.sreg r).bad
  | .m r => (v.g.mreg r).bad
  | _ => false

/-- R199, R225: the threads of the cohort that a predicate selects. -/
def View.sel (v : View) (p : BitVec 2) : Lanes :=
  if p == 0 then v.c.lanes else v.c.lanes &&& v.mask p.toNat
/-- The selected lanes, ascending. -/
def View.selected (v : View) (p : BitVec 2) : List Nat := lanesOf v.g.width (v.sel p)

/-! ## Writing results -/

/-- R199: the group after the executing cohort writes v register `r` in the lanes `sel`; a hosted helper writes its frame's
copy (R64). -/
def View.writeV (v : View) (g : Group) (r : Nat) (sel : Lanes) (val : Nat → W32) (t : Tag) : Group :=
  if v.hosted then
    match g.cohort? v.c.cid with
    | none => g
    | some c =>
      match c.helper with
      | none => g
      | some h =>
        if sel.getLsbD h.lane then
          let h' : Helper := { h with lend := h.lend.set (r - g.lend0) ⟨val h.lane, true, .g, true, false⟩ }
          g.putCohort { c with helper := some h' }
        else g
  else g.setV r sel val t

/-- R176: the group after a 64-bit result goes to an s code, or to a v code in every thread of the cohort. -/
def View.writeD (v : View) (g : Group) (d : Code) (x : W64) : Group :=
  match opd d with
  | .s r => g.setS r x
  | .v r => v.writeV g r v.c.lanes (fun _ => x.setWidth 32) .u
  | .m r => g.setM r x
  | _ => g

/-! ## The checks at issue (R343) -/

/-- A source as the checks see it: `n` registers from `code`, its trap bit, the nibble EMPTY names (R350). -/
structure Arg where
  code : Code
  n : Nat
  trap : Bool
  det : Nat
  deriving DecidableEq, Repr

/-- A check of step 7: whether it holds, and the code, DETAIL and VA it raises otherwise. -/
structure Late where
  ok : Bool
  code : Nat
  detail : Nat
  va : Nat
  deriving DecidableEq, Repr

/-- Everything R343 checks of one instruction at issue: `chk` step 4 as (holds, DETAIL), in field order; `src` and `dst` the
registers it reads and writes; `masks` masks it reads beside its operands; `vals` step 6; `late` step 7; `helps` whether a
helper body may use it (R40); `unit` 1 for class S, 2 for class V, whose issue shadow mode doubles (R391). -/
structure Gate where
  chk : List (Bool × Nat)
  src : List Arg
  dst : List (Code × Nat)
  masks : List Nat
  vals : List (Bool × Nat)
  late : List Late
  helps : Bool
  unit : Nat
  deriving DecidableEq, Repr

/-- Why an instruction does not take effect now: it waits where it stands, or raises a fault. -/
inductive Stop where
  | wait
  | fault (code detail va : Nat)
  deriving DecidableEq, Repr

/-- The detail of the first check that does not hold. -/
def firstFail (l : List (Bool × Nat)) : Option Nat := (l.find? fun p => !p.1).map (·.2)

/-- R40: whether a code names a v register outside the lend registers. -/
def View.foreign (v : View) (c : Code) (n : Nat) : Bool :=
  match opd c with
  | .v r => decide (r < v.g.lend0) || decide (v.g.vregs < r + n)
  | _ => false

/-- An s code. -/
def isS (c : Code) : Bool :=
  match opd c with
  | .s _ => true
  | _ => false
/-- The codes of the first half of R343 step 7: witness registers, consists, handles, and damaged ones of them. -/
def stateCode (c : Nat) : Bool :=
  c == codeWSTALE || c == codeWSHAPE || c == codeCONSIST || c == codeHANDLE || c == codeUE

/-- R40: whether a helper body may not write what a code names: a v register of another, or a scalar register, which it only
reads (log entry 57). -/
def View.readOnly (v : View) (c : Code) (n : Nat) : Bool := v.foreign c n || isS c
/-- R343 steps 4 to 8, and the shadow comparison of R391. -/
def Gate.stop (k : Gate) (v : View) : Option Stop :=
  match firstFail k.chk with
  | some d => some (.fault codeOPERAND d 0)
  | none =>
    match k.src.find? fun a => a.trap && v.isEmpty a.code a.n with
    | some a => some (.fault codeEMPTY a.det 0)
    | none =>
      if (k.src.any fun a => v.isEmpty a.code a.n) || k.dst.any fun d => v.isEmpty d.1 d.2 then some .wait
      else if (k.src.any fun a => v.isBad a.code a.n) || k.masks.any fun r => r != 0 && (v.g.mreg r).bad then
        some (.fault codeUE 4 0)
      else
        match firstFail k.vals with
        | some d => some (.fault codeOPERAND d 0)
        | none =>
          match k.late.find? fun l => !l.ok && stateCode l.code with
          | some l => some (.fault l.code l.detail l.va)
          | none =>
            if v.helping && (!k.helps || (k.src.any fun a => v.foreign a.code a.n) ||
                k.dst.any fun d => v.readOnly d.1 d.2) then
              some (.fault codeHELPER 3 0)
            else
              match k.late.find? fun l => !l.ok with
              | some l => some (.fault l.code l.detail l.va)
              | none => if v.shadow && v.c.flaw && k.unit != 0 then some (.fault codeSHADOW k.unit 0) else none

/-- Registers `r` to `r + n − 1` are declared. -/
def View.vOk (v : View) (r n : Nat) : Bool := decide (r + n ≤ v.g.vregs)
/-- A source code that names what exists (R349). -/
def View.srcOk (v : View) (c : Code) : Bool :=
  match opd c with
  | .v r => v.vOk r 1
  | .x _ => v.helping
  | _ => true
/-- A source code that reads as one value for the cohort (R176, R349). -/
def View.uniOk (v : View) (c : Code) : Bool :=
  match opd c with
  | .v r => v.vOk r 1 && v.tag c == .u
  | .x _ => v.helping
  | .sp n => n != 1 && n != 2 && n != 7
  | _ => true
/-- A v code as destination. -/
def View.vDst (v : View) (c : Code) : Bool :=
  match opd c with
  | .v r => v.vOk r 1
  | _ => false
/-- An s or v code as destination. -/
def View.dDst (v : View) (c : Code) : Bool :=
  match opd c with
  | .v r => v.vOk r 1
  | .s _ => true
  | _ => false
/-- m1 to m7 as destination. -/
def mDst (c : Code) : Bool :=
  match opd c with
  | .m r => r != 0
  | _ => false
/-- An m code. -/
def isM (c : Code) : Bool :=
  match opd c with
  | .m _ => true
  | _ => false
/-- The register number of a v, s or m code. -/
def regNo (c : Code) : Nat :=
  match opd c with
  | .v r => r | .s r => r | .m r => r | .x r => r | .sp r => r | .k r => r

/-- A one-register source. -/
def arg (c : Code) (e : BitVec 1) (det : Nat) : Arg := ⟨c, 1, e == 1, det⟩

/-! ## Running a meaning -/

/-- What an instruction that stops at issue does to the machine (R62, R344). -/
def State.halt (s : State) (v : View) (st : Stop) (trk : Nat) : State :=
  match st with
  | .wait => s
  | .fault code detail va => s.raiseAt v code detail va trk

/-- A meaning that changes only the cohort's group: the checks, then the effect, then the next word (`n` words on). -/
def runLocal (n : Nat) (k : View → Gate) (go : View → Group) (s : State) : Out :=
  match s.view with
  | none => .refused .noCohort
  | some v =>
    match (k v).stop v with
    | some st => .next (s.halt v st 0)
    | none => .next (s.putGroup ((go v).advance v.c.cid n))

/-- A meaning that changes only the cohort's group and places its cohorts itself. -/
def runMove (k : View → Gate) (go : View → Group) (s : State) : Out :=
  match s.view with
  | none => .refused .noCohort
  | some v =>
    match (k v).stop v with
    | some st => .next (s.halt v st 0)
    | none => .next (s.putGroup (go v))

/-- Whether a cohort has issued its instruction and read its operands (R62), and now waits in it. One that waits in a release has not:
it checks and reads its operands once the release is complete (log entry 151). -/
def Prog.begun (p : Prog) : Bool :=
  match p with
  | .none => false
  | .release _ => false
  | .released => false
  | _ => true
/-- What still stops an instruction that has begun: a destination that awaits a value (R62). -/
def Gate.again (k : Gate) (v : View) : Option Stop := if k.dst.any fun d => v.isEmpty d.1 d.2 then some .wait else none
/-- The checks of an instruction that may wait after it has issued: all of them as it issues, none but for its destinations after. -/
def Gate.check (k : Gate) (v : View) : Option Stop := if v.c.prog.begun then k.again v else k.stop v

/-- A meaning that may change more than its group: `go` answers why it stops after all, or the next state. -/
def runFull (trk : Nat) (k : State → View → Gate) (go : State → View → Except Stop State) (s : State) : Out :=
  match s.view with
  | none => .refused .noCohort
  | some v =>
    match (k s v).check v with
    | some st => .next (s.halt v st trk)
    | none =>
      match go s v with
      | .error st => .next (s.halt v st trk)
      | .ok t => .next t

/-- The state with the executing cohort moved past its instruction of `n` words. -/
def State.pass (s : State) (v : View) (n : Nat) : State :=
  match s.group? v.g.id with
  | none => s
  | some g => s.putGroup (g.advance v.c.cid n)

end Sys2Proof.Machine
end

