-- ==== Sys2Proof/Machine/Memory.lean ====
section
/-! DEFINITION. Machine/Memory.lean: memory as cells in canonical form, pages and homes (05_memory R107 to R116), blocks,
runs, shares and the pantry (06_compression R132 to R150). -/

namespace Sys2Proof.Machine

/-! ## Cells -/

/-- The byte of a cell list; an unlisted address reads 0 (every block starts Z, R136). -/
def cellGet (l : List Host.Cell) (k : Nat) : Byte :=
  match l with
  | [] => 0
  | (k', b) :: rest => if k' = k then b else if k < k' then 0 else cellGet rest k

/-- The list with a byte written, in canonical form: rising addresses, no entry 0. -/
def cellPut (l : List Host.Cell) (k : Nat) (b : Byte) : List Host.Cell :=
  match l with
  | [] => if b = 0 then [] else [(k, b)]
  | (k', b') :: rest =>
    if k < k' then (if b = 0 then (k', b') :: rest else (k, b) :: (k', b') :: rest)
    else if k = k' then (if b = 0 then rest else (k, b) :: rest)
    else (k', b') :: cellPut rest k b

/-- The list without the addresses `lo` to `hi − 1`. -/
def cellDrop (l : List Host.Cell) (lo hi : Nat) : List Host.Cell :=
  l.filter fun p => decide (p.1 < lo) || decide (hi ≤ p.1)
/-- The cells of the addresses `lo` to `hi − 1`. -/
def cellsIn (l : List Host.Cell) (lo hi : Nat) : List Host.Cell :=
  l.filter fun p => decide (lo ≤ p.1) && decide (p.1 < hi)

/-- The canonical form of a cell list: addresses strictly rising, no entry 0. -/
def Memory.wf (l : List Host.Cell) : Bool :=
  match l with
  | [] => true
  | (k, b) :: rest => b != 0 && (rest.all fun p => decide (k < p.1)) && Memory.wf rest

/-- `n` bytes from `a` as a little-endian number (R2). -/
def cellsRead (l : List Host.Cell) (a n : Nat) : Nat :=
  match n with
  | 0 => 0
  | k + 1 => (cellGet l a).toNat + 256 * cellsRead l (a + 1) k
/-- `n` bytes written from `a`, little-endian. -/
def cellsWrite (l : List Host.Cell) (a n v : Nat) : List Host.Cell :=
  match n with
  | 0 => l
  | k + 1 => cellsWrite (cellPut l a (BitVec.ofNat 8 v)) (a + 1) k (v / 256)

/-- The key of a byte of a context's global space. -/
def memKey (asid va : Nat) : Nat := asid * 2 ^ 56 + va % 2 ^ 56
/-- A byte of a context's global space, as it stands at its home. -/
def State.byte (s : State) (asid va : Nat) : Byte := cellGet s.mem (memKey asid va)
/-- `n` bytes of a context's global space. -/
def State.load (s : State) (asid va n : Nat) : Nat := cellsRead s.mem (memKey asid va) n
/-- `n` bytes written to a context's global space. -/
def State.store (s : State) (asid va n v : Nat) : State := { s with mem := cellsWrite s.mem (memKey asid va) n v }

/-! ## Descriptors and the map walk (R111, R112, R366) -/

def descV (d : W64) : Bool := bitAt d.toNat 0
def descKind (d : W64) : Nat := bitsOf d.toNat 1 2
def descR (d : W64) : Bool := bitAt d.toNat 3
def descW (d : W64) : Bool := bitAt d.toNat 4
def descX (d : W64) : Bool := bitAt d.toNat 5
/-- R366: a descriptor with ROW = 1 is treated as having CHK 0. -/
def descRow (d : W64) : Bool := bitAt d.toNat 7
def descChk (d : W64) : Bool := bitAt d.toNat 6 && !descRow d
def descPlc (d : W64) : Nat := bitsOf d.toNat 17 2
def descPidx (d : W64) : Nat := bitsOf d.toNat 19 7
def descBg (d : W64) : Nat := bitsOf d.toNat 26 3

/-- A page as the walk finds it: its descriptor, address and size. -/
structure PageOf where
  desc : W64
  va : Nat
  size : Nat
  deriving DecidableEq, Repr

/-- The low bit of a level's index (R111). -/
def levelShift (level : Nat) : Nat :=
  match level with
  | 0 => 44 | 1 => 32 | 2 => 21 | _ => 16
/-- The descriptor of a level that covers `va`; a zero-filled table reads 0. -/
def Context.desc (c : Context) (level va : Nat) : W64 := (assoc (level, va / 2 ^ levelShift level) c.descs).getD 0
/-- The KIND a page has at a level, where the level has pages. -/
def pageKind (level : Nat) : Option Nat :=
  match level with
  | 1 => some 2 | 2 => some 1 | 3 => some 0 | _ => none

/-- The walk from `level` down, `fuel` levels left: the page, or the code and DETAIL of R366. -/
def Context.walkFrom (c : Context) (fuel level va : Nat) : Except (Nat × Nat) PageOf :=
  match fuel with
  | 0 => .error (codeXLATE, 7)
  | k + 1 =>
    let d := c.desc level va
    if !descV d then .error (codeXLATE, 1)
    else if some (descKind d) == pageKind level then
      if descPlc d = 3 then .error (codeXLATE, 7)
      else
        let size := 2 ^ levelShift level
        .ok ⟨d, va / size * size, size⟩
    else if descKind d = 3 && level != 3 then c.walkFrom k (level + 1) va
    else .error (codeXLATE, 7)
/-- R111, R366. -/
def Context.walk (c : Context) (va : Nat) : Except (Nat × Nat) PageOf := c.walkFrom 4 0 (va % 2 ^ 56)
/-- The page of an address, where one is mapped. -/
def Context.page? (c : Context) (va : Nat) : Option PageOf :=
  match c.walk va with
  | .ok p => some p
  | .error _ => none

/-! ## Homes (R114, R116) -/

/-- The XOR fold of a line number to `k` bits. -/
def xorFold (k x : Nat) : Nat := (List.range 12).foldl (fun h i => h ^^^ (x / 2 ^ (k * i) % 2 ^ k)) 0
/-- R114 for a line of a page, or of no page (DEDUCED, log entry 18: as on a SPREAD page). -/
def homeIn (p : Partition) (desc : W64) (va : Nat) : Nat :=
  let x := va % 2 ^ 56 / lineBytes
  match descPlc desc with
  | 2 => descPidx desc
  | 1 => 16 * descPidx desc + xorFold 4 x
  | _ => 16 * p.first + xorFold (Nat.log2 (16 * p.tiles)) x

/-- The alias range that holds an address of an ASID (R116). -/
def Partition.alias? (p : Partition) (asid va : Nat) : Option Synonym :=
  p.synonyms.find? fun y => y.asid == asid && decide (y.va ≤ va) && decide (va < y.va + y.len)
/-- The partition of a context. -/
def State.partOf (s : State) (asid : Nat) : Nat := ((s.ctx? asid).map (·.part)).getD 0
/-- R116: the canonical ASID and address of a place, and whether it was named through an alias. -/
def State.canon (s : State) (asid va : Nat) : Nat × Nat × Bool :=
  match s.part? (s.partOf asid) with
  | none => (asid, va % 2 ^ 56, false)
  | some p =>
    match p.alias? asid (va % 2 ^ 56) with
    | none => (asid, va % 2 ^ 56, false)
    | some y => (y.canonAsid, y.canonVa + (va % 2 ^ 56 - y.va), true)
/-- The home slice that performs an access to a place of a context. -/
def State.home (s : State) (asid va : Nat) : Nat :=
  let t := s.canon asid va
  match s.ctx? t.1, s.part? (s.partOf t.1) with
  | some c, some p => homeIn p (((c.page? t.2.1).map (·.desc)).getD 0) t.2.1
  | _, _ => 0

/-! ## Block codes (R132) -/

/-- Sectors of a code. -/
def codeSize (code : Nat) : Nat :=
  match code with
  | 2 => 1 | 3 => 2 | 4 => 4 | 7 => 8 | _ => 0
/-- Word `i` of a block whose cells are `l` and whose first key is `k`. -/
def blockWord (l : List Host.Cell) (k i : Nat) : Nat := cellsRead l (k + 4 * i) 4
/-- The code of 128 words (R132) and, for P, the pattern. -/
def codeOfWords (w : List Nat) : Nat × Nat :=
  let w0 := (w.head?).getD 0
  let fits := fun n => w.all fun x =>
    let d := signedOf 32 ((x + 2 ^ 32 - w0) % 2 ^ 32)
    decide (-2 ^ (n - 1) ≤ d) && decide (d < 2 ^ (n - 1))
  if w.all fun x => x == 0 then (0, 0)
  else if w.all fun x => x == w0 then (1, w0)
  else if fits 4 then (2, 0) else if fits 8 then (3, 0) else if fits 16 then (4, 0) else (7, 0)
/-- R132 for a block of a context. -/
def State.blockCode (s : State) (asid block : Nat) : Nat × Nat :=
  let k := memKey asid (block * lineBytes)
  let l := cellsIn s.mem k (k + lineBytes)
  if l.isEmpty then (0, 0) else codeOfWords ((List.range 128).map (blockWord l k))

/-! ## Map entries, runs and shares (R136 to R138) -/

/-- The entry a zero-filled segment holds: Z. -/
def MapEntry.zero : MapEntry := ⟨0, false, false, 0, 0⟩
/-- A block's map entry. -/
def Context.entry (c : Context) (block : Nat) : MapEntry := (assoc block c.entries).getD MapEntry.zero
/-- The context with a map entry written; zero entries are not listed. -/
def Context.setEntry (c : Context) (block : Nat) (e : MapEntry) : Context :=
  if e = MapEntry.zero then { c with entries := c.entries.filter fun p => p.1 != block }
  else { c with entries := assocSet block e c.entries }
/-- A map entry as the 64-bit word of R136. -/
def MapEntry.word (e : MapEntry) : W64 :=
  BitVec.ofNat 64 (e.code + (if e.shared then 16 else 0) + (if e.poison then 32 else 0) + e.sidx * 2 ^ 8 + e.loc * 2 ^ 32)

/-- The share entry of an index. -/
def Vault.share? (v : Vault) (sidx : Nat) : Option Share := v.shares.find? fun x => x.sidx == sidx
/-- R138: the owned size of a block with entry `e` in vault `v`. -/
def ownedSize (v : Vault) (e : MapEntry) : Nat :=
  if e.shared then
    match v.share? e.sidx with
    | some x => if 2 ≤ x.refs then 0 else codeSize e.code
    | none => codeSize e.code
  else codeSize e.code

/-- Whether two ranges of sectors meet. -/
def overlaps (a n b m : Nat) : Bool := decide (a < b + m) && decide (b < a + n)
/-- The sectors of the rows that a bank's stronger code takes (R153, 21_faults_containment R393): the first. -/
def lostStart (bank : Nat) : Nat := bank * bankSectors + (bankSectors - strongLoss)
/-- Whether a run of `n` sectors at `first` is aligned, inside the vault and free. -/
def Vault.runFree (v : Vault) (first n : Nat) : Bool :=
  first % n == 0 && decide (first + n ≤ vaultSectors) &&
    (v.banks.all fun b => !b.strong || !overlaps first n (lostStart b.n) strongLoss) &&
    (v.runs.all fun r => !overlaps first n r.1 r.2) && (v.rows.all fun r => !overlaps first n r.1 r.2) &&
    v.retired.all fun k => !overlaps first n k 1
/-- A number rounded up to a multiple of `n`. -/
def roundUp (x n : Nat) : Nat := (x + n - 1) / n * n
/-- What keeps a run from standing at a place: the runs in use, the rows of row pages, those that stronger codes take, retired sectors;
first sector and length. -/
def Vault.taken (v : Vault) : List (Nat × Nat) :=
  v.runs ++ v.rows ++ (v.banks.filter (·.strong)).map (fun b => (lostStart b.n, strongLoss)) ++ v.retired.map fun k => (k, 1)
/-- R144: the first sector of a new run of `n`: the slice's choice where it may stand, else the lowest free place, which is 0 or follows
what is taken. DESIGN CHOICE (log entry 136): the vault's first sector where no aligned place is free. -/
def Vault.pickRun (v : Vault) (tick n : Nat) : Nat :=
  let c := Config.runChoice tick n
  if v.runFree c n then c
  else
    let ends := 0 :: v.taken.map fun r => roundUp (r.1 + r.2) n
    ((sortBy id (ends.filter fun e => v.runFree e n)).head?).getD 0
/-- The state with a new run in vault `v`, and its first sector. -/
def State.allocRun (s : State) (v n : Nat) : State × Nat :=
  let x := s.vault v
  let first := x.pickRun s.tick n
  (s.putVault v { x with runs := x.runs ++ [(first, n)] }, first)
/-- The sectors of a block's line that hold an uncorrectable error in DRAM. -/
def Context.dramMask (c : Context) (block : Nat) : BitVec 8 :=
  c.dramBad.foldl (fun m x => if x / 8 = block then m ||| BitVec.ofNat 8 (2 ^ (x % 8)) else m) 0
/-- Whether a block's run, or its place on a row page, holds an uncorrectable error. -/
def Context.dramHit (c : Context) (block : Nat) : Bool := c.dramBad.any fun x => x / 8 == block
/-- The state with a run of vault `v` freed. -/
def State.freeRun (s : State) (v first : Nat) : State :=
  let x := s.vault v
  s.putVault v { x with runs := x.runs.filter fun r => r.1 != first }

/-! ## Lines of a slice (R120) -/

/-- The pieces of `n` bytes from `lo` within lines: address and length. -/
def linesOf (lo n : Nat) : List (Nat × Nat) :=
  if n = 0 then []
  else (List.range ((lo + n - 1) / lineBytes - lo / lineBytes + 1)).map fun i =>
    let a := max lo ((lo / lineBytes + i) * lineBytes)
    (a, min (lo + n) ((lo / lineBytes + i) * lineBytes + lineBytes) - a)
/-- The sectors of its line that `n` bytes at `va` touch. -/
def touched (va n : Nat) : BitVec 8 :=
  (List.range 8).foldl (fun m i => if overlaps (va % lineBytes) n (64 * i) 64 then m ||| BitVec.ofNat 8 (2 ^ i) else m) 0
/-- The sectors of its line that `n` bytes at `va` hold whole. -/
def covered (va n : Nat) : BitVec 8 :=
  (List.range 8).foldl (fun m i =>
    if decide (va % lineBytes ≤ 64 * i) && decide (64 * i + 64 ≤ va % lineBytes + n) then m ||| BitVec.ofNat 8 (2 ^ i) else m) 0
/-- A line of a slice. -/
def Vault.line? (v : Vault) (asid block : Nat) : Option L2Line := v.l2.find? fun l => l.asid == asid && l.block == block
/-- The sectors of a block that its slice holds. -/
def Vault.valid (v : Vault) (asid block : Nat) : BitVec 8 := ((v.line? asid block).map (·.valid)).getD 0
/-- The slice without a line. -/
def Vault.dropLine (v : Vault) (asid block : Nat) : Vault :=
  { v with l2 := v.l2.filter fun l => !(l.asid == asid && l.block == block) }
/-- The slice with a line. -/
def Vault.putLine (v : Vault) (l : L2Line) : Vault := { v with l2 := l :: (v.dropLine l.asid l.block).l2 }
/-- The state with a line dropped from its slice. -/
def State.dropL2 (s : State) (home asid block : Nat) : State :=
  if ((s.vault home).line? asid block).isSome then s.putVault home ((s.vault home).dropLine asid block) else s
/-- The state with a line clean in its slice, every sector there (R144). -/
def State.cleanL2 (s : State) (home asid block : Nat) : State :=
  match (s.vault home).line? asid block with
  | none => s
  | some _ => s.putVault home ((s.vault home).putLine ⟨asid, block, BitVec.allOnes 8, 0⟩)

/-! ## The pantry (R141 to R150) -/

/-- The dirty record of a block, while its line is dirty. -/
def Context.dirty? (c : Context) (block : Nat) : Option Dirty := c.dirty.find? fun d => d.block == block
/-- The targets posted to a context with `n` sectors taken from them, the oldest first (R149). -/
def owedLess (l : List (Nat × Nat)) (n : Nat) : List (Nat × Nat) :=
  match l with
  | [] => []
  | (a, k) :: rest => if n < k then (a, k - n) :: rest else owedLess rest (n - k)
/-- R150: `n` sectors freed by a context leave its budget while a balloon target stands, else they enter its pantry. -/
def Context.credit (c : Context) (n : Nat) : Context :=
  let k := min n c.balloonReq
  { c with balloonReq := c.balloonReq - k, owed := owedLess c.owed k, budget := c.budget - k, free := c.free + (n - k) }
def State.credit (s : State) (asid n : Nat) : State :=
  match s.ctx? asid with
  | none => s
  | some c => s.putCtx (c.credit n)
/-- The context's counts after a reservation is given back, or taken. -/
def Context.unhold (c : Context) (n : Nat) : Context := { c with held := c.held - n, free := c.free + n }
def Context.hold (c : Context) (n : Nat) : Context := { c with held := c.held + n, free := c.free - n }

/-- R140: the share of a clean block broken; answers the owned size after the break and whether the block owns its run. -/
def State.breakShare (s : State) (asid block home : Nat) : State × Nat × Bool :=
  match s.ctx? asid with
  | none => (s, 0, false)
  | some c =>
    let e := c.entry block
    if !e.shared then (s, codeSize e.code, codeSize e.code != 0)
    else
      let v := s.vault home
      let s := s.putCtx (c.setEntry block { e with shared := false, sidx := 0 })
      match v.share? e.sidx with
      | none => (s, codeSize e.code, true)
      | some x =>
        if 2 ≤ x.refs then
          (s.putVault home { v with shares := v.shares.map fun y =>
            if y.sidx == e.sidx then { y with refs := y.refs - 1 } else y }, 0, false)
        else
          (s.putVault home { v with shares := v.shares.filter fun y => y.sidx != e.sidx }, codeSize e.code, true)

/-- R142: what a first write to a clean block must reserve. -/
def State.need (s : State) (asid block home : Nat) : Nat :=
  match s.ctx? asid with
  | none => 0
  | some c => 8 - ownedSize (s.vault home) (c.entry block)

/-- R146: a block released; its bytes are dropped by the caller. -/
def State.release (s : State) (asid block home : Nat) : State :=
  match s.ctx? asid with
  | none => s
  | some c =>
    let e := c.entry block
    let clear := fun (s : State) => match s.ctx? asid with
      | none => s
      | some c => s.putCtx { c.setEntry block MapEntry.zero with
          dirty := c.dirty.filter fun d => d.block != block
          dramBad := c.dramBad.filter fun x => x / 8 != block
          l2Bad := c.l2Bad.filter fun b => b != block }
    let s := s.dropL2 home asid block
    match c.dirty? block with
    | some d =>
      let s := s.putCtx (c.unhold (8 - d.owned))
      let s := if d.owned != 0 then (s.freeRun home e.loc).credit asid d.owned else s
      clear s
    | none =>
      if e.shared then
        let v := s.vault home
        match v.share? e.sidx with
        | none => clear s
        | some x =>
          if 2 ≤ x.refs then
            clear (s.putVault home { v with shares := v.shares.map fun y =>
              if y.sidx == e.sidx then { y with refs := y.refs - 1 } else y })
          else
            let s := s.putVault home { v with shares := v.shares.filter fun y => y.sidx != e.sidx }
            clear ((s.freeRun home x.sector).credit asid (codeSize e.code))
      else if codeSize e.code != 0 then clear ((s.freeRun home e.loc).credit asid (codeSize e.code))
      else clear s

/-- The bytes of a block set to zero. -/
def State.zeroBlock (s : State) (asid block : Nat) : State :=
  let k := memKey asid (block * lineBytes)
  { s with mem := cellDrop s.mem k (k + lineBytes) }
/-- The bytes of a block set to a repeated 32-bit pattern. -/
def State.fillBlock (s : State) (asid block pat : Nat) : State :=
  (List.range 128).foldl (fun s i => s.store asid (block * lineBytes + 4 * i) 4 pat) (s.zeroBlock asid block)

/-- R144, R387: a dirty line settled; answers whether it revealed an uncorrectable error, in the line itself or in a sector that the
line lacks and the slice reads from the vault, which poisons the block; otherwise POISON becomes 0. DEDUCED (log entry 135): the sectors
that the line lacks of a block whose POISON is 1 reveal such an error. -/
def State.settle (s : State) (asid block : Nat) : State × Bool :=
  match s.ctx? asid with
  | none => (s, false)
  | some c =>
    match c.dirty? block with
    | none => (s, false)
    | some d =>
      let home := s.home asid (block * lineBytes)
      let e := c.entry block
      let code := s.blockCode asid block
      let n := codeSize code.1
      let missing := ~~~(s.vault home).valid asid block
      let bad := c.l2Bad.contains block || c.dramMask block &&& missing != 0 || (e.poison && missing != 0)
      let inPlace := n == d.owned && n != 0 && d.ownsRun
      let r : State × Nat :=
        if inPlace then (s, e.loc)
        else
          let a := if n != 0 then s.allocRun home n else (s, code.2)
          (if d.owned != 0 then a.1.freeRun home e.loc else a.1, a.2)
      let s := r.1
      match s.ctx? asid with
      | none => (s, false)
      | some c =>
        let c := c.unhold (8 - d.owned)
        let c := if d.owned < n then { c with free := c.free - (n - d.owned) } else c
        let c := { c.setEntry block ⟨code.1, false, bad, 0, r.2⟩ with
          dirty := c.dirty.filter fun x => x.block != block
          dramBad := c.dramBad.filter fun x => x / 8 != block
          l2Bad := c.l2Bad.filter fun b => b != block }
        ((s.putCtx c).credit asid (d.owned - n) |>.cleanL2 home asid block, bad)

/-- Sectors of the deferred areas of a context's teams (R389), which its blocks do not use. -/
def State.deferredSectors (s : State) (asid : Nat) : Nat :=
  ((s.teams.filter fun t => t.asid == asid).map fun t => t.deferredRoom / 64).foldl (· + ·) 0
/-- R138, R149: the sectors a context uses: what its budget holds beyond its pantry, its reservations (R141) and its teams' deferred
areas. -/
def State.used (s : State) (c : Context) : Nat := c.budget - c.free - c.held - s.deferredSectors c.asid

end Sys2Proof.Machine
end

