-- ==== Sys2Proof/Machine/Records.lean ====
section
/-! DEFINITION. Machine/Records.lean: fault records as the fault queue and its spill area hold them (18_faults R328 to R330,
20_faults_memory R372). -/

namespace Sys2Proof.Machine

/-! ## The words of a record -/

/-- Q0 of a record (R328). -/
def FaultRec.q0 (f : FaultRec) (asid : Nat) : W64 :=
  let grp := (f.gid.map (·.grp)).getD 0
  let team := (f.gid.map (·.team.team)).getD 0
  BitVec.ofNat 64 (f.code % 256 + f.detail % 256 * 2 ^ 8 + grp % 64 * 2 ^ 16 + team % 2 ^ 24 * 2 ^ 24 + asid % 2 ^ 16 * 2 ^ 48)
/-- The eight words of the record at index `idx` with `n` replay items (R328). -/
def FaultRec.words (f : FaultRec) (asid idx n : Nat) : List W64 :=
  let tok := (f.gid.map (·.team.grid.tok)).getD 0
  [f.q0 asid,
   BitVec.ofNat 64 (tok % 2 ^ 40 + f.core % 128 * 2 ^ 40 + (if f.org.hv then 2 ^ 47 else 0) + f.org.hidx % 64 * 2 ^ 48 +
     f.trk % 16 * 2 ^ 54 + f.org.word % 16 * 2 ^ 58),
   BitVec.ofNat 64 (f.org.clause % 2 ^ 56 + n % 256 * 2 ^ 56),
   f.org.w1 ++ f.org.w0, f.done, f.pending, BitVec.ofNat 64 (f.va % 2 ^ 56),
   BitVec.ofNat 64 (f.time % 2 ^ 48 + (if n = 0 then 0 else (idx + 1) % faultEntries * 2 ^ 48))]
/-- The four words of a replay item (R372). -/
def ReplayItem.words (x : ReplayItem) : List W64 :=
  [x.org.w1 ++ x.org.w0, BitVec.ofNat 64 (x.org.clause % 2 ^ 56 + x.org.word % 16 * 2 ^ 56 + x.code % 16 * 2 ^ 60),
   x.pending, BitVec.ofNat 64 (x.va % 2 ^ 56 + x.kind % 8 * 2 ^ 56)]

/-! ## The fault queue (R329) -/

/-- Entries between the oldest record not yet serviced and the next index. -/
def Context.fqUsed (c : Context) : Nat :=
  match c.fq.find? fun r => !r.served with
  | none => 0
  | some r => c.fqNext - r.idx
/-- The context with a record and its items in the fault queue, where there is room. -/
def Context.fqPut (c : Context) (f : FaultRec) (items : List ReplayItem) : Option Context :=
  let n := 1 + (items.length + 1) / 2
  if c.fqUsed + n ≤ faultEntries then
    some { c with fq := c.fq ++ [⟨c.fqNext, f, items, false⟩], fqNext := c.fqNext + n }
  else none
/-- A record of the queue that has not been serviced. -/
def Context.record? (c : Context) (idx : Nat) : Option QueuedRec := c.fq.find? fun r => r.idx == idx && !r.served
/-- The context once the service of a record has ended; records before the oldest unserviced one leave the ring. -/
def Context.fqServe (c : Context) (idx : Nat) : Context :=
  let l := c.fq.map fun r => if r.idx == idx then { r with served := true } else r
  { c with fq := l.dropWhile fun r => r.served }

/-- R330: a record that parks no group goes to the queue, or to the spill area while the queue or the area holds it back;
an ENV record merges with one of its DETAIL while the area is full, and a UE record is then not written. -/
def Context.post (c : Context) (f : FaultRec) : Context :=
  let held : Option Context := if c.spill.isEmpty then c.fqPut f [] else none
  match held with
  | some c => c
  | none =>
    let full := decide (faultEntries ≤ c.spill.length)
    if full && (f.code == codeUE || (f.code == codeENV && c.spill.any fun r => r.code == codeENV && r.detail == f.detail))
    then c
    else { c with spill := c.spill ++ [f] }
/-- The state with such a record posted to a context. -/
def State.post (s : State) (asid : Nat) (f : FaultRec) : State :=
  match s.ctx? asid with
  | none => s
  | some c => s.putCtx (c.post f)

/-- An instruction of no cohort, for records that name none. -/
def Origin.none : Origin := ⟨0, 0, 0, 0, false, 0⟩
/-- A record that names no team (R387, R394). -/
def State.bareRec (s : State) (code detail va : Nat) : FaultRec :=
  ⟨code, detail, .none, 0, 0, 0, Origin.none, 0, 0, va, s.time, [], 0, s.tick⟩

/-- R144 with R387: a line settled; an error it reveals is recorded to the context that owns the line. -/
def State.settleLine (s : State) (asid block : Nat) : State :=
  let r := s.settle asid block
  if r.2 then r.1.post asid (r.1.bareRec codeUE 6 (block * lineBytes)) else r.1

end Sys2Proof.Machine
end

