-- ==== Sys2Proof/Machine/Slice.lean ====
section
/-! DEFINITION. Machine/Slice.lean: the lines of an L2 slice (05_memory R120) and the cache path from it to the banks of its vault
(R128 to R130). -/

namespace Sys2Proof.Machine

/-! ## Time (17_system R323) -/

/-- A DRAM figure of `n` cc at the nominal clock, at the core's clock. -/
def State.dramCc (s : State) (core n : Nat) : Nat :=
  (n * ((s.tiles[tileOf core]?.map (·.mhz)).getD nominalMHz) + nominalMHz - 1) / nominalMHz

/-! ## Banks (R128) -/

def Vault.dbank (v : Vault) (b : Nat) : DBank := (v.banks.find? fun x => x.n == b).getD (DBank.reset b)
def Vault.putDBank (v : Vault) (x : DBank) : Vault :=
  { v with banks := (v.banks.filter fun y => y.n != x.n) ++ [x] }
/-- The state of a bank: every bank is retraining throughout a window (R130). -/
def Vault.bankState (v : Vault) (b : Nat) : BankState :=
  if (v.window.map (·.active)).getD false then .retraining else (v.dbank b).st
/-- The state with a bank's state set. -/
def State.setBank (s : State) (vault b : Nat) (st : BankState) : State :=
  let v := s.vault vault
  s.putVault vault (v.putDBank { v.dbank b with st := st })
/-- The clock of a core in MHz. -/
def State.mhz (s : State) (core : Nat) : Nat := (s.tiles[tileOf core]?.map (·.mhz)).getD nominalMHz
/-- A span of `ns` in cc at the clock in force (R131). -/
def State.ccOf (s : State) (core ns : Nat) : Nat := (ns * s.mhz core + 999) / 1000
/-- R130: whether an activation now would not complete before an announced window. -/
def State.windowNear (s : State) (core : Nat) : Bool :=
  match (s.vault core).window with
  | none => false
  | some w => !w.active && decide (s.ccOf core (w.start - s.time) < s.dramCc core 24)

def Core.row? (c : Core) (e : Nat) : Option RowEntry := c.rows.find? fun r => r.e == e
/-- Whether the entry's activation has begun. -/
def RowEntry.waitingBank (r : RowEntry) : Bool := r.st == .opening && r.activated.isNone
/-- The start of refresh slot `n` of bank `b` in sevenths of a nanosecond: 3,900 ns apart, ⌊b × 6,825 / 192⌋ cc after bank
0's. -/
def slotStart (b n : Nat) : Nat := 27300 * n + 4 * (b * 6825 / 192)

/-! ## Placing lines (R120, R144) -/

/-- The line that a new line of a block replaces: none while its set has a way free. -/
def Vault.victim (v : Vault) (tick asid block : Nat) : Option L2Line :=
  if v.l2.length < 16 then none
  else
    let same := v.l2.filter fun l => Config.l2Set l.asid l.block % 512 == Config.l2Set asid block % 512
    if same.length < 16 then none else same[Config.l2Victim tick % 16]?
/-- R144, R387: a line evicted: settled where it is dirty, then dropped, an error of a clean one with it. -/
def State.evict (s : State) (home : Nat) (l : L2Line) : State :=
  let s := (s.settleLine l.asid l.block).dropL2 home l.asid l.block
  match s.ctx? l.asid with
  | none => s
  | some c => if c.l2Bad.contains l.block then s.putCtx { c with l2Bad := c.l2Bad.filter fun b => b != l.block } else s
/-- A slice with sectors of a block valid, and dirty; the line is placed where it is absent. -/
def State.addL2 (s : State) (home asid block : Nat) (valid dirty : BitVec 8) : State :=
  let s :=
    if ((s.vault home).line? asid block).isSome then s
    else
      match (s.vault home).victim s.tick asid block with
      | none => s
      | some l => s.evict home l
  let old := ((s.vault home).line? asid block).getD ⟨asid, block, 0, 0⟩
  s.putVault home ((s.vault home).putLine { old with valid := old.valid ||| valid, dirty := old.dirty ||| dirty })
/-- The slice after `n` canonical bytes of one line have been written at it. -/
def State.wroteL2 (s : State) (asid va n : Nat) : State :=
  s.addL2 (s.home asid va) asid (va / lineBytes) (touched va n) (touched va n)
/-- R142, R140: a reservation of `need` sectors granted: the share broken, the line dirty. -/
def State.makeDirty (s : State) (asid block home need : Nat) : State :=
  let r := (s.addL2 home asid block 0 0).breakShare asid block home
  match r.1.ctx? asid with
  | none => r.1
  | some c =>
    let c := (c.hold need).unhold (need - (8 - r.2.1))
    let k := memKey asid (block * lineBytes)
    r.1.putCtx { c with dirty := c.dirty ++ [⟨block, r.2.1, r.2.2, cellsIn r.1.mem k (k + lineBytes)⟩] }

/-! ## The cache path through DRAM (R128 to R130) -/

/-- The sectors that an access to `n` bytes of one line must have of its slice: what it reads, or writes in part. -/
def wanted (va n : Nat) (wr : Bool) : BitVec 8 := if wr then touched va n &&& ~~~covered va n else touched va n
/-- Whether the slice lacks a sector it needs for an access to canonical bytes of one line. -/
def State.lacks (s : State) (asid va n : Nat) (wr : Bool) : Bool :=
  wanted va n wr &&& ~~~(s.vault (s.home asid va)).valid asid (va / lineBytes) != 0
/-- Whether a sector that the slice lacks for an access to canonical bytes of one line holds an uncorrectable error in DRAM. -/
def State.lost (s : State) (asid va n : Nat) (wr : Bool) : Bool :=
  match s.ctx? asid with
  | none => false
  | some c =>
    c.dramMask (va / lineBytes) &&& wanted va n wr &&& ~~~(s.vault (s.home asid va)).valid asid (va / lineBytes) != 0
/-- R385: the uncorrectable error that an access to `n` canonical bytes of one line meets: its DETAIL. A part-write meets POISON
only. -/
def State.errorAt (s : State) (asid va n : Nat) (reads : Bool) : Option Nat :=
  match s.ctx? asid with
  | none => none
  | some c =>
    let b := va / lineBytes
    if (c.entry b).poison then some 1
    else if !reads then none
    else if s.lost asid va n false then some 1
    else if c.l2Bad.contains b && touched va n &&& (s.vault (s.home asid va)).valid asid b != 0 then some 2
    else none
/-- The bank and row of the vault that hold the run of a block; none for a block without one. -/
def Context.runPlace (c : Context) (block : Nat) : Option (Nat × Nat) :=
  let e := c.entry block
  if codeSize e.code = 0 then none else some (e.loc / bankSectors, e.loc % bankSectors / 32)
/-- Whether a bank's next refresh slot begins within 100 cc: no cache-path activation starts. -/
def DBank.slotNear (x : DBank) (time : Nat) : Bool := decide (slotStart x.n x.slots < 7 * time + 400)
/-- Whether a `row.open` of a bank that is idle may activate it now. -/
def State.rowWaits (s : State) (core b : Nat) : Bool :=
  !s.windowNear core && ((s.core core).gone ++ (s.core core).rows).any fun r => r.waitingBank && r.bank == b
/-- What the cache path finds at a bank: it may go, it waits, or the open row holds it. -/
inductive DramPath where
  | free | later | held
  deriving DecidableEq, Repr
/-- R128 to R130: an access of operation `id` to a row of a bank. -/
def State.bankPath (s : State) (vault b row id : Nat) : DramPath :=
  let x := (s.vault vault).dbank b
  match (s.vault vault).bankState b with
  | .idle => if x.slotNear s.time || (!x.held.contains id && s.rowWaits vault b) then .later else .free
  | .opened e => if ((s.core vault).row? e).map (·.row) == some row then .free else .held
  | .shutting _ r => if r = row then .free else .held
  | _ => .later
/-- The bank and row that an access to canonical bytes of one line must reach; none where its slice has what it needs. -/
def State.dramPlace (s : State) (asid va n : Nat) (wr : Bool) : Option (Nat × Nat) :=
  match s.ctx? asid with
  | none => none
  | some c =>
    match c.runPlace (va / lineBytes) with
    | none => none
    | some p => if s.lacks asid va n wr then some p else none
/-- The bank with a held operation noted, or noted no more. -/
def State.noteHeld (s : State) (vault b id : Nat) (on : Bool) : State :=
  let v := s.vault vault
  let x := v.dbank b
  if x.held.contains id == on then s
  else s.putVault vault (v.putDBank { x with held := if on then x.held ++ [id] else x.held.filter fun i => i != id })
/-- The bank and row of a sector of a vault. -/
def sectorPlace (n : Nat) : Nat × Nat := (n / bankSectors, n % bankSectors / 32)
/-- R144: the places of its vault that the write-back of a dirty line reaches: the run it reads or rewrites, and the run it takes. -/
def State.settlePlaces (s : State) (asid block : Nat) : List (Nat × Nat) :=
  match s.ctx? asid with
  | none => []
  | some c =>
    match c.dirty? block with
    | none => []
    | some d =>
      let v := s.vault (s.home asid (block * lineBytes))
      let e := c.entry block
      let n := codeSize (s.blockCode asid block).1
      let inPlace := n == d.owned && n != 0 && d.ownsRun
      (if codeSize e.code != 0 && (inPlace || v.valid asid block != BitVec.allOnes 8) then [sectorPlace e.loc] else []) ++
      (if inPlace || n == 0 then [] else [sectorPlace (v.pickRun s.tick n)])
/-- R128 to R130: whether the vault lets a write-back in now; where an open row holds it, operation `id` is noted. -/
def State.settleReach (s : State) (asid block id : Nat) : State × Bool :=
  let home := s.home asid (block * lineBytes)
  match (s.settlePlaces asid block).find? fun p => s.bankPath home p.1 p.2 id != .free with
  | none => (s, true)
  | some p => (if s.bankPath home p.1 p.2 id == .held then s.noteHeld home p.1 id true else s, false)
/-- Write-backs of several blocks for an operation, one after another as the vaults let them in; answers whether all are done. -/
def State.settleAll (s : State) (id : Nat) (l : List (Nat × Nat)) : State × Bool :=
  l.foldl (fun r p =>
    if !r.2 then r
    else
      let q := r.1.settleReach p.1 p.2 id
      if q.2 then (q.1.settleLine p.1 p.2, true) else q) (s, true)
/-- Whether a slice can place a line of a block now: the line it then gives up must be written back. -/
def State.room (s : State) (asid block id : Nat) : State × Bool :=
  let v := s.vault (s.home asid (block * lineBytes))
  match if (v.line? asid block).isSome then none else v.victim s.tick asid block with
  | none => (s, true)
  | some l => s.settleReach l.asid l.block id
/-- The sectors an access needs brought into its slice, its line placed; a read that meets an error in DRAM brings none. DEDUCED (log entry 137): a
part-write brings in a sector with its error. -/
def State.bring (s : State) (asid va n : Nat) (wr : Bool) : State :=
  let b := va / lineBytes
  let bad := s.lost asid va n wr
  if (!s.lacks asid va n wr && ((s.vault (s.home asid va)).line? asid b).isSome) || (!wr && bad) then s
  else
    let s := s.addL2 (s.home asid va) asid b (wanted va n wr) 0
    match s.ctx? asid with
    | none => s
    | some c => if bad && !c.l2Bad.contains b then s.putCtx { c with l2Bad := c.l2Bad ++ [b] } else s
/-- An access of operation `id` to `n` canonical bytes of one line gets what it needs from its slice or the vault, its line placed;
answers whether it has. -/
def State.reach (s : State) (asid va n : Nat) (wr : Bool) (id : Nat) : State × Bool :=
  let r := s.room asid (va / lineBytes) id
  if !r.2 then r
  else
    match s.dramPlace asid va n wr with
    | none => (s.bring asid va n wr, true)
    | some (b, row) =>
      let home := s.home asid va
      match s.bankPath home b row id with
      | .free => ((s.noteHeld home b id false).bring asid va n wr, true)
      | .later => (s, false)
      | .held => (s.noteHeld home b id true, false)
/-- Accesses to several pieces, each within a line: context, address, length, whether it writes. -/
def State.reachAll (s : State) (id : Nat) (l : List (Nat × Nat × Nat × Bool)) : State × Bool :=
  l.foldl (fun r p => if r.2 then r.1.reach p.1 p.2.1 p.2.2.1 p.2.2.2 id else r) (s, true)
/-- The number under which banks note what a cohort fetches, and what its instruction reads as it issues: none that an operation
has. -/
def accessId (g : GroupId) (cid : Nat) (issue : Bool) : Nat :=
  2 ^ 200 + ((((g.team.grid.part * 2 ^ 64 + g.team.grid.tok) * 2 ^ 32 + g.team.team) * 2 ^ 8 + g.grp) * 2 ^ 7 + cid) * 2 +
    (if issue then 1 else 0)
/-- The number under which banks note the event that the device writes to a queue of a context. -/
def eventAccess (asid q : Nat) : Nat := 2 ^ 100 + asid * 2 ^ 8 + q
/-- The state in which no bank holds the access of a number any more. -/
def State.unheld (s : State) (id : Nat) : State :=
  if s.vaults.any fun v => v.2.banks.any fun x => x.held.contains id then
    { s with vaults := s.vaults.map fun v =>
        (v.1, { v.2 with banks := v.2.banks.map fun x => { x with held := x.held.filter fun i => i != id } }) }
  else s
/-- Whether an operation, a fetch or a device write that a bank's open row has held still waits at its home: its activation comes before
any `row.open` issued after the row's close (R128). -/
def State.stillHeld (s : State) (id : Nat) : Bool :=
  (s.ops.any fun o => o.id == id && o.parts.any fun p => p.st == .waiting || p.st == .reserving) ||
  (s.groups.any fun g => g.records == 0 && !g.nacked && !g.slots.isEmpty && g.cohorts.any fun c =>
    !c.stopped && (accessId g.id c.cid false == id || accessId g.id c.cid true == id)) ||
  (s.ctxs.any fun c => c.queues.zipIdx.any fun q => !q.1.waiting.isEmpty && eventAccess c.asid q.2 == id) ||
  s.engs.any fun e => e.id == id && e.stall.isNone && e.failed.isNone && !e.cancel

end Sys2Proof.Machine
end

