-- ==== Sys2Proof/Machine/Coll.lean ====
section
/-! DEFINITION. Machine/Coll.lean: what engines see of memory (20_faults_memory R375, R376, 21_faults_containment R385), Iluros
Link ports (17_system R313), and how a collective reads its source and sends it (12_engines_system R276 to R279). -/

namespace Sys2Proof.Machine

/-! ## Engines and lines (R121) -/

/-- What runs on a tender; the rest runs on the turntable. -/
def EngKind.tender (k : EngKind) : Bool :=
  match k with
  | .cp | .cvt | .quant | .row | .dup => true
  | _ => false
/-- Whether two operations run on one engine: the tender of one pair, or the turntable. -/
def Engine.sameEngine (a b : Engine) : Bool :=
  a.kind.tender == b.kind.tender && (!a.kind.tender || pairOf a.core == pairOf b.core)
/-- The key of the canonical line of a place of a context. -/
def State.lineKey (s : State) (asid va : Nat) : Nat :=
  let t := s.canon asid va
  memKey t.1 t.2.1 / lineBytes
/-- R121, R169: whether a read of a line by an engine operation is held by another operation's ownership; a later one of its group
on its engine writes after it (R270). -/
def State.readHeld (s : State) (e : Engine) (key : Nat) : Bool :=
  s.engs.any fun x => x.id != e.id && !(x.gid == e.gid && x.sameEngine e && decide (e.id < x.id)) && x.owned.contains key
/-- R169: whether a write of a line is held by an ownership recorded before its own. -/
def State.writeHeld (s : State) (e : Engine) (key : Nat) : Bool :=
  s.engs.any fun x => decide (x.id < e.id) && x.owned.contains key

/-! ## Global memory as an engine reads it -/

/-- `n` bytes of a context's global space from `va`, each at its canonical place. -/
def State.engLoad (s : State) (asid va n : Nat) : Nat :=
  match n with
  | 0 => 0
  | k + 1 =>
    let t := s.canon asid va
    (s.byte t.1 t.2.1).toNat + 256 * s.engLoad asid (va + 1) k
/-- R366, R376, R385: what an engine's access to `n` bytes of one line finds; `row` where it writes row pages. -/
def State.engFault (s : State) (asid va n : Nat) (wr row : Bool) : Option (Nat × Nat) :=
  if 2 ^ 56 < va + n then some (codeXLATE, 3)
  else
    let t := s.canon asid va
    match s.ctx? t.1 with
    | none => some (codeXLATE, 1)
    | some c =>
      match c.walk t.2.1 with
      | .error e => some e
      | .ok p =>
        if !wr && !descR p.desc then some (codePROT, 1)
        else if wr && !descW p.desc then some (codePROT, 2)
        else if wr && descRow p.desc != row then some (codeROWPAGE, 1)
        else if wr && n == lineBytes then none
        else (s.errorAt t.1 t.2.1 n (!wr)).map fun d => (codeUE, d)
/-- The first fault of a range read by an engine: code, DETAIL, address. -/
def State.rangeFault (s : State) (asid lo n : Nat) : Option (Nat × Nat × Nat) :=
  (linesOf lo n).findSome? fun p => (s.engFault asid p.1 p.2 false false).map fun x => (x.1, x.2, p.1)

/-! ## Ports (R313) -/

/-- Flits that may start now leave, numbered; they are kept until they are acknowledged. -/
def Port.flush (p : Port) : Port :=
  p.toSend.foldl (fun p f =>
    if p.up && p.enabled && !p.paused.contains f.vc then
      { p with unacked := p.unacked ++ [{ f with seq := p.nextSeq, ack := some p.expect }], nextSeq := p.nextSeq + 1 }
    else { p with toSend := p.toSend ++ [f] }) { p with toSend := [] }
/-- A flit handed to a port. -/
def Port.send (p : Port) (vc : Nat) (body : FlitBody) : Port :=
  let f : Flit := ⟨vc, 0, none, none, none, body⟩
  let q : Port := { p with toSend := p.toSend ++ [f] }
  q.flush
/-- The state with a flit handed to a port. -/
def State.sendFlit (s : State) (port vc : Nat) (body : FlitBody) : State :=
  match s.ports[port]? with
  | none => s
  | some p => { s with ports := s.ports.set port (p.send vc body) }
/-- A list cut into pieces of at most `n`; `fuel` bounds their number. -/
def cutList (fuel n : Nat) (l : List α) : List (List α) :=
  match fuel, l with
  | _, [] => []
  | 0, l => [l]
  | k + 1, l => l.take n :: cutList k n (l.drop n)
/-- Elements of 4 bytes in the payload of a flit (R313). -/
def flitElems : Nat := 58

/-! ## Collectives (R276 to R279) -/

/-- Fields of a control word (R276). -/
def collTy (ctl : W64) : Nat := bitsOf ctl.toNat 0 4
def collRop (ctl : W64) : Nat := bitsOf ctl.toNat 4 2
def collRset (ctl : W64) : Nat := bitsOf ctl.toNat 8 8
def collCount (ctl : W64) : Nat := bitsOf ctl.toNat 16 32
def collPeer (ctl : W64) : Nat := bitsOf ctl.toNat 48 16
/-- Bytes of an element. -/
def collBytes (ctl : W64) : Nat := if collTy ctl = 4 then 2 else 4
/-- The ranks of an operation's rank set (R314). -/
def State.rankSet (s : State) (part rset : Nat) : RankSet :=
  ((s.part? part).bind fun p => assoc rset p.rankSets).getD ⟨0, 0, []⟩
/-- Elements a rank reads at A, and writes at B (R277). -/
def Engine.sourceCount (e : Engine) (ranks : Nat) : Nat :=
  match e.kind with
  | .rs => collCount e.c * ranks
  | .recv => 0
  | _ => collCount e.c
def Engine.destCount (e : Engine) (ranks : Nat) : Nat :=
  match e.kind with
  | .ar | .rs | .recv => collCount e.c
  | .ag => collCount e.c * ranks
  | _ => 0
/-- Source and destination addresses; both are global. -/
def Engine.srcVa (e : Engine) : Nat := bitsOf e.a.toNat 0 56
def Engine.dstVa (e : Engine) : Nat := bitsOf e.b.toNat 0 56
/-- The lines a collective writes. -/
def State.collLines (s : State) (e : Engine) : List Nat :=
  let n := collBytes e.c * e.destCount (s.rankSet e.part e.rset).ranks
  (linesOf e.dstVa n).map fun p => s.lineKey e.asid p.1
/-- Elements of `w` bytes from `a`. -/
def State.elems (s : State) (asid a w n : Nat) : List W32 :=
  (List.range n).map fun i => BitVec.ofNat 32 (s.engLoad asid (a + w * i) w)
/-- R278: a rank's partial sum of squares. -/
def normSum (l : List W32) : W32 := (treeReduce fadd (l.map fun x => some (fmul x x))).getD 0
/-- What a rank contributes: its elements, or its partial sum. -/
def State.collShot (s : State) (e : Engine) (ranks : Nat) : List W32 :=
  let l := s.elems e.asid e.srcVa (collBytes e.c) (e.sourceCount ranks)
  if e.kind == .norm then [normSum l] else l
/-- The elements of its contribution that go to rank `r`. -/
def Engine.shareOf (e : Engine) (shot : List W32) (r : Nat) : List W32 :=
  if e.kind == .rs then (shot.drop (r * collCount e.c)).take (collCount e.c) else shot
/-- Whether a collective sends to every rank. -/
def EngKind.toAll (k : EngKind) : Bool :=
  match k with
  | .ar | .rs | .ag | .norm => true
  | _ => false
/-- The state after an operation's contribution is handed to the ports. -/
def State.sendColl (s : State) (e : Engine) (shot : List W32) : State :=
  let rs := s.rankSet e.part e.rset
  rs.ports.foldl (fun s p =>
    let mine := e.shareOf shot p.1
    let cuts := cutList mine.length flitElems mine
    if p.1 == rs.own then s
    else if e.kind.toAll then
      cuts.foldl (fun s l => s.sendFlit p.2 0 (.reduce e.rset e.place rs.own l)) s
    else if e.kind == .send && p.1 == collPeer e.c then
      cuts.foldl (fun s l => s.sendFlit p.2 1 (.send e.rset rs.own e.place (collTy e.c) (collCount e.c) l)) s
    else s) s
/-- R385: a damaged L2 line dropped. DESIGN CHOICE (log entry 138): what a dirty one holds is lost: its reservation is given back,
and a block that no longer owns its run (R140) becomes Z. -/
def State.loseLine (s : State) (asid block : Nat) : State :=
  let s := s.dropL2 (s.home asid (block * lineBytes)) asid block
  match s.ctx? asid with
  | none => s
  | some c =>
    match c.dirty? block with
    | none => s
    | some d =>
      let e := c.entry block
      let e := if codeSize e.code = 0 || d.ownsRun then e else MapEntry.zero
      s.putCtx { (c.unhold (8 - d.owned)).setEntry block e with dirty := c.dirty.filter fun x => x.block != block }
/-- R385: a consumed error of a DETAIL poisons its block; a damaged L2 line is dropped. An error in DRAM stays beneath a dirty line,
whose write-back meets it (R387). -/
def State.poisonBlock (s : State) (asid block detail : Nat) : State :=
  let s := if detail = 2 then s.loseLine asid block else s
  match s.ctx? asid with
  | none => s
  | some c =>
    s.putCtx { c.setEntry block { c.entry block with poison := true } with
      dramBad := if (c.dirty? block).isSome then c.dramBad else c.dramBad.filter fun x => x / 8 != block
      l2Bad := if detail = 2 then c.l2Bad.filter fun b => b != block else c.l2Bad }
/-- The state after an engine's read fails at an address. -/
def State.engConsume (s : State) (asid code detail va : Nat) : State :=
  if code == codeUE then
    let t := s.canon asid va
    s.poisonBlock t.1 (t.2.1 / lineBytes) detail
  else s
/-- The pieces of an engine's read of global bytes, each in its canonical place. -/
def State.globReads (s : State) (asid lo n : Nat) : List (Nat × Nat × Nat × Bool) :=
  (linesOf lo n).map fun p => ((s.canon asid p.1).1, (s.canon asid p.1).2.1, p.2, false)
/-- R277, R279: a collective starts: its destination is owned, its source is read and sent; it waits while another operation owns a
line of its source, or the vault lets no access in, and fails where that cannot be read. -/
def State.startColl (s : State) (e : Engine) : State :=
  let e := { e with owned := s.collLines e }
  let ranks := (s.rankSet e.part e.rset).ranks
  let n := collBytes e.c * e.sourceCount ranks
  if (linesOf e.srcVa n).any fun p => s.readHeld e (s.lineKey e.asid p.1) then s.putEng e
  else
    match s.rangeFault e.asid e.srcVa n with
    | some (code, detail, va) => (s.engConsume e.asid code detail va).putEng { e with failed := some (code, va, 0) }
    | none =>
      let d := s.reachAll e.id (s.globReads e.asid e.srcVa n)
      if !d.2 then d.1.putEng e
      else
        let shot := d.1.collShot e ranks
        (d.1.putEng { e with started := true, shot := some shot }).sendColl e shot

end Sys2Proof.Machine
end

