-- ==== Sys2Proof/Machine/Access.lean ====
section
/-! DEFINITION. Machine/Access.lean: an access from its issue to its home: parts, the L1 (05_memory R117, R118), arrival in
track order (R123), race tags (07_ordering R172 to R174), checks at the home slice (20_faults_memory R362 to R374), and what
performing it does. -/

namespace Sys2Proof.Machine

/-! ## Kinds of operation -/

/-- What writes at its home (R362). -/
def OpKind.isWrite (k : OpKind) : Bool :=
  match k with
  | .store | .atomic _ | .red _ | .unimage | .discard | .fill => true
  | _ => false
/-- What reads at its home and returns the value. -/
def OpKind.isRead (k : OpKind) : Bool :=
  match k with
  | .load _ _ | .const _ | .image | .pld | .acc => true
  | _ => false
/-- What runs over a range of units. -/
def OpKind.isRange (k : OpKind) : Bool :=
  match k with
  | .discard | .fill | .cacheOp _ _ => true
  | _ => false
/-- What replaces a memory value by one computed from it. -/
def OpKind.updates (k : OpKind) : Bool :=
  match k with
  | .atomic _ | .red _ => true
  | _ => false
/-- What the home checks: everything but cache maintenance (R286). -/
def OpKind.checked (k : OpKind) : Bool :=
  match k with
  | .cacheOp _ _ => false
  | _ => true
/-- KIND of a replay item (R372). -/
def OpKind.replayKind (k : OpKind) : Nat :=
  match k with
  | .atomic _ => 1
  | .red _ => 2
  | .discard | .fill => 3
  | _ => 0
/-- Not yet performed or refused. -/
def PSt.isOpen (p : PSt) : Bool :=
  match p with
  | .done => false
  | .nack _ _ _ => false
  | _ => true
/-- Refused. -/
def PSt.isNack (p : PSt) : Bool :=
  match p with
  | .nack _ _ _ => true
  | _ => false

/-- The pair of an operation's group. -/
def State.opPair (s : State) (o : MemOp) : Nat := ((s.group? o.gid).map fun g => pairOf g.core).getD 0
/-- The home of a place: a slice, or 256 + a bank of the pair. -/
def State.locHome (s : State) (asid : Nat) (l : Loc) : Nat :=
  match l with
  | .glob va => s.home asid va
  | .bank b _ => 256 + b
/-- The key of the line of a place (a bank's places stand beyond every context's). -/
def State.locLine (s : State) (asid : Nat) (l : Loc) : Nat :=
  match l with
  | .glob va => s.lineKey asid va
  | .bank b off => 2 ^ 80 + b * 2 ^ 16 + off / lineBytes

/-! ## The L1 (R117, R118) -/

def Pair.line? (p : Pair) (asid line : Nat) : Option L1Line := p.l1.find? fun l => l.asid == asid && l.line == line
/-- A valid sector of the L1. -/
def Pair.sector? (p : Pair) (asid va : Nat) : Option L1Sector :=
  match p.line? asid (va / lineBytes) with
  | none => none
  | some l => l.sectors.find? fun x => x.n == va / 64 % 8
/-- The L1 with a line as its most recently used. -/
def Pair.touch (p : Pair) (asid line : Nat) : Pair :=
  match p.line? asid line with
  | none => p
  | some l => { p with l1 := l :: p.l1.filter fun x => !(x.asid == asid && x.line == line) }
/-- The L1 with a change to one line; a line without valid sectors is dropped. -/
def Pair.mapLine (p : Pair) (asid line : Nat) (h : L1Line → L1Line) : Pair :=
  { p with l1 := (p.l1.map fun l => if l.asid == asid && l.line == line then h l else l).filter fun l => !l.sectors.isEmpty }
/-- The L1 without one sector. -/
def Pair.dropSector (p : Pair) (asid va : Nat) : Pair :=
  p.mapLine asid (va / lineBytes) fun l => { l with sectors := l.sectors.filter fun x => x.n != va / 64 % 8 }
/-- The way-mode banks (R405). -/
def Pair.ways (p : Pair) : List Nat :=
  (p.banks.zipIdx.filter fun b => b.1.mode == .way).map (·.2)
/-- The L1 with a sector filled: into its line, a free way of its set, or the way of the set's least recently used line; as the
least recently used under `strm` (R124). -/
def Pair.install (p : Pair) (asid va : Nat) (x : L1Sector) (strm : Bool) : Pair :=
  let line := va / lineBytes
  match p.line? asid line with
  | some _ =>
    let q := p.mapLine asid line fun l => { l with sectors := (l.sectors.filter fun y => y.n != x.n) ++ [x] }
    if strm then q else q.touch asid line
  | none =>
    let same := p.l1.filter fun l => l.line % 128 == line % 128
    let add := fun (bank : Nat) (rest : List L1Line) =>
      let l : L1Line := ⟨bank, asid, line, [x]⟩
      { p with l1 := if strm then rest ++ [l] else l :: rest }
    match p.ways.find? fun b => same.all fun l => l.bank != b with
    | some b => add b p.l1
    | none =>
      match same.getLast? with
      | none => p
      | some old => add old.bank (p.l1.filter fun l => !(l.asid == old.asid && l.line == old.line))

/-- A number with `n` bytes at byte `off` replaced. -/
def splice (data off n v : Nat) : Nat :=
  let k := 256 ^ off
  data - data / k % 256 ^ n * k + v % 256 ^ n * k
/-- The L1 with bytes of a valid sector updated by a store. -/
def Pair.update (p : Pair) (asid va n v : Nat) : Pair :=
  p.mapLine asid (va / lineBytes) fun l => { l with sectors := l.sectors.map fun x =>
    if x.n == va / 64 % 8 then { x with data := splice x.data (va % 64) n v } else x }

/-- The global address of a place of a range: of a private one by R109. -/
def MemOp.placeOf (o : MemOp) (pos : Nat) : Nat :=
  match o.priv with
  | none => pos
  | some (base, width) => (base + pos / 4 * (4 * width) + pos % 4) % 2 ^ 56
/-- The addresses a range has left: from the first, to one past the last. -/
def MemOp.spanLo (o : MemOp) : Nat := o.placeOf o.pos
def MemOp.spanHi (o : MemOp) : Nat := o.placeOf (o.hi - 1) + 1
/-- Whether an operation has a part in a sector of the global space that is not performed. -/
def MemOp.touches (o : MemOp) (sector : Nat) : Bool :=
  if o.kind.isRange then decide (o.pos < o.hi) && decide (o.spanLo / 64 ≤ sector) && decide (sector * 64 < o.spanHi)
  else o.parts.any fun p =>
    p.st != .done && match p.loc with
      | .glob va => va / 64 == sector
      | .bank _ _ => false
/-- R156: whether operation `o` is ordered before a later access of group `gid` on `trk` whose last all-track event is
`fence`. -/
def MemOp.before (o : MemOp) (gid : GroupId) (trk fence : Nat) : Bool :=
  o.gid == gid && (o.trk == trk || decide (o.tick < fence))
/-- Whether the pair has a write of a sector under way that an access of `gid` on `trk` is not ordered after. -/
def State.foreignWrite (s : State) (pair asid va : Nat) (gid : GroupId) (trk fence : Nat) : Bool :=
  s.ops.any fun o => o.kind.isWrite && o.asid == asid && o.touches (va / 64) && s.opPair o == pair &&
    !o.before gid trk fence
/-- Whether the pair has any write of a sector under way. -/
def State.pairWrite (s : State) (pair asid va : Nat) : Bool :=
  s.ops.any fun o => o.kind.isWrite && o.asid == asid && o.touches (va / 64) && s.opPair o == pair

/-- Whether a grid was launched with CHECKED (R289). -/
def Grid.checked (g : Grid) : Bool := bitAt g.q.q0.toNat 58
/-- Whether a grid was launched with RELAUNCH (R289). -/
def Grid.relaunch (g : Grid) : Bool := bitAt g.q.q0.toNat 57
/-- R173: whether a group's accesses to a page check and update race tags. -/
def State.raceChecked (s : State) (gid : GroupId) (desc : W64) : Bool :=
  ((s.grid? gid.team.grid).map Grid.checked).getD false && descChk desc
/-- R116, R173: whether an access bypasses the L1 whatever its policy. -/
def State.mustBypass (s : State) (gid : GroupId) (asid va : Nat) : Bool :=
  (s.canon asid va).2.2 ||
    match (s.ctx? asid).bind fun c => c.page? va with
    | none => false
    | some p => s.raceChecked gid p.desc

/-- R118, R110: the bytes of a sector that an access of group `g` hits in its pair's L1. `const` for constant accesses. -/
def State.l1Hit (s : State) (g : Group) (trk : Nat) (const : Bool) (asid va : Nat) : Option L1Sector :=
  match (s.pair (pairOf g.core)).sector? asid va with
  | none => none
  | some x =>
    let fresh := if const then decide (((s.grid? g.id.team.grid).map (·.tick)).getD 0 ≤ x.tick)
      else decide (((s.team? g.id.team).map (·.ae)).getD 0 ≤ x.ep)
    let clear := !s.foreignWrite (pairOf g.core) asid va g.id trk g.allAt && s.ops.all fun o =>
      !((o.kind.isRead || o.kind.updates) && o.asid == asid && o.before g.id trk g.allAt && o.touches (va / 64))
    if fresh && clear && decide (g.xt ≤ x.tick) then some x else none

/-- The state with a sector dropped from the L1 of a pair. -/
def State.dropL1 (s : State) (pair asid va : Nat) : State := s.putPair pair ((s.pair pair).dropSector asid va)
/-- The sectors of the bytes `lo` to `hi − 1`, as first addresses. -/
def sectorsOf (lo hi : Nat) : List Nat :=
  if lo < hi then (List.range ((hi - 1) / 64 - lo / 64 + 1)).map fun i => (lo / 64 + i) * 64 else []
/-- A line without the sectors that meet the addresses `lo` to `hi − 1`. -/
def L1Line.without (l : L1Line) (lo hi : Nat) : L1Line :=
  { l with sectors := l.sectors.filter fun x =>
      decide (l.line * lineBytes + x.n * 64 + 64 ≤ lo) || decide (hi ≤ l.line * lineBytes + x.n * 64) }
/-- An L1 without a range of a context. -/
def Pair.dropRange (p : Pair) (asid lo hi : Nat) : Pair :=
  let l := p.l1.map fun l => if l.asid == asid then l.without lo hi else l
  { p with l1 := l.filter fun l => !l.sectors.isEmpty }
/-- The state with every L1 rid of a range of a context (R117, R272). -/
def State.dropAllL1 (s : State) (asid lo hi : Nat) : State :=
  { s with pairs := s.pairs.map fun p => (p.1, p.2.dropRange asid lo hi) }

/-- R117: what a store does to its pair's L1 at issue: valid sectors take its bytes; a sector that another access's write of the
pair is on its way to is dropped. -/
def State.storeL1 (s : State) (g : Group) (trk asid va n v : Nat) : State :=
  let k := pairOf g.core
  if s.foreignWrite k asid va g.id trk g.allAt then s.dropL1 k asid va
  else s.putPair k ((s.pair k).update asid va n v)

/-! ## Race tags (R172 to R174) -/

/-- Whether a tag was left by another team of the partition whose generation on its track has not advanced; identities are
serials of a partition (R172). -/
def State.tagLive (s : State) (part ident : Nat) (t : RaceTag) : Bool :=
  t.ident != ident && s.teams.any fun x =>
    x.id.grid.part == part && x.ident == t.ident && x.gens[t.trk]? == some t.gen
/-- The identity of a group's team. -/
def State.identOf (s : State) (gid : GroupId) : Nat := ((s.team? gid.team).map (·.ident)).getD 0
/-- The byte mask of an access within a sector. -/
def maskIn (sector va n : Nat) : Nat :=
  (List.range 64).foldl (fun m i => if decide (va ≤ sector * 64 + i) && decide (sector * 64 + i < va + n) then m + 2 ^ i else m) 0
/-- R173, R374: the DETAIL of the race that an access to one sector makes. -/
def State.raceIn (s : State) (o : MemOp) (t : SectorTags) (va n : Nat) : Option Nat :=
  let mask := maskIn t.sector va n
  let id := s.identOf o.gid
  let meets := fun (x : Option RaceTag) (plain : Bool) =>
    match x with
    | none => false
    | some x => s.tagLive o.gid.team.grid.part id x && (x.mask &&& mask) != 0 && (!plain || x.plain)
  if o.kind.updates then (if meets t.writer true then some 4 else none)
  else if o.kind.isWrite then
    (if meets t.writer false then some 2 else if meets t.reader false then some 3 else none)
  else if meets t.writer true then some 1 else none
/-- The race of an access to canonical bytes of a context. -/
def State.race (s : State) (o : MemOp) (c : Context) (va n : Nat) : Option Nat :=
  (c.tags.filter fun t => decide (va / 64 ≤ t.sector) && decide (t.sector * 64 < va + n)).findSome? fun t => s.raceIn o t va n

/-- A tag with an access added (R173). -/
def RaceTag.add (old : Option RaceTag) (new : RaceTag) : RaceTag :=
  match old with
  | none => new
  | some t =>
    if t.ident == new.ident && t.trk == new.trk && t.gen == new.gen then
      { t with plain := t.plain || new.plain, mask := t.mask ||| new.mask }
    else new
/-- The tags of a sector after a performed access. DESIGN CHOICE (log entry 127): a write clears the reader tag also where it
only adds to its own writer tag. -/
def State.tagSector (s : State) (o : MemOp) (va n : Nat) (c : Context) (sector : Nat) : Context :=
  let old := (c.tags.find? fun t => t.sector == sector).getD ⟨sector, none, none⟩
  let new : RaceTag := ⟨s.identOf o.gid, o.trk, o.gen, !o.kind.updates, maskIn sector va n⟩
  let t : SectorTags := if o.kind.isWrite then ⟨sector, some (RaceTag.add old.writer new), none⟩
    else { old with reader := some (RaceTag.add old.reader new) }
  { c with tags := (c.tags.filter fun t => t.sector != sector) ++ [t] }
/-- The state after the tags of canonical bytes take a performed access, where its page is checked. -/
def State.tagRace (s : State) (o : MemOp) (asid va n : Nat) : State :=
  match s.ctx? asid with
  | none => s
  | some c =>
    match c.page? va with
    | none => s
    | some p =>
      if s.raceChecked o.gid p.desc && o.kind.checked then
        s.putCtx ((sectorsOf va (va + n)).foldl (fun c a => s.tagSector o va n c (a / 64)) c)
      else s

/-! ## Checks at the home (R366, R374, R385) -/

/-- Translation, rights, row pages, races and errors of an access to `n` bytes, in this order; `whole` when it replaces a
whole block. -/
def State.homeFault (s : State) (o : MemOp) (va n : Nat) (whole : Bool) : Option (Nat × Nat) :=
  let t := s.canon o.asid va
  match s.ctx? t.1 with
  | none => some (codeXLATE, 1)
  | some c =>
    match c.walk t.2.1 with
    | .error e => some e
    | .ok p =>
      let reads := o.kind.isRead || o.kind.updates
      if (o.kind.isRead || (o.kind.isRange && whole)) && !descR p.desc then some (codePROT, 1)
      else if o.kind.isWrite && !descW p.desc then some (codePROT, 2)
      else if o.kind.isWrite && descRow p.desc then some (codeROWPAGE, 1)
      else
        match if s.raceChecked o.gid p.desc then s.race o c t.2.1 n else none with
        | some d => some (codeRACE, d)
        | none =>
          if whole then none else (s.errorAt t.1 t.2.1 n reads).map fun d => (codeUE, d)

/-! ## Writes seen by others: monitors (R245), sleepers (R246), buckets (R279) -/

/-- The group whose armed monitor is disarmed; the one that a `watch` still waits for stays (R245, R246). -/
def Group.disarm (g : Group) : Group := { g with monitor := g.monitor.bind fun m => if m.armed then none else some m }
/-- The group after a sleeping cohort wakes for a reason: the monitor is disarmed and B is written, once it is full (R246). -/
def Group.wake (g : Group) (c : Cohort) (d : Code) (reason : Nat) : Group :=
  let v : View := ⟨⟨g.id, c.cid, 0, 0⟩, g, c, false⟩
  if v.isEmpty d 1 then (g.hold c.cid (.woken reason d)).disarm
  else ((v.writeD g d (BitVec.ofNat 64 reason)).advance c.cid 1).disarm
/-- The group after its monitor fires at cycle `now`: every cohort asleep wakes, with reason 1 unless its timeout elapsed first
(R246). -/
def Group.fire (g : Group) (now : Nat) : Group :=
  let g : Group := { g with monitor := g.monitor.map fun m => { m with fired := true } }
  g.cohorts.foldl (fun g c =>
    match c.prog with
    | .sleep till d => g.wake c d (if till ≤ now then 2 else 1)
    | _ => g) g
/-- The group after a write on the line of a key (R245). -/
def Group.fireOn (g : Group) (key now : Nat) : Group :=
  match g.monitor with
  | some m => if m.armed && !m.fired && m.line == key then g.fire now else g
  | none => g

/-- The bytes that two ranges share. -/
def overlapLen (a n b m : Nat) : Nat := min (a + n) (b + m) - max a b
/-- The state after canonical bytes of a context have been written at their home. -/
def State.wrote (s : State) (asid va n : Nat) : State :=
  let key := memKey asid va / lineBytes
  let s : State := { s with groups := s.groups.map fun g => g.fireOn key (s.now g.core) }
  match s.ctx? asid with
  | none => s
  | some c =>
    let counted : List Bucket := c.buckets.map fun b => { b with count := b.count + overlapLen b.lo b.len va n }
    let s := s.putCtx { c with buckets := counted }
    (counted.filter fun b => decide (b.expect ≤ b.count)).foldl (fun s b =>
      match s.eng? b.eng with
      | some e => if e.started || e.failed.isSome then s else s.startColl e
      | none => s) s

/-! ## New values (R231 to R234) -/

/-- R231, R232: the new value of a returning atomic of `n` bytes from old `m`, operand `v` and, for `at.cas`, `x`. -/
def AtOp.apply (a : AtOp) (n m v x : Nat) : Nat :=
  let w := BitVec.ofNat 32 m
  let u := BitVec.ofNat 32 v
  match a with
  | .add => (m + v) % 256 ^ n
  | .minI => if u.slt w then v else m
  | .maxI => if w.slt u then v else m
  | .minN => min m v
  | .maxN => max m v
  | .and => m &&& v
  | .or => m ||| v
  | .xor => m ^^^ v
  | .xchg => v
  | .cas => if m = x then v else m
  | .fadd => (Machine.fadd w u).toNat

/-- R234: the addend of `red.xadd` with `f` fraction bits. -/
def xaddTerm (f : Nat) (v : W32) : Int :=
  match fv v with
  | .nan => 0
  | .inf neg => if neg then -2 ^ 63 else 2 ^ 63 - 1
  | .fin neg m e => max (-2 ^ 63) (min (2 ^ 63 - 1) (roundInt .rne neg m (e + f)))
/-- R233, R234: the new value of a reduction of `n` bytes from memory `m` and operand `v`. -/
def RedOp.apply (r : RedOp) (m v : Nat) : Nat :=
  let w := BitVec.ofNat 32 m
  let u := BitVec.ofNat 32 v
  match r with
  | .add32 => (m + v) % 2 ^ 32
  | .add64 => (m + v) % 2 ^ 64
  | .fadd => (Machine.fadd w u).toNat
  | .haddBf => (packed2 (hadd bf16 .rne false) w u 0).toNat
  | .fmax => (Machine.fmax w u).toNat
  | .fmin => (Machine.fmin w u).toNat
  | .maxI => if w.slt u then v else m
  | .xadd f => (((m : Int) + xaddTerm f u) % 2 ^ 64).toNat

/-! ## Performing a part -/

/-- A bank of a pair. -/
def Pair.bank (p : Pair) (b : Nat) : CBank := (p.banks[b]?).getD CBank.reset
def Pair.putBank (p : Pair) (b : Nat) (x : CBank) : Pair := { p with banks := p.banks.set b x }
/-- Bytes of a scratch bank; zero in any other mode (R287). -/
def CBank.read (b : CBank) (off n : Nat) : Nat := if b.mode == .scratch then cellsRead b.bytes off n else 0
/-- R119: whether operation `id` was issued after a mode change of the bank that is under way. -/
def CBank.after (b : CBank) (id : Nat) : Bool :=
  match b.switch with
  | some (_, at_) => decide (at_ ≤ id)
  | none => false
/-- A scratch bank written; nothing in any other mode (R287). -/
def CBank.store (b : CBank) (off n v : Nat) : CBank :=
  if b.mode == .scratch then { b with bytes := cellsWrite b.bytes off n v, bad := b.bad.filter fun x => !overlaps x 1 off n }
  else b

/-- The state with a part of an operation written back. -/
def State.putPart' (s : State) (o : MemOp) (k : Nat) (p : Part) : State := s.putOp { o with parts := o.parts.set k p }

/-- What a part writes, given what it finds. -/
def MemOp.newValue (o : MemOp) (p : Part) (m : Nat) : Nat :=
  match o.kind with
  | .atomic a => a.apply p.n m p.val p.cmp
  | .red r => r.apply m p.val
  | _ => p.val

/-- R117: the sector a read fills in its pair's L1, unless a write of the pair is on its way to it; nothing is filled for an
alias (R116) or a checked access (R173). -/
def State.fillL1 (s : State) (o : MemOp) (va : Nat) : State :=
  let k := s.opPair o
  if s.mustBypass o.gid o.asid va then s
  else if o.bypass || s.pairWrite k o.asid va then s.dropL1 k o.asid va
  else
    let x : L1Sector := ⟨va / 64 % 8, o.ep, s.tick, s.load o.asid (va / 64 * 64) 64⟩
    s.putPair k ((s.pair k).install o.asid va x o.strm)

/-- A part performed at its place: a read takes its value, a write is seen by everyone. -/
def State.performPart (s : State) (o : MemOp) (k : Nat) (p : Part) : State :=
  match p.loc with
  | .bank b off =>
    let pr := s.pair (s.opPair o)
    if o.kind.isRead then s.putPart' o k { p with st := .done, got := (pr.bank b).read off p.n }
    else (s.putPair (s.opPair o) (pr.putBank b ((pr.bank b).store off p.n p.val))).putPart' o k { p with st := .done }
  | .glob va =>
    let t := s.canon o.asid va
    let m := s.load t.1 t.2.1 p.n
    let s := s.tagRace o t.1 t.2.1 p.n
    if o.kind.isRead then (s.putPart' o k { p with st := .done, got := m }).fillL1 o va
    else
      let s := ((s.store t.1 t.2.1 p.n (o.newValue p m)).wrote t.1 t.2.1 p.n).wroteL2 t.1 t.2.1 p.n
      let s := s.putPart' o k { p with st := .done, got := m }
      if o.kind.updates then s.dropL1 (s.opPair o) o.asid va else s

/-! ## Ranges (R238, R286) -/

/-- The end of the unit of a range that begins at `pos`: within a block, or a 4-byte unit of private space. -/
def MemOp.unitEnd (o : MemOp) (pos : Nat) : Nat :=
  let k := if o.priv.isSome then 4 else lineBytes
  min o.hi (pos / k * k + k)
/-- Whether the unit at `pos` is a whole block of the range. -/
def MemOp.wholeUnit (o : MemOp) (pos : Nat) : Bool :=
  o.priv.isNone && pos % lineBytes == 0 && decide (pos + lineBytes ≤ o.hi)
/-- A range operation whose units below `pos` are done. -/
def MemOp.at_ (o : MemOp) (pos : Nat) : MemOp :=
  let st : PSt := if pos < o.hi then .waiting else .done
  { o with pos := pos, parts := o.parts.map fun p => { p with
      loc := .glob (o.placeOf pos), n := o.unitEnd pos - pos, st := st
      replay := p.replay && decide (pos < o.hi) } }
/-- The bytes of a partial unit of `fill` with a pattern. -/
def patternBytes (pat pos n : Nat) : Nat :=
  match n with
  | 0 => 0
  | k + 1 => pat / 256 ^ (pos % 4) % 256 + 256 * patternBytes pat (pos + 1) k
/-- R146, R238: a whole block released, and set to a pattern by `fill`. -/
def State.replaceBlock (s : State) (asid block pat : Nat) : State :=
  let home := s.home asid (block * lineBytes)
  let s := s.release asid block home
  if pat = 0 then s.zeroBlock asid block
  else
    let s := s.fillBlock asid block pat
    match s.ctx? asid with
    | none => s
    | some c => s.putCtx (c.setEntry block ⟨1, false, false, 0, pat⟩)
/-- A unit of `discard` or `fill` performed. -/
def State.performUnit (s : State) (o : MemOp) (p : Part) : State :=
  let va := o.placeOf o.pos
  let t := s.canon o.asid va
  let e := o.unitEnd o.pos
  let pat := if o.kind == .fill then p.val else 0
  let s := s.tagRace o t.1 t.2.1 (e - o.pos)
  let s := if o.wholeUnit o.pos then s.replaceBlock t.1 (t.2.1 / lineBytes) pat
    else (s.store t.1 t.2.1 (e - o.pos) (patternBytes pat o.pos (e - o.pos))).wroteL2 t.1 t.2.1 (e - o.pos)
  let s := s.wrote t.1 t.2.1 (e - o.pos)
  let s := (sectorsOf va (va + (e - o.pos))).foldl (fun s a => s.dropL1 (s.opPair o) o.asid a) s
  s.putOp (o.at_ e)
/-- R286: a line of a cache instruction done, once its vault lets a write-back in (R128 to R130). -/
def State.cacheUnit (s : State) (o : MemOp) (inv : Bool) (cp : Nat) : State :=
  let t := s.canon o.asid o.pos
  let e := o.unitEnd o.pos
  let b := t.2.1 / lineBytes
  let d := if cp = 0 then (s, true) else s.settleReach t.1 b o.id
  if !d.2 then d.1
  else
  let s := if cp = 0 then s else s.settleLine t.1 b
  let s := if inv && cp != 0 then s.dropL2 (s.home t.1 t.2.1) t.1 b else s
  let base := o.pos / lineBytes * lineBytes
  let s := if inv && cp != 1 then
      (sectorsOf base (base + lineBytes)).foldl (fun s a => s.dropL1 (s.opPair o) o.asid a) s
    else s
  s.putOp (o.at_ e)

/-! ## Arrival (R123, R142, R121, R362) -/

/-- R121: the engine operation that owns a line, if any. -/
def State.owner? (s : State) (key : Nat) : Option Engine := s.engs.find? fun e => e.owned.contains key
/-- Whether a reservation for a line is on its way (R142). -/
def State.lineReserving (s : State) (key : Nat) : Bool :=
  s.ctxs.any fun c => c.reserves.any fun r =>
    match (s.op? r.op).bind fun o => (o.parts[r.part]?).map fun p => (o, p) with
    | none => false
    | some (o, p) => s.locLine o.asid p.loc == key

/-- Whether a range operation has the line of a key still to do. -/
def State.coversLine (s : State) (e : MemOp) (line : Nat) : Bool :=
  e.kind.isRange && decide (e.pos < e.hi) &&
    (List.range ((e.spanHi - 1) / lineBytes - e.spanLo / lineBytes + 1)).any fun i =>
      s.lineKey e.asid ((e.spanLo / lineBytes + i) * lineBytes) == line
/-- Whether an earlier operation `e` keeps part `p` of `o` from being performed: order on the track at the home, events on
all tracks, rounds, ranges. -/
def State.holds (s : State) (e o : MemOp) (p : Part) (home line : Nat) : Bool :=
  let same := e.gid == o.gid && e.trk == o.trk
  let live := fun (q : Part) => q.st.isOpen && (!p.replay || q.replay)
  (same && e.parts.any fun q => live q && s.locHome e.asid q.loc == home) ||
  (e.gid == o.gid && decide (e.tick < o.fence) && (e.parts.any fun q => q.st.isOpen) &&
    ((e.parts.any fun q => q.st.isOpen && s.locLine e.asid q.loc == line) || s.coversLine e line)) ||
  (e.round.isSome && e.round == o.round && e.parts.any fun q => live q && s.locHome e.asid q.loc == home) ||
  (e.kind.isRange && same && e.parts.any (fun q => q.st.isOpen) && match p.loc with
    | .bank _ _ => false
    | .glob va => (decide (e.spanLo < va + p.n) && decide (va < e.spanHi)) ||
        (List.range (min 256 ((e.spanHi - e.spanLo) / lineBytes + 1))).any fun i =>
          s.home e.asid (e.spanLo / lineBytes * lineBytes + i * lineBytes) == home)

/-- R155: the parts that are performed, or refused, together: the two words of an aligned 8 bytes of private space (R109), or the
part alone. -/
def MemOp.mates (o : MemOp) (k : Nat) : List Nat :=
  match o.parts[k]? with
  | none => []
  | some p => if p.n == 4 && (o.width == 8 || o.width == 16) then [k / 2 * 2, k / 2 * 2 + 1] else [k]
/-- Whether part `k` of an operation must still wait for its turn at its home. -/
def State.blocked (s : State) (o : MemOp) (k : Nat) (p : Part) : Bool :=
  let home := s.locHome o.asid p.loc
  let line := s.locLine o.asid p.loc
  ((s.ops.takeWhile fun e => e.id != o.id).any fun e => s.holds e o p home line) ||
  ((o.parts.take (((o.mates k).head?).getD k)).any fun q => q.st.isOpen && s.locHome o.asid q.loc == home) ||
  s.lineReserving line

/-- A part that a closed track has refused, and that no record covers. -/
def Part.passed (p : Part) : Bool :=
  match p.st with
  | .nack code _ _ => code == 0x0F && !p.noted
  | _ => false
/-- Whether a refused access of a group's track has not been performed again (R373). -/
def State.replayOpen (s : State) (gid : GroupId) (trk : Nat) : Bool :=
  s.ops.any fun e => e.gid == gid && e.trk == trk && e.parts.any fun q => (q.st.isNack && !q.passed) || (q.replay && q.st.isOpen)
/-- R362: what a closed track does to a part: `some true` a NACK, `some false` it is held, `none` nothing. A replayed part is
performed once its group has no record left to be serviced (R396) or its team is being ended (R335), and past a slice that has closed the track before RESUME. A
vector instruction's own NACKs, but for capacity, do not keep its other threads from being tried (R366). -/
def State.closure (s : State) (o : MemOp) (p : Part) : Option Bool :=
  let home := s.locHome o.asid p.loc
  let g := s.group? o.gid
  let ending := ((s.team? o.gid.team).map (·.ending)).getD false
  if p.replay && !ending && (g.map fun g => g.records != 0).getD false then some false
  else
  match g.bind fun g => g.closed.find? fun x => x.trk == o.trk && x.slice == home with
  | none => none
  | some x =>
    if !o.kind.checked || (p.replay && x.replaying) then none
    else
      let mine := o.parts.filterMap fun q =>
        if s.locHome o.asid q.loc == home then (match q.st with | .nack c _ _ => some c | _ => none) else none
      let others := s.ops.any fun e => e.id != o.id && e.gid == o.gid && e.trk == o.trk &&
        e.parts.any fun q => (q.st.isNack || q.replay) && s.locHome e.asid q.loc == home
      if !mine.isEmpty && !others && mine.all fun c => c != codeCAPACITY && c != 0x0F then none
      else some o.kind.isWrite

/-- The writes of a group's track that it refused while closed, tried now (log entry 152). -/
def State.tryPassed (s : State) (gid : GroupId) (trk : Nat) : State :=
  { s with ops := s.ops.map fun o => if o.gid == gid && o.trk == trk then
      { o with parts := o.parts.map fun p => if p.passed then { p with st := .waiting } else p } else o }
/-- R373 step 2: once a group has no record left to be serviced, each track whose replayed accesses are all performed is reopened
by the replay marker. -/
def State.marker (s : State) (gid : GroupId) : State :=
  match s.group? gid with
  | none => s
  | some g =>
    if g.records != 0 || g.closed.isEmpty then s
    else
      let done := fun (x : Closed) => x.replaying && !s.replayOpen gid x.trk
      (g.closed.filter done).foldl (fun s x => s.tryPassed gid x.trk)
        (s.putGroup { g with closed := g.closed.filter fun x => !done x })
/-- A closed track noted, or noted afresh when a replay is refused. -/
def addClosed (l : List Closed) (trk slice : Nat) : List Closed :=
  if l.any fun x => x.trk == trk && x.slice == slice then
    l.map fun x => if x.trk == trk && x.slice == slice then { x with replaying := false } else x
  else l ++ [⟨trk, slice, false⟩]
/-- The operation with a change to some of its parts. -/
def MemOp.mapParts (o : MemOp) (ks : List Nat) (h : Part → Part) : MemOp :=
  { o with parts := o.parts.zipIdx.map fun q => if ks.contains q.2 then h q.1 else q.1 }

/-- R362, R363: a part refused; the slice closes the track and the group is parked. A platform load stalls or fails by itself
(R375). -/
def State.nackPart (s : State) (o : MemOp) (k : Nat) (p : Part) (code detail : Nat) : State :=
  let s' := s.putOp (o.mapParts (o.mates k) fun q => { q with st := .nack code detail s.time, noted := false, replay := false })
  if o.kind == .pld then s'
  else
    match s'.group? o.gid with
    | none => s'
    | some g => s'.putGroup { g with nacked := g.nacked || code != 0x0F, closed := addClosed g.closed o.trk (s.locHome o.asid p.loc) }

/-- DETAIL of a refused reservation (R370). -/
def OpKind.capacityDetail (k : OpKind) : Nat := 1 + k.replayKind

/-- Whether XLATE DETAIL 1 at an address lies in a backing region of a context (R368). -/
def Context.backed (c : Context) (va : Nat) : Option BackingRegion :=
  c.backing.find? fun r => decide (r.va ≤ va) && decide (va < r.va + r.len)

/-- R142: a write's line made dirty, or its part sent for a reservation; answers whether the write may be performed now. -/
def State.readyWrite (s : State) (o : MemOp) (k : Nat) (p : Part) (va : Nat) : State × Bool :=
  let t := s.canon o.asid va
  let b := t.2.1 / lineBytes
  match s.ctx? t.1 with
  | none => (s, false)
  | some c =>
    if (c.dirty? b).isSome then (s, true)
    else
      let home := s.home t.1 t.2.1
      let need := s.need t.1 b home
      if need = 0 then (s.makeDirty t.1 b home 0, true)
      else
        let s := s.putPart' o k { p with st := .reserving }
        match s.ctx? t.1 with
        | none => (s, false)
        | some c => (s.putCtx { c with reserves := c.reserves ++ [⟨o.id, k, need⟩] }, false)
/-- A part that may be performed now is checked, and performed, refused, sent for a reservation (R142), or kept until the vault
lets it in (R128 to R130). -/
def State.tryPart (s : State) (o : MemOp) (k : Nat) (p : Part) : State :=
  match p.loc with
  | .bank b off =>
    let x := (s.pair (s.opPair o)).bank b
    if x.after o.id then s
    else if o.kind.isRead && x.mode == .scratch && x.bad.any fun a => overlaps a 1 off p.n then s.nackPart o k p codeUE 3
    else s.performPart o k p
  | .glob va =>
    match o.kind with
    | .cacheOp inv cp => s.cacheUnit o inv cp
    | _ =>
      let whole := o.kind.isRange && o.wholeUnit o.pos
      let t := s.canon o.asid va
      let d := if whole then (s, true) else s.reach t.1 t.2.1 p.n o.kind.isWrite o.id
      match s.homeFault o va p.n whole with
      | some (code, detail) =>
        if o.kind == .discard && code == codeXLATE && detail == 1 then s.putOp (o.at_ (o.unitEnd o.pos))
        else if code == codeUE && !d.2 then d.1
        else if o.kind == .pld && code == codeXLATE && detail == 1 &&
            ((s.ctx? t.1).bind fun c => c.backed t.2.1).isSome then s
        else
          let s := if code == codeUE then s.poisonBlock t.1 (t.2.1 / lineBytes) detail else s
          s.nackPart o k p code detail
      | none =>
        if whole then s.performUnit o p
        else if !d.2 then d.1
        else if !o.kind.isWrite then d.1.performPart o k p
        else
          let r := d.1.readyWrite o k p va
          if !r.2 then r.1 else if o.kind.isRange then r.1.performUnit o p else r.1.performPart o k p

/-- Part `k` of an operation as it stands now, performed. -/
def State.performNow (s : State) (op k : Nat) : State :=
  match s.op? op with
  | none => s
  | some o =>
    match o.parts[k]? with
    | none => s
    | some p => s.performPart o k p
/-- The parts that go together (R155) checked, then performed in one step, refused, or kept until their lines are dirty. -/
def State.tryMates (s : State) (o : MemOp) (ks : List Nat) : State :=
  let l := ks.filterMap fun k => (o.parts[k]?).map fun p => (k, p)
  match l with
  | [(k, p)] => s.tryPart o k p
  | _ =>
    let vaOf := fun (p : Part) => match p.loc with
      | .glob va => va
      | .bank _ off => off
    let d := s.reachAll o.id (l.map fun x =>
      ((s.canon o.asid (vaOf x.2)).1, (s.canon o.asid (vaOf x.2)).2.1, x.2.n, o.kind.isWrite))
    match l.findSome? fun x => (s.homeFault o (vaOf x.2) x.2.n false).map fun e => (x, e) with
    | some (x, code, detail) =>
      let t := s.canon o.asid (vaOf x.2)
      if code == codeUE && !d.2 then d.1
      else
        let s := if code == codeUE then s.poisonBlock t.1 (t.2.1 / lineBytes) detail else s
        s.nackPart o x.1 x.2 code detail
    | none =>
      let r := if !d.2 || !o.kind.isWrite then d
        else l.foldl (fun (r : State × Bool) x => if r.2 then r.1.readyWrite o x.1 x.2 (vaOf x.2) else r) d
      if r.2 then l.foldl (fun s x => s.performNow o.id x.1) r.1 else r.1

/-- A part arrives at its home, or is let go from a recall (R121): in its turn it is held, refused or tried; a write that a closed
track refuses waits for no read that the track holds (R362). -/
def State.arrive (s : State) (op k : Nat) (back red : Bool) : State :=
  match s.op? op with
  | none => s
  | some o =>
    match o.parts[k]? with
    | none => s
    | some p =>
      let isRed := match o.kind with
        | .red _ => true
        | _ => false
      let l := (o.mates k).filterMap fun j => (o.parts[j]?).map fun q => (j, q)
      let closed := l.map fun x => s.closure o x.2
      let refuse := closed.any fun c => c == some true
      if (l.any fun x => x.2.st != (if back then .recalled else .waiting)) || (!back && isRed != red) ||
          (!refuse && l.any fun x => s.blocked o x.1 x.2) then s
      else if l.any fun x => (s.owner? (s.locLine o.asid x.2.loc)).isSome then
        if back then s else s.putOp (o.mapParts (o.mates k) fun q => { q with st := .recalled })
      else if refuse then s.nackPart o k p 0x0F 0
      else if closed.any fun c => c == some false then s
      else s.tryMates o (o.mates k)

/-- R142, R370: the pantry home takes the oldest request of a context. DESIGN CHOICE (log entry 139): where the block's owned size
has fallen since, it reserves what the block needs now. The grant waits for the vault where the slice has given the line up meanwhile
(R128 to R130). -/
def State.reserveNext (s : State) (asid : Nat) : State :=
  match s.ctx? asid with
  | none => s
  | some c =>
    match c.reserves with
    | [] => s
    | r :: rest =>
      let t := s.putCtx { c with reserves := rest }
      match s.op? r.op with
      | none => t
      | some o =>
        match o.parts[r.part]? with
        | none => t
        | some p =>
          if p.st != .reserving then t
          else
            match p.loc with
            | .bank _ _ => t
            | .glob va =>
              let t := s.canon o.asid va
              let d := s.reach t.1 t.2.1 p.n true o.id
              if !d.2 then d.1
              else
              match d.1.ctx? asid with
              | none => d.1
              | some c =>
              let s := d.1.putCtx { c with reserves := rest }
              let home := s.home t.1 t.2.1
              let need := max r.need (s.need t.1 (t.2.1 / lineBytes) home)
              if c.free < need then s.nackPart o r.part p codeCAPACITY o.kind.capacityDetail
              else
              let s := s.makeDirty t.1 (t.2.1 / lineBytes) home need
              if o.kind.isRange then s.performUnit o p
              else if (o.mates r.part).length = 1 then s.performPart o r.part p
              else (s.putPart' o r.part { p with st := .waiting }).arrive o.id r.part false false

end Sys2Proof.Machine
end

