-- ==== Sys2Proof/Machine/Issue.lean ====
section
/-! DEFINITION. Machine/Issue.lean: what issuing does to tracks, epochs and the stockpot: track order (05_memory R122, R123),
acquires and releases (R118, R159; 07_ordering R160, R172), drain rounds (07 R167; 21 R389). -/

namespace Sys2Proof.Machine

/-- One track as a set. -/
def oneTrack (t : Nat) : BitVec 16 := BitVec.ofNat 16 (2 ^ t)
/-- Every track. -/
def allTracks : BitVec 16 := 0xFFFF#16
/-- PC of a track. -/
def Group.count (g : Group) (t : Nat) : Nat := (g.pc[t]?).getD 0
/-- The group with PC of a track raised or lowered by one. -/
def Group.up (g : Group) (t : Nat) : Group := { g with pc := g.pc.set t (g.count t + 1) }
def Group.down (g : Group) (t : Nat) : Group := { g with pc := g.pc.set t (g.count t - 1) }

/-! ## What holds an access at issue -/

/-- The tracks a cohort's unfinished instruction holds (R123). -/
def Prog.tracks (p : Prog) : BitVec 16 :=
  match p with
  | .release t => t
  | .acquire t => t
  | .ending => allTracks
  | _ => 0
/-- Whether the cohort has begun the acquire of its instruction. -/
def Prog.acquiring (p : Prog) : Bool :=
  match p with
  | .acquire _ => true
  | _ => false
/-- Whether the cohort has begun the release of its instruction. -/
def Prog.releasing (p : Prog) : Bool :=
  match p with
  | .release _ => true
  | _ => false
/-- Whether a memory operation is an acquire load that has not returned (R230). -/
def MemOp.isAcq (o : MemOp) : Bool :=
  match o.kind with
  | .load _ acq => acq
  | _ => false
/-- R167: whether the group's later accesses wait for a rendezvous round of its entries. -/
def State.roundHeld (s : State) (g : Group) : Bool :=
  (g.pot.any fun e => e.hold.isSome) || s.ops.any fun o => o.gid == g.id && o.hold.isSome
/-- Whether a release or acquire of another cohort, or an acquire load, holds any of these tracks. -/
def State.tracksHeld (s : State) (g : Group) (cid : Nat) (t : BitVec 16) : Bool :=
  (g.cohorts.any fun c => c.cid != cid && (c.prog.tracks &&& t) != 0) ||
  s.ops.any fun o => o.gid == g.id && o.isAcq && t.getLsbD o.trk
/-- R156, R162: whether an acquire of the group on any track, issued before its last event on all tracks, is not complete: every
access after that event follows it in hb. -/
def State.acquireBefore (s : State) (g : Group) (cid : Nat) : Bool :=
  (g.cohorts.any fun c => c.cid != cid && c.prog.acquiring && decide (c.lastIssue < g.allAt)) ||
  s.ops.any fun o => o.gid == g.id && o.isAcq && decide (o.tick < g.allAt)
/-- Whether an access on a track must wait at its issue. -/
def State.accessHeld (s : State) (v : View) (t : Nat) : Bool :=
  s.roundHeld v.g || s.tracksHeld v.g v.c.cid (oneTrack t) || s.acquireBefore v.g v.c.cid
/-- R328: whether a further write on a track must wait at its issue. -/
def Group.full (g : Group) (t : Nat) : Bool := decide (trackWrites ≤ g.count t)

/-- The pair epoch of a group's pair. -/
def State.epoch (s : State) (g : Group) : Nat := (s.pair (pairOf g.core)).ep
/-- The release generation of a group's team on a track (R172). -/
def State.gen (s : State) (g : Group) (t : Nat) : Nat := ((s.team? g.id.team).bind fun x => x.gens[t]?).getD 0

/-! ## Epochs and generations -/

/-- R118: an acquire by a team on a pair; a wrap of the pair epoch empties the way-mode banks and restarts every epoch at 1. -/
def State.acquireOn (s : State) (pair : Nat) (t : TeamId) : State :=
  let p := s.pair pair
  if p.ep + 1 < 2 ^ 32 then
    let s := s.putPair pair { p with ep := p.ep + 1 }
    match s.team? t with
    | none => s
    | some x => s.putTeam { x with ae := p.ep + 1 }
  else
    let s := s.putPair pair { p with ep := 1, l1 := [] }
    { s with teams := s.teams.map fun x => if pairOf x.core == pair then { x with ae := 1 } else x }
/-- An acquire by a group of its team. -/
def State.acquire (s : State) (g : Group) : State := s.acquireOn (pairOf g.core) g.id.team
/-- R172: the team's generations advance on these tracks. -/
def State.advanceGens (s : State) (t : TeamId) (ts : BitVec 16) : State :=
  match s.team? t with
  | none => s
  | some x => s.putTeam { x with gens := x.gens.zipIdx.map fun p => if ts.getLsbD p.2 then p.1 + 1 else p.1 }
/-- R156: the group has an event on all 16 tracks. -/
def State.markAll (s : State) (gid : GroupId) : State :=
  match s.group? gid with
  | none => s
  | some g => s.putGroup { g with allAt := s.tick }
/-- The reading of a full handle, and every other acquire on all tracks (R65, R123). -/
def State.acquireAll (s : State) (g : Group) : State := (s.acquire g).markAll g.id

/-! ## Draining (R166, R167, R389) -/

/-- The place of a group in a round (R167): its quadrant, then its first slot. -/
def Group.roundKey (g : Group) : Nat := g.quad * quadSlots + (g.slots.head?).getD 0
/-- Bytes of a reduction's element (R233). -/
def RedOp.width (r : RedOp) : Nat :=
  match r with
  | .add64 => 8
  | .xadd _ => 8
  | _ => 4
/-- The operation a drained entry becomes. One held for a rendezvous has the generation from before its group's arrival, whose release
orders it before what follows (R167, R174). -/
def State.drainOp (s : State) (g : Group) (e : Entry) (round : Nat) : MemOp :=
  { id := s.nextId, kind := .red e.op, gid := e.gid, cid := e.cid, core := g.core, asid := g.asid, trk := e.trk, round := some round, hold := e.hold
    lanes := lanesFrom (e.parts.map (·.1)), dest := .none, width := e.op.width, org := e.org
    ep := s.epoch g, bypass := true, strm := false, gen := if e.hold.isSome then e.gen else s.gen g e.trk, tick := e.tick, fence := g.allAt
    parts := e.parts.map fun p => ⟨p.1, 0, e.op.width, .glob p.2.1, p.2.2, 0, 0, .waiting, false, false⟩
    lo := 0, hi := 0, pos := 0, priv := none, tok := 0, pc := true }
/-- Bytes of an entry in the save area, which are those it takes in the deferred area (R305, R389). -/
def Entry.size (e : Entry) : Nat := 16 + 12 * e.parts.length
/-- R389: an entry moved to its team's deferred area, which grows by 64 KiB from FREE; none while FREE is short. -/
def State.defer (s : State) (g : Group) (e : Entry) : State × Bool :=
  match s.team? g.id.team, s.ctx? g.asid with
  | some t, some c =>
    let used := (t.deferred.map Entry.size).foldl (· + ·) 0
    let put := fun (s : State) (t : Team) =>
      (s.putTeam { t with deferred := t.deferred ++ [{ e with hold := none }], wants := false }, true)
    if used + e.size ≤ t.deferredRoom then put s t
    else if 1024 ≤ c.free then put (s.putCtx { c with free := c.free - 1024 }) { t with deferredRoom := t.deferredRoom + 65536 }
    else (s.putTeam { t with wants := true }, false)
  | _, _ => (s, false)
/-- The entries of a group that satisfy `pick` drained in program order as part of a round, while PC allows (R328); answers
whether none is left. `fuel` bounds their number. -/
def State.drainGroup (fuel : Nat) (s : State) (gid : GroupId) (pick : Entry → Bool) (round : Nat) : State × Bool :=
  match s.group? gid with
  | none => (s, true)
  | some g =>
    match g.pot.find? pick with
    | none => (s, true)
    | some e =>
      match fuel with
      | 0 => (s, false)
      | k + 1 =>
        if ((s.grid? gid.team.grid).map Grid.relaunch).getD false then
          let r := s.defer g e
          if r.2 then (r.1.putGroup { g with pot := g.pot.eraseP pick }).drainGroup k gid pick round else r
        else if g.full e.trk then (s, false)
        else
          let s' := s.putGroup { (g.up e.trk) with pot := g.pot.eraseP pick }
          State.drainGroup k { s' with ops := s'.ops ++ [s.drainOp g e round], nextId := s'.nextId + 1 } gid pick round
/-- Whether a drained entry of a group is on its way. -/
def State.draining (s : State) (gid : GroupId) (ts : BitVec 16) : Bool :=
  s.ops.any fun o => o.gid == gid && ts.getLsbD o.trk && match o.kind with
    | .red _ => true
    | _ => false
/-- A group round (R167): the group's own entries on these tracks that no rendezvous holds; the rest of a round that PC has
held back follows once its first part is acknowledged. DEDUCED (log entry 150): a reduction stands in the order where it is drained, so
a release leaves entries on other tracks where they are, also those placed before an event on all tracks. -/
def State.groupRound (s : State) (g : Group) (ts : BitVec 16) : State × Bool :=
  let pick := fun (e : Entry) => e.hold.isNone && ts.getLsbD e.trk
  if g.pot.any pick then
    if s.draining g.id ts then (s, false)
    else
      let r := s.drainGroup g.pot.length g.id pick s.nextRound
      ({ r.1 with nextRound := s.nextRound + 1 }, r.2)
  else (s, true)

/-! ## Releases and acquires as instructions (R123, R159) -/

/-- Whether a load of the group on these tracks has not taken its value (R159). -/
def State.loadsOut (s : State) (gid : GroupId) (ts : BitVec 16) : Bool :=
  s.ops.any fun o => o.gid == gid && ts.getLsbD o.trk && o.kind.isRead && o.parts.any fun p => p.st != .done
/-- Whether PC of every one of these tracks is 0. -/
def Group.quiet (g : Group) (ts : BitVec 16) : Bool := (List.range 16).all fun t => !ts.getLsbD t || g.count t == 0
/-- The state with what the executing cohort has done of its instruction. -/
def State.setProg (s : State) (v : View) (p : Prog) : State :=
  match s.group? v.g.id with
  | none => s
  | some g => s.putGroup (g.hold v.c.cid p)
/-- R300: whether what a cohort waits in is one of the waiting instructions that block its group. -/
def Prog.blocks (p : Prog) : Bool :=
  match p with
  | .phase _ _ _ _ => true
  | .sleep _ _ => true
  | .woken _ _ => true
  | .latch => true
  | .fifo _ _ _ _ _ _ => true
  | _ => false
/-- Whether entries of the group that a rendezvous holds stand on these tracks, in the stockpot or on their way (R167). -/
def State.heldOn (s : State) (gid : GroupId) (ts : BitVec 16) : Bool :=
  (match s.group? gid with
   | none => false
   | some g => g.pot.any fun e => e.hold.isSome && ts.getLsbD e.trk) ||
  s.ops.any fun o => o.gid == gid && o.hold.isSome && ts.getLsbD o.trk
/-- The step of the group's last event on all tracks before a cohort's instruction issued. -/
def View.fence (v : View) : Nat := min v.g.allAt v.c.lastIssue
/-- R156, R162: whether an access issued before step `fence` is not performed, a write not acknowledged or a read without its value,
or a release issued before it not complete: hb orders it before a release issued after that step, on whatever track. -/
def State.earlierOut (s : State) (g : Group) (cid fence : Nat) : Bool :=
  (g.cohorts.any fun c => c.cid != cid && c.prog.releasing && decide (c.lastIssue < fence)) ||
  s.ops.any fun o => o.gid == g.id && decide (o.tick < fence) && (o.pc || (o.kind.isRead && o.parts.any fun p => p.st != .done))
/-- A release on these tracks carried as far as it goes now: it begins when no other cohort holds a track, drains a group round,
and is complete when the entries are acknowledged, PC is 0 and every load has its value, and so is every access that an event on all
tracks orders before it (R156); `own` lets it complete before entries that a rendezvous holds. -/
def State.tryRelease (s : State) (v : View) (ts : BitVec 16) (own : Bool) : State × Bool :=
  if !v.c.prog.releasing && s.tracksHeld v.g v.c.cid ts then (s, false)
  else
    let s := s.setProg v (.release ts)
    match s.group? v.g.id with
    | none => (s, false)
    | some g =>
      let r := s.groupRound g ts
      match r.1.group? v.g.id with
      | none => (r.1, false)
      | some g => (r.1, r.2 && (own || !r.1.heldOn g.id ts) && g.quiet ts && !r.1.loadsOut g.id ts &&
          !r.1.earlierOut g v.c.cid v.fence)
/-- A meaning that takes effect once a release on these tracks is complete; generations advance with it (R172). Where it still waits
then, the release stands and holds no track any more (R270, R295). -/
def afterRelease (s : State) (v : View) (ts : BitVec 16) (go : State → Except Stop State) : Except Stop State :=
  if v.c.prog == .released then go (s.advanceGens v.g.id.team ts)
  else
    let r := s.tryRelease v ts false
    if !r.2 then .ok r.1
    else
      let s := r.1.advanceGens v.g.id.team ts
      match go s with
      | .error .wait => .ok (s.setProg v .released)
      | x => x

/-! ## New operations -/

/-- The state with a new memory operation. -/
def State.addOp (s : State) (o : MemOp) : State := { s with ops := s.ops ++ [{ o with id := s.nextId }], nextId := s.nextId + 1 }
/-- An operation of the executing cohort before its parts are known. -/
def State.blankOp (s : State) (v : View) (kind : OpKind) (trk width : Nat) (lanes : Lanes) : MemOp :=
  { id := 0, kind := kind, gid := v.g.id, cid := v.c.cid, core := v.g.core, asid := v.g.asid, trk := trk, round := none, hold := none
    lanes := lanes, dest := .none, width := width, org := v.c.origin v.iss.w0 v.iss.w1
    ep := s.epoch v.g, bypass := false, strm := false, gen := s.gen v.g trk, tick := s.tick, fence := v.g.allAt
    parts := [], lo := 0, hi := 0, pos := 0, priv := none, tok := 0, pc := false }

end Sys2Proof.Machine
end

