-- ==== Sys2Proof/Machine/LoadStore.lean ====
section
/-! DEFINITION. Machine/LoadStore.lean: the memory operand (10_memory_sync R225, R226), its places in the four spaces
(05_memory R107 to R110), the checks made at issue (20_faults_memory R361), and plain loads, stores, acquire and release
forms (R228 to R230). -/

namespace Sys2Proof

open Machine

/-- The track of a memory instruction. -/
def ML.track (f : ML) : Nat := f.trk.toNat
/-- R75: the offset of most ML forms. -/
def ML.offset (f : ML) : W64 := f.off.signExtend 64
/-- PSIZE, PBASE, CSIZE and CBASE of a launch record (R289). -/
def LaunchWords.psize (q : LaunchWords) : Nat := bitsOf q.q4.toNat 0 32
def LaunchWords.pbase (q : LaunchWords) : Nat := bitsOf q.q3.toNat 0 56
def LaunchWords.csize (q : LaunchWords) : Nat := bitsOf q.q4.toNat 32 32
def LaunchWords.cbase (q : LaunchWords) : Nat := bitsOf q.q5.toNat 0 56
/-- Groups per team (R289). -/
def LaunchWords.groups (q : LaunchWords) : Nat := bitsOf q.q1.toNat 25 7 + 1

end Sys2Proof

namespace Sys2Proof.Machine

/-! ## Operands (R225, R226) -/

/-- The one-word form as the two-word form without index and offset (R226). -/
def msAsMl (f : MS) : ML := ⟨f.t, f.a, f.ea, f.trk, f.sp, f.cp, f.p, 0x70#7, 0, 0, 0⟩

/-- Whether a code is a special operand that differs between the threads of a cohort. -/
def perLane (v : View) (c : Code) : Bool :=
  match opd c with
  | .sp n => !v.helping && (n == 1 || n == 2 || n == 7)
  | _ => false
/-- R225: whether the address is one for the cohort; `x` when X is an index. -/
def View.uniformAddr (v : View) (f : ML) (x : Bool) : Bool :=
  (match opd f.a with | .v _ => false | _ => !perLane v f.a) &&
  (!x || (match opd f.x with | .v _ => v.tag f.x == .u | _ => !perLane v f.x))
/-- R59: whether every operand of an address is tagged U; a v code names a pair. -/
def View.allU (v : View) (f : ML) : Bool :=
  v.tag f.x == .u && v.tag f.a == .u && match opd f.a with
    | .v r => v.tag (BitVec.ofNat 7 (r + 1)) == .u
    | _ => true
/-- R75: the index as 64 bits: a v code's element sign-extended, an s code as it stands. DEDUCED (log entry 158): an x, m, special or inline
code is zero-extended, as R176 reads it. -/
def View.index (v : View) (c : Code) (i : Nat) : W64 :=
  match opd c with
  | .v r => (v.elem r i).signExtend 64
  | _ => v.r64 c i
/-- R226: the address of home lane `i` with offset `off`; `x` when X is an index. -/
def View.addr (v : View) (f : ML) (x : Bool) (off : W64) (i : Nat) : Nat :=
  (v.rPair f.a i + (if x then v.index f.x i <<< f.sc.toNat else 0) + off).toNat

/-- R349: an address code: a v code names an even pair. -/
def View.addrOk (v : View) (c : Code) : Bool :=
  match opd c with
  | .v r => r % 2 == 0 && v.vOk r 2
  | .x _ => v.helping
  | _ => true
/-- Registers an address code reads. -/
def addrArg (f : ML) : Arg := ⟨f.a, match opd f.a with | .v _ => 2 | _ => 1, f.ea == 1, 1⟩
/-- The 32-bit registers of a value of `n` bytes (R52). -/
def regsOf (n : Nat) : Nat := if n = 16 then 4 else if n = 8 then 2 else 1
/-- R349, R52: T names a register block of a value of `n` bytes, a v code or an s code under a uniform address. -/
def View.dataOk (v : View) (f : ML) (n : Nat) (x : Bool) : Bool :=
  match opd f.t with
  | .v r => r % regsOf n == 0 && v.vOk r (regsOf n)
  | .s _ => v.uniformAddr f x && n != 16
  | _ => false
/-- T of a form that only reads it. -/
def View.storeOk (v : View) (f : ML) (n : Nat) (x : Bool) : Bool :=
  match opd f.t with
  | .v _ => v.dataOk f n x
  | .s _ => v.dataOk f n x
  | .x _ => v.helping
  | _ => true

/-- R225: the lanes an access is performed for: once, as the cohort's lowest thread, for an s-code T. -/
def View.accessLanes (v : View) (f : ML) : List Nat :=
  if isS f.t then [v.lane0] else v.selected f.p
/-- T as `n` bytes in home lane `i`. -/
def View.data (v : View) (c : Code) (n i : Nat) : Nat :=
  let w := match opd c with
    | .v r => (List.range (regsOf n)).foldr (fun j acc => (v.elem (r + j) i).toNat + 2 ^ 32 * acc) 0
    | _ => (v.r64 c i).toNat
  w % 256 ^ n

/-! ## Places (R107 to R109) -/

/-- The launch record of a group's grid. -/
def State.launchOf (s : State) (g : Group) : LaunchWords :=
  ((s.grid? g.id.team.grid).map (·.q)).getD ⟨0, 0, 0, 0, 0, 0, 0, 0⟩

/-- R109: the global address of private byte `o` of home lane `i`. -/
def privateVa (q : LaunchWords) (g : Group) (i o : Nat) : Nat :=
  (q.pbase + (g.id.team.team * q.groups + g.id.grp) * g.width * q.psize + o / 4 * (4 * g.width) + i * 4 + o % 4) % 2 ^ 56
/-- The physical bank of a scratch offset (R108, R406). -/
def State.bankOf (s : State) (t : TeamId) (off : Nat) : Nat :=
  ((s.team? t).bind fun x => x.banks[off / bankBytes]?).getD 0
/-- A byte string of `n` bytes cut into pieces of `k`. -/
def cuts (n k : Nat) : List (Nat × Nat) := (List.range (n / k)).map fun j => (j * k, k)
/-- The pieces of `n` bytes at address `ea` of space `sp` for home lane `i`: offset, length, place; each is
single-copy atomic (R155), the two words of an aligned 8 bytes of private space together (`MemOp.mates`). -/
def State.pieces (s : State) (g : Group) (sp i ea n : Nat) : List (Nat × Nat × Loc) :=
  let q := s.launchOf g
  match sp with
  | 1 => (cuts n (min n 8)).map fun c =>
      let o := ea + c.1
      (c.1, c.2, .bank (s.bankOf g.id.team o) (o % bankBytes))
  | 2 =>
    let k := if ea % min n 16 = 0 && q.pbase % 4 = 0 then min n 4 else 1
    (cuts n k).map fun c => (c.1, c.2, .glob (privateVa q g i (ea % 2 ^ 32 + c.1)))
  | _ =>
    let va := if sp = 3 then q.cbase + ea % 2 ^ 32 else ea
    let k := if va % min n 16 = 0 then min n 8 else 1
    (cuts n k).map fun c => (c.1, c.2, .glob ((va + c.1) % 2 ^ 56))

/-- R361: what is wrong with the address of one thread, as code and DETAIL. -/
def State.placeFault (s : State) (g : Group) (sp ea n : Nat) (aligned : Bool) : Option (Nat × Nat) :=
  let q := s.launchOf g
  let bad : Option (Nat × Nat) :=
    match sp with
    | 1 => if bankBytes * g.banks < ea + n then some (codeXLATE, 4) else none
    | 2 => if q.psize < ea % 2 ^ 32 + n then some (codeXLATE, 5) else none
    | 3 => if q.csize < ea % 2 ^ 32 + n then some (codeXLATE, 6) else none
    | _ => if 2 ^ 56 < ea + n then some (codeXLATE, 3) else none
  match bad with
  | some e => some e
  | none => if aligned && ea % min n 16 != 0 then some (codeALIGN, 1) else none
/-- R361 for every thread: the lowest that fails. -/
def State.placesOk (s : State) (g : Group) (sp n : Nat) (aligned : Bool) (addrs : List (Nat × Nat)) : List Late :=
  match addrs.findSome? fun a => (s.placeFault g sp a.2 n aligned).map fun e => (e, a.2) with
  | some (e, ea) => [⟨false, e.1, e.2, ea % 2 ^ 56⟩]
  | none => []

/-! ## Parts -/

/-- The bytes `off` to `off + n` of a number. -/
def slice (d off n : Nat) : Nat := d / 256 ^ off % 256 ^ n
/-- The parts of an access: for each lane its address and the number it writes. -/
def State.partsFor (s : State) (g : Group) (sp n : Nat) (l : List (Nat × Nat × Nat)) : List Part :=
  l.flatMap fun x => (s.pieces g sp x.1 x.2.1 n).map fun c =>
    ⟨x.1, c.1, c.2.1, c.2.2, slice x.2.2 c.1 c.2.1, 0, 0, .waiting, false, false⟩
/-- A load's parts that hit the L1 take their bytes at issue (R117, R118, R110); the two words of an aligned 8 bytes of private
space only where one step filled both (R155). -/
def State.hitParts (s : State) (g : Group) (trk : Nat) (const : Bool) (parts : List Part) : List Part :=
  let hit : Part → Option (Nat × Nat) := fun p =>
    match p.loc with
    | .bank _ _ => none
    | .glob va =>
      if s.mustBypass g.id g.asid va then none else (s.l1Hit g trk const g.asid va).map fun (x : L1Sector) => (x.data / 256 ^ (va % 64), x.tick)
  let mate := fun (p q : Part) => p.n == 4 && q.n == 4 && q.lane == p.lane && q.off / 8 == p.off / 8
  parts.map fun p =>
    match hit p with
    | none => p
    | some x =>
      if parts.all fun q => !mate p q || (hit q).map (·.2) == some x.2 then { p with st := .done, got := x.1 % 256 ^ p.n } else p
/-- The lines of the parts as the most recently used of the L1. -/
def State.touchL1 (s : State) (g : Group) (parts : List Part) : State :=
  parts.foldl (fun s p =>
    match p.loc with
    | .bank _ _ => s
    | .glob va => if p.st == .done then s.putPair (pairOf g.core) ((s.pair (pairOf g.core)).touch g.asid (va / lineBytes)) else s) s
/-- The sectors of the parts dropped from the pair's L1. DESIGN CHOICE (log entry 128): an access that makes no lookup and no fill
also leaves no older copy behind it. -/
def State.dropParts (s : State) (g : Group) (parts : List Part) : State :=
  parts.foldl (fun s p =>
    match p.loc with
    | .bank _ _ => s
    | .glob va => s.dropL1 (pairOf g.core) g.asid va) s
/-- The bytes of a store's parts in the pair's L1 (R117). -/
def State.storeParts (s : State) (g : Group) (trk : Nat) (parts : List Part) : State :=
  parts.foldl (fun s p =>
    match p.loc with
    | .bank _ _ => s
    | .glob va => s.storeL1 g trk g.asid va p.n p.val) s

/-! ## Destinations of loads (R61, R64) -/

/-- Where the values of a T code go. -/
def View.destOf (v : View) (t : Code) (n : Nat) (bcast : Bool) : Dest :=
  match opd t with
  | .v r => if v.hosted then .lend v.c.cid r (regsOf n) else .v r (regsOf n) bcast
  | .s r => .s r
  | _ => .none
/-- The group with a destination empty, tagged as its value will be (R56, R59). -/
def Group.emptyDest (g : Group) (d : Dest) : Group :=
  match d with
  | .v r n bcast => (List.range n).foldl (fun g j => g.emptyV (r + j) (if bcast then .u else .g)) g
  | .s r => g.emptyS r
  | .lend cid r n =>
    match g.cohort? cid with
    | none => g
    | some c =>
      match c.helper with
      | none => g
      | some h =>
        let lend : List Lend := h.lend.zipIdx.map fun x =>
          if decide (r ≤ g.lend0 + x.2) && decide (g.lend0 + x.2 < r + n) then { x.1 with full := false, tag := .g, written := true, bad := false }
          else x.1
        let h' : Helper := { h with lend := lend }
        g.putCohort { c with helper := some h' }
  | _ => g

/-! ## Loads (R228, R230) -/

/-- Checks of a load of `n` bytes. -/
def gateLoad (f : ML) (n : Nat) (aligned : Bool) (s : State) (v : View) : Gate :=
  let aligned := aligned || f.sp == 1
  { chk := [(v.dataOk f n true, 1), (v.addrOk f.a, 2), (v.srcOk f.x, 5)]
    src := [addrArg f, arg f.x f.ex 4], dst := [(f.t, regsOf n)], masks := if isS f.t then [] else [f.p.toNat], vals := []
    late := s.placesOk v.g f.sp.toNat n aligned ((v.accessLanes f).map fun i => (i, v.addr f true f.offset i))
    helps := true, unit := 0 }
/-- A load of `n` bytes issues (R61, R117): its destination becomes empty, L1 hits have their values. DEDUCED (log entry 156): a load of private
space whose address is uniform is a broadcast load (R59), though each thread reads a place of its own. DESIGN CHOICE (log entry 163): an
`ld.acq` with no thread selected performs no acquire. -/
def goLoad (f : ML) (words n : Nat) (signed acq : Bool) (s : State) (v : View) : Except Stop State :=
  if s.accessHeld v f.track then .error .wait
  else
    let lanes := v.accessLanes f
    if lanes.isEmpty then .ok (s.pass v words)
    else
      let const := f.sp == 3
      let bypass := f.cp == 2 || acq
      let parts := s.partsFor v.g f.sp.toNat n (lanes.map fun i => (i, v.addr f true f.offset i, 0))
      let parts := if bypass || f.sp == 1 then parts else s.hitParts v.g f.track const parts
      let bcast := v.allU f && v.whole && f.p == 0
      let dest := v.destOf f.t n bcast
      let kind : OpKind := if const then .const signed else .load signed acq
      let o := { s.blankOp v kind f.track n (lanesFrom lanes) with
        dest := dest, bypass := bypass, strm := f.cp == 1, parts := parts }
      let s := if bypass then s.dropParts v.g parts else s.touchL1 v.g parts
      let s := s.putGroup (v.g.emptyDest dest)
      .ok ((s.addOp o).pass v words)
def loadMs (f : MS) (n : Nat) (signed : Bool) (s : State) : Out :=
  runFull f.trk.toNat (gateLoad (msAsMl f) n false) (goLoad (msAsMl f) 1 n signed false) s
def loadMl (f : ML) (n : Nat) (signed : Bool) (s : State) : Out :=
  runFull f.track (gateLoad f n false) (goLoad f 2 n signed false) s
def execLdN8Ms (f : MS) (s : State) : Out := loadMs f 1 false s
def execLdN8Ml (f : ML) (s : State) : Out := loadMl f 1 false s
def execLdI8Ms (f : MS) (s : State) : Out := loadMs f 1 true s
def execLdI8Ml (f : ML) (s : State) : Out := loadMl f 1 true s
def execLdN16Ms (f : MS) (s : State) : Out := loadMs f 2 false s
def execLdN16Ml (f : ML) (s : State) : Out := loadMl f 2 false s
def execLdI16Ms (f : MS) (s : State) : Out := loadMs f 2 true s
def execLdI16Ml (f : ML) (s : State) : Out := loadMl f 2 true s
def execLdB32Ms (f : MS) (s : State) : Out := loadMs f 4 false s
def execLdB32Ml (f : ML) (s : State) : Out := loadMl f 4 false s
def execLdB64Ms (f : MS) (s : State) : Out := loadMs f 8 false s
def execLdB64Ml (f : ML) (s : State) : Out := loadMl f 8 false s
def execLdB128Ms (f : MS) (s : State) : Out := loadMs f 16 false s
def execLdB128Ml (f : ML) (s : State) : Out := loadMl f 16 false s

def acqMs (f : MS) (n : Nat) (s : State) : Out :=
  runFull f.trk.toNat (gateLoad (msAsMl f) n true) (goLoad (msAsMl f) 1 n false true) s
def acqMl (f : ML) (n : Nat) (s : State) : Out :=
  runFull f.track (gateLoad f n true) (goLoad f 2 n false true) s
def execLdAcqB32Ms (f : MS) (s : State) : Out := acqMs f 4 s
def execLdAcqB32Ml (f : ML) (s : State) : Out := acqMl f 4 s
def execLdAcqB64Ms (f : MS) (s : State) : Out := acqMs f 8 s
def execLdAcqB64Ml (f : ML) (s : State) : Out := acqMl f 8 s

/-! ## Stores (R228, R229, R230) -/

/-- Checks of a store of `n` bytes. -/
def gateStore (f : ML) (n : Nat) (aligned : Bool) (s : State) (v : View) : Gate :=
  let aligned := aligned || f.sp == 1
  { chk := [(v.storeOk f n true, 1), (v.addrOk f.a, 2), (v.srcOk f.x, 5)]
    src := [⟨f.t, regsOf n, false, 0⟩, addrArg f, arg f.x f.ex 4], dst := []
    masks := if isS f.t then [] else [f.p.toNat], vals := []
    late := s.placesOk v.g f.sp.toNat n aligned ((v.accessLanes f).map fun i => (i, v.addr f true f.offset i))
    helps := true, unit := 0 }
/-- A store of `n` bytes issues: one count on its track (R229), its bytes in the pair's L1. -/
def issueStore (f : ML) (words n : Nat) (s : State) (v : View) : State :=
  let lanes := v.accessLanes f
  if lanes.isEmpty then s.pass v words
  else
    let parts := s.partsFor v.g f.sp.toNat n (lanes.map fun i => (i, v.addr f true f.offset i, v.data f.t n i))
    let o := { s.blankOp v .store f.track n (lanesFrom lanes) with parts := parts, pc := true, strm := f.cp == 1 }
    let s := s.storeParts v.g f.track parts
    match s.group? v.g.id with
    | none => s
    | some g => ((s.putGroup (g.up f.track)).addOp o).pass v words
def goStore (f : ML) (words n : Nat) (s : State) (v : View) : Except Stop State :=
  if s.accessHeld v f.track || v.g.full f.track then .error .wait else .ok (issueStore f words n s v)
def storeMs (f : MS) (n : Nat) (s : State) : Out :=
  runFull f.trk.toNat (gateStore (msAsMl f) n false) (goStore (msAsMl f) 1 n) s
def storeMl (f : ML) (n : Nat) (s : State) : Out := runFull f.track (gateStore f n false) (goStore f 2 n) s
def execStB8Ms (f : MS) (s : State) : Out := storeMs f 1 s
def execStB8Ml (f : ML) (s : State) : Out := storeMl f 1 s
def execStB16Ms (f : MS) (s : State) : Out := storeMs f 2 s
def execStB16Ml (f : ML) (s : State) : Out := storeMl f 2 s
def execStB32Ms (f : MS) (s : State) : Out := storeMs f 4 s
def execStB32Ml (f : ML) (s : State) : Out := storeMl f 4 s
def execStB64Ms (f : MS) (s : State) : Out := storeMs f 8 s
def execStB64Ml (f : ML) (s : State) : Out := storeMl f 8 s
def execStB128Ms (f : MS) (s : State) : Out := storeMs f 16 s
def execStB128Ml (f : ML) (s : State) : Out := storeMl f 16 s

/-- R230: a release on TRK, then the store, whose race tag takes the generation that this release ends (R172). DESIGN CHOICE (log entries
151, 163): T and the address are read when the release is complete, and with no thread selected the release is performed all the same. -/
def goStRel (f : ML) (words n : Nat) (s : State) (v : View) : Except Stop State :=
  if s.roundHeld v.g then .error .wait
  else
    let r := s.tryRelease v (oneTrack f.track) false
    if !r.2 then .ok r.1
    else
      match r.1.view with
      | none => .ok r.1
      | some v => .ok ((issueStore { f with cp := 2 } words n r.1 v).advanceGens v.g.id.team (oneTrack f.track))
def stRelMs (f : MS) (n : Nat) (s : State) : Out :=
  runFull f.trk.toNat (gateStore (msAsMl f) n true) (goStRel (msAsMl f) 1 n) s
def stRelMl (f : ML) (n : Nat) (s : State) : Out := runFull f.track (gateStore f n true) (goStRel f 2 n) s
def execStRelB32Ms (f : MS) (s : State) : Out := stRelMs f 4 s
def execStRelB32Ml (f : ML) (s : State) : Out := stRelMl f 4 s
def execStRelB64Ms (f : MS) (s : State) : Out := stRelMs f 8 s
def execStRelB64Ml (f : ML) (s : State) : Out := stRelMl f 8 s

end Sys2Proof.Machine
end

