-- ==== Sys2Proof/Machine/Atomic.lean ====
section
/-! DEFINITION. Machine/Atomic.lean: returning atomics, reductions through the stockpot, and fences (10_memory_sync R231 to
R236, 07_ordering R166, R167). -/

namespace Sys2Proof.Machine

/-! ## Returning atomics (R231, R232) -/

/-- Whether T of an atomic supplies a value and names no destination. -/
def constT (c : Code) : Bool :=
  match opd c with
  | .sp _ => true
  | .k _ => true
  | _ => false
/-- Checks of an atomic of `n` bytes; under `cas` X is an operand (R226). -/
def gateAtomic (f : ML) (n : Nat) (cas : Bool) (s : State) (v : View) : Gate :=
  let xOk := if cas then
      (match opd f.x with
       | .v r => r % regsOf n == 0 && v.vOk r (regsOf n)
       | .x _ => v.helping
       | _ => true)
    else v.srcOk f.x
  { chk := [(constT f.t || v.dataOk f n (!cas), 1), (v.addrOk f.a, 2), (xOk, 5)]
    src := [⟨f.t, regsOf n, false, 0⟩, addrArg f, ⟨f.x, if cas then regsOf n else 1, f.ex == 1, 4⟩]
    dst := if isS f.t then [(f.t, 1)] else []
    masks := if isS f.t then [] else [f.p.toNat], vals := []
    late := s.placesOk v.g 0 n true ((v.accessLanes f).map fun i => (i, v.addr f (!cas) f.offset i))
    helps := true, unit := 0 }
/-- An atomic issues: its operands are read, its destination becomes empty, its track counts one. -/
def goAtomic (f : ML) (words n : Nat) (a : AtOp) (s : State) (v : View) : Except Stop State :=
  if s.accessHeld v f.track || v.g.full f.track then .error .wait
  else
    let lanes := v.accessLanes f
    let cas := a == .cas
    if lanes.isEmpty then .ok (s.pass v words)
    else
      let parts := (s.partsFor v.g 0 n (lanes.map fun i => (i, v.addr f (!cas) f.offset i, v.data f.t n i))).map fun p =>
        { p with cmp := if cas then v.data f.x n p.lane else 0 }
      let dest : Dest := if constT f.t then .none else v.destOf f.t n false
      let o := { s.blankOp v (.atomic a) f.track n (lanesFrom lanes) with
        dest := dest, bypass := true, parts := parts, pc := true }
      let s := s.dropParts v.g parts
      .ok (((s.putGroup ((v.g.up f.track).emptyDest dest)).addOp o).pass v words)
def atomicMs (f : MS) (n : Nat) (a : AtOp) (s : State) : Out :=
  runFull f.trk.toNat (gateAtomic (msAsMl f) n false) (goAtomic (msAsMl f) 1 n a) s
def atomicMl (f : ML) (n : Nat) (a : AtOp) (s : State) : Out :=
  runFull f.track (gateAtomic f n false) (goAtomic f 2 n a) s
def execAtAddB32Ms (f : MS) (s : State) : Out := atomicMs f 4 .add s
def execAtAddB32Ml (f : ML) (s : State) : Out := atomicMl f 4 .add s
def execAtAddB64Ms (f : MS) (s : State) : Out := atomicMs f 8 .add s
def execAtAddB64Ml (f : ML) (s : State) : Out := atomicMl f 8 .add s
def execAtMinI32Ms (f : MS) (s : State) : Out := atomicMs f 4 .minI s
def execAtMinI32Ml (f : ML) (s : State) : Out := atomicMl f 4 .minI s
def execAtMaxI32Ms (f : MS) (s : State) : Out := atomicMs f 4 .maxI s
def execAtMaxI32Ml (f : ML) (s : State) : Out := atomicMl f 4 .maxI s
def execAtMinN32Ms (f : MS) (s : State) : Out := atomicMs f 4 .minN s
def execAtMinN32Ml (f : ML) (s : State) : Out := atomicMl f 4 .minN s
def execAtMaxN32Ms (f : MS) (s : State) : Out := atomicMs f 4 .maxN s
def execAtMaxN32Ml (f : ML) (s : State) : Out := atomicMl f 4 .maxN s
def execAtAndB32Ms (f : MS) (s : State) : Out := atomicMs f 4 .and s
def execAtAndB32Ml (f : ML) (s : State) : Out := atomicMl f 4 .and s
def execAtOrB32Ms (f : MS) (s : State) : Out := atomicMs f 4 .or s
def execAtOrB32Ml (f : ML) (s : State) : Out := atomicMl f 4 .or s
def execAtXorB32Ms (f : MS) (s : State) : Out := atomicMs f 4 .xor s
def execAtXorB32Ml (f : ML) (s : State) : Out := atomicMl f 4 .xor s
def execAtXchgB32Ms (f : MS) (s : State) : Out := atomicMs f 4 .xchg s
def execAtXchgB32Ml (f : ML) (s : State) : Out := atomicMl f 4 .xchg s
def execAtXchgB64Ms (f : MS) (s : State) : Out := atomicMs f 8 .xchg s
def execAtXchgB64Ml (f : ML) (s : State) : Out := atomicMl f 8 .xchg s
def execAtFaddF32Ms (f : MS) (s : State) : Out := atomicMs f 4 .fadd s
def execAtFaddF32Ml (f : ML) (s : State) : Out := atomicMl f 4 .fadd s
/-- `at.cas`: SC is 0 and X the value compared (R232). -/
def casMl (f : ML) (n : Nat) (s : State) : Out := runFull f.track (gateAtomic f n true) (goAtomic f 2 n .cas) s
def execAtCasB32 (f : ML) (s : State) : Out := casMl f 4 s
def execAtCasB64 (f : ML) (s : State) : Out := casMl f 8 s

/-! ## Reductions (R233, R234) -/

/-- R234: the offset of `red.xadd` and its fraction bits. -/
def xaddOffset (f : ML) : W64 := (f.off.extractLsb' 0 16).signExtend 64
def xaddBits (f : ML) : Nat := (f.off.extractLsb' 16 6).toNat
/-- Checks of a reduction whose operand T has `tn` bytes. -/
def gateRedn (f : ML) (r : RedOp) (off : W64) (tn : Nat) (s : State) (v : View) : Gate :=
  { chk := [(v.storeOk f tn true, 1), (v.addrOk f.a, 2), (v.srcOk f.x, 5)]
    src := [⟨f.t, regsOf tn, false, 0⟩, addrArg f, arg f.x f.ex 4], dst := []
    masks := if isS f.t then [] else [f.p.toNat], vals := []
    late := s.placesOk v.g 0 r.width true ((v.accessLanes f).map fun i => (i, v.addr f true off i))
    helps := true, unit := 0 }
/-- The entries of an instruction, one per beat (R166). DESIGN CHOICE (log entry 116): a beat that writes no thread places none. -/
def State.redEntries (s : State) (f : ML) (r : RedOp) (off : W64) (tn : Nat) (v : View) : List Entry :=
  let lanes := v.accessLanes f
  (List.range (v.g.width / 16)).filterMap fun b =>
    let l := lanes.filter fun i => i / 16 == b
    if l.isEmpty then none
    else some ⟨v.g.id, v.c.cid, v.g.roundKey, v.c.origin v.iss.w0 v.iss.w1, f.track, r,
      l.map fun i => (i, v.addr f true off i, v.data f.t tn i), none, s.tick, 0⟩
/-- The entries an instruction that drains to make room has still to place. -/
def Prog.spilled (p : Prog) : Option (List Entry) :=
  match p with
  | .spill es => some es
  | _ => .none
/-- Entries that the quadrant of a group holds (R167). -/
def State.potUsed (s : State) (g : Group) : Nat :=
  ((s.groups.filter fun x => x.core == g.core && x.quad == g.quad).map fun x => x.pot.length).foldl (· + ·) 0
/-- Entries placed while the quadrant has room (R167), and those left. -/
def State.place (s : State) (v : View) (es : List Entry) : State × List Entry :=
  let n := potEntries - s.potUsed v.g
  match s.group? v.g.id with
  | none => (s, [])
  | some g => (s.putGroup { g with pot := g.pot ++ es.take n }, es.drop n)
/-- R166, R167: entries placed; a quadrant found full first drains the group's own entries that no rendezvous holds, as one
round, or has the instruction wait where it has none. -/
def goRed (f : ML) (words : Nat) (r : RedOp) (off : W64) (tn : Nat) (s : State) (v : View) : Except Stop State :=
  if s.accessHeld v f.track then .error .wait
  else
    let left := v.c.prog.spilled
    let r := match left with
      | some es => (s, es)
      | none => s.place v (s.redEntries f r off tn v)
    if r.2.isEmpty then .ok (r.1.pass v words)
    else
      let s := r.1.setProg v (.spill r.2)
      match s.group? v.g.id with
      | none => .ok s
      | some g =>
        if left.isNone && !(g.pot.any fun e => e.hold.isNone) then .error .wait
        else
          let q := s.groupRound g allTracks
          let p := if q.2 then q.1.place v r.2 else (q.1, r.2)
          if p.2.isEmpty then .ok (p.1.pass v words) else .ok (p.1.setProg v (.spill p.2))
def redMs (f : MS) (r : RedOp) (s : State) : Out :=
  runFull f.trk.toNat (gateRedn (msAsMl f) r 0 r.width) (goRed (msAsMl f) 1 r 0 r.width) s
def redMl (f : ML) (r : RedOp) (s : State) : Out :=
  runFull f.track (gateRedn f r f.offset r.width) (goRed f 2 r f.offset r.width) s
def execRedAddB32Ms (f : MS) (s : State) : Out := redMs f .add32 s
def execRedAddB32Ml (f : ML) (s : State) : Out := redMl f .add32 s
def execRedAddB64Ms (f : MS) (s : State) : Out := redMs f .add64 s
def execRedAddB64Ml (f : ML) (s : State) : Out := redMl f .add64 s
def execRedFaddF32Ms (f : MS) (s : State) : Out := redMs f .fadd s
def execRedFaddF32Ml (f : ML) (s : State) : Out := redMl f .fadd s
def execRedHaddBf16x2Ms (f : MS) (s : State) : Out := redMs f .haddBf s
def execRedHaddBf16x2Ml (f : ML) (s : State) : Out := redMl f .haddBf s
def execRedFmaxF32Ms (f : MS) (s : State) : Out := redMs f .fmax s
def execRedFmaxF32Ml (f : ML) (s : State) : Out := redMl f .fmax s
def execRedFminF32Ms (f : MS) (s : State) : Out := redMs f .fmin s
def execRedFminF32Ml (f : ML) (s : State) : Out := redMl f .fmin s
def execRedMaxI32Ms (f : MS) (s : State) : Out := redMs f .maxI s
def execRedMaxI32Ml (f : ML) (s : State) : Out := redMl f .maxI s
def execRedXadd (f : ML) (s : State) : Out :=
  runFull f.track (gateRedn f (.xadd (xaddBits f)) (xaddOffset f) 4) (goRed f 2 (.xadd (xaddBits f)) (xaddOffset f) 4) s

/-! ## Flush and fences (R235, R236) -/

/-- Checks of a form without operands. -/
def gateBare (helps : Bool) (_s : State) (_v : View) : Gate :=
  { chk := [], src := [], dst := [], masks := [], vals := [], late := [], helps := helps, unit := 0 }
/-- R235: the group's entries on TRK drained and acknowledged. -/
def goFlush (t : Nat) (s : State) (v : View) : Except Stop State :=
  if !v.c.prog.releasing && s.tracksHeld v.g v.c.cid (oneTrack t) then .error .wait
  else
    let r := (s.setProg v (.release (oneTrack t))).groupRound v.g (oneTrack t)
    if r.2 && !r.1.draining v.g.id (oneTrack t) then .ok (r.1.pass v 1) else .ok r.1
def execRedFlush (f : MS) (s : State) : Out := runFull f.trk.toNat (gateBare true) (goFlush f.trk.toNat) s
/-- R236: a release on TRK. -/
def goFenceRel (t : Nat) (s : State) (v : View) : Except Stop State :=
  afterRelease s v (oneTrack t) fun s => .ok (s.pass v 1)
def execFenceRel (f : MS) (s : State) : Out := runFull f.trk.toNat (gateBare true) (goFenceRel f.trk.toNat) s
/-- R236, R123: an acquire on TRK once every earlier load on it has taken its value. -/
def goFenceAcq (t : Nat) (s : State) (v : View) : Except Stop State :=
  if !v.c.prog.acquiring && s.tracksHeld v.g v.c.cid (oneTrack t) then .error .wait
  else if s.loadsOut v.g.id (oneTrack t) then .ok (s.setProg v (.acquire (oneTrack t)))
  else .ok ((s.acquire v.g).pass v 1)
def execFenceAcq (f : MS) (s : State) : Out := runFull f.trk.toNat (gateBare true) (goFenceAcq f.trk.toNat) s
/-- R236, R123: complete when every earlier access on every track has been performed. -/
def goFenceXt (s : State) (v : View) : Except Stop State :=
  if !v.c.prog.acquiring && s.tracksHeld v.g v.c.cid allTracks then .error .wait
  else if s.loadsOut v.g.id allTracks || !v.g.quiet allTracks then .ok (s.setProg v (.acquire allTracks))
  else
    let s := s.advanceGens v.g.id.team allTracks
    match s.group? v.g.id with
    | none => .ok s
    | some g => .ok ((s.putGroup { g with xt := s.tick, allAt := s.tick }).pass v 1)
def execFenceXt (_f : MS) (s : State) : Out := runFull 0 (gateBare true) goFenceXt s

end Sys2Proof.Machine
end

