-- ==== Sys2Proof/Machine/Scalar.lean ====
section
/-! DEFINITION. Machine/Scalar.lean: scalar arithmetic and the mask instructions of class S (08_scalar_control R176 to R182,
R191 to R194). -/

namespace Sys2Proof.Machine

/-! ## Shared forms -/

/-- Checks of `d, a, b` (R176). -/
def gateS2 (f : A3) (v : View) : Gate :=
  { chk := [(v.dDst f.d, 1), (v.uniOk f.a, 2), (v.uniOk f.b, 3)]
    src := [arg f.a f.ea 1, arg f.b f.eb 2], dst := [(f.d, 1)]
    masks := [], vals := [], late := [], helps := false, unit := 1 }
/-- Checks of `d, a`. -/
def gateS1 (d a : Code) (ea : BitVec 1) (v : View) : Gate :=
  { chk := [(v.dDst d, 1), (v.uniOk a, 2)], src := [arg a ea 1], dst := [(d, 1)]
    masks := [], vals := [], late := [], helps := false, unit := 1 }
/-- Checks of `d, a, b, c`. -/
def gateS3 (f : A4) (v : View) : Gate :=
  { chk := [(v.dDst f.d, 1), (v.uniOk f.a, 2), (v.uniOk f.b, 3), (v.uniOk f.c, 4)]
    src := [arg f.a f.ea 1, arg f.b f.eb 2, arg f.c f.ec 3], dst := [(f.d, 1)]
    masks := [], vals := [], late := [], helps := false, unit := 1 }

/-- D := op a b. -/
def sBin (f : A3) (op : W64 → W64 → W64) (s : State) : Out :=
  runLocal 1 (gateS2 f) (fun v => v.writeD v.g f.d (op (v.uni f.a) (v.uni f.b))) s
/-- D := op a. -/
def sUn (f : A3) (op : W64 → W64) (s : State) : Out :=
  runLocal 1 (gateS1 f.d f.a f.ea) (fun v => v.writeD v.g f.d (op (v.uni f.a))) s
/-- D := op a i, i the sign-extended IMM10. -/
def sImm (f : AI) (op : W64 → W64 → W64) (s : State) : Out :=
  runLocal 1 (gateS1 f.d f.a f.ea) (fun v => v.writeD v.g f.d (op (v.uni f.a) (f.imm.signExtend 64))) s

/-- 1 or 0 for a comparison. -/
def truth (b : Bool) : W64 := if b then 1 else 0
/-- Leading zeros of a `w`-bit number. -/
def clz (w n : Nat) : Nat := if n = 0 then w else w - 1 - Nat.log2 n
/-- Set bits among the low `w`. -/
def popc (w n : Nat) : Nat := ((List.range w).filter fun i => bitAt n i).length
/-- A shift count (R83). -/
def count64 (b : W64) : Nat := b.toNat % 64

/-! ## R178 -/

def execSAdd (f : A3) (s : State) : Out := sBin f (fun a b => a + b) s
def execSSub (f : A3) (s : State) : Out := sBin f (fun a b => a - b) s
def execSMul (f : A3) (s : State) : Out := sBin f (fun a b => a * b) s
def execSMulhI (f : A3) (s : State) : Out :=
  sBin f (fun a b => (a.signExtend 128 * b.signExtend 128).extractLsb' 64 64) s
def execSMulhN (f : A3) (s : State) : Out :=
  sBin f (fun a b => (a.setWidth 128 * b.setWidth 128).extractLsb' 64 64) s
def execSDivI (f : A3) (s : State) : Out :=
  sBin f (fun a b => if b = 0 then BitVec.allOnes 64 else a.sdiv b) s
def execSDivN (f : A3) (s : State) : Out :=
  sBin f (fun a b => if b = 0 then BitVec.allOnes 64 else a.udiv b) s
def execSAnd (f : A3) (s : State) : Out := sBin f (fun a b => a &&& b) s
def execSOr (f : A3) (s : State) : Out := sBin f (fun a b => a ||| b) s
def execSXor (f : A3) (s : State) : Out := sBin f (fun a b => a ^^^ b) s
def execSShl (f : A3) (s : State) : Out := sBin f (fun a b => a <<< count64 b) s
def execSShrN (f : A3) (s : State) : Out := sBin f (fun a b => a >>> count64 b) s
def execSShrI (f : A3) (s : State) : Out := sBin f (fun a b => a.sshiftRight (count64 b)) s
def execSMinI (f : A3) (s : State) : Out := sBin f (fun a b => if b.slt a then b else a) s
def execSMaxI (f : A3) (s : State) : Out := sBin f (fun a b => if a.slt b then b else a) s
def execSMinN (f : A3) (s : State) : Out := sBin f (fun a b => if b.ult a then b else a) s
def execSMaxN (f : A3) (s : State) : Out := sBin f (fun a b => if a.ult b then b else a) s
def execSSeq (f : A3) (s : State) : Out := sBin f (fun a b => truth (a == b)) s
def execSSne (f : A3) (s : State) : Out := sBin f (fun a b => truth (a != b)) s
def execSSltI (f : A3) (s : State) : Out := sBin f (fun a b => truth (a.slt b)) s
def execSSltN (f : A3) (s : State) : Out := sBin f (fun a b => truth (a.ult b)) s
def execSSleI (f : A3) (s : State) : Out := sBin f (fun a b => truth (a.sle b)) s
def execSSleN (f : A3) (s : State) : Out := sBin f (fun a b => truth (a.ule b)) s
def execSClz (f : A3) (s : State) : Out := sUn f (fun a => BitVec.ofNat 64 (clz 64 a.toNat)) s
def execSPopc (f : A3) (s : State) : Out := sUn f (fun a => BitVec.ofNat 64 (popc 64 a.toNat)) s
def execSMov (f : A3) (s : State) : Out := sUn f (fun a => a) s

/-! ## R179 -/

/-- Checks of `s.rdlane`: an empty A does not block, and traps only when EA is set (R350). -/
def gateRdlane (f : A3) (v : View) : Gate :=
  { chk := [(v.dDst f.d, 1), (v.vDst f.a, 2), (v.uniOk f.b, 3)]
    src := (if f.ea == 1 || !v.isEmpty f.a 1 then [arg f.a f.ea 1] else []) ++ [arg f.b f.eb 2], dst := [(f.d, 1)]
    masks := [], vals := [], late := [], helps := false, unit := 1 }
/-- R179: the element, 0 for a lane outside the cohort (R351), or a copy deferred until the source is full. -/
def rdlane (f : A3) (v : View) : Group :=
  let k := (v.uni f.b).toNat % 128
  if !(decide (k < v.g.width) && v.c.lanes.getLsbD k) then v.writeD v.g f.d 0
  else if v.isEmpty f.a 1 then
    let g := match opd f.d with
      | .v r => v.g.emptyV r (tagWritten v.g.width v.c.lanes .u)
      | _ => v.g.emptyS (regNo f.d)
    { g with copies := g.copies ++ [⟨f.d, regNo f.a, k, v.c.lanes⟩] }
  else v.writeD v.g f.d ((v.elem (regNo f.a) k).setWidth 64)
def execSRdlane (f : A3) (s : State) : Out := runLocal 1 (gateRdlane f) (rdlane f) s

/-! ## R180 to R182 -/

def execSSel (f : A4) (s : State) : Out :=
  runLocal 2 (gateS3 f) (fun v => v.writeD v.g f.d (if v.uni f.c != 0 then v.uni f.a else v.uni f.b)) s

/-- Checks of `s.addsh`: `d, a, b` in an A4 word. -/
def gateAddsh (f : A4) (v : View) : Gate :=
  { chk := [(v.dDst f.d, 1), (v.uniOk f.a, 2), (v.uniOk f.b, 3)]
    src := [arg f.a f.ea 1, arg f.b f.eb 2], dst := [(f.d, 1)]
    masks := [], vals := [], late := [], helps := false, unit := 1 }
def execSAddsh (f : A4) (s : State) : Out :=
  runLocal 2 (gateAddsh f) (fun v => v.writeD v.g f.d (v.uni f.a + (v.uni f.b <<< (f.imm.toNat % 8)))) s

/-- R180: the bit field IMM16 names. -/
def bfx (a : W64) (imm : Nat) : W64 :=
  let w := if bitsOf imm 6 6 = 0 then 64 else bitsOf imm 6 6
  let x := bitsOf a.toNat (imm % 64) w
  if bitAt imm 12 then BitVec.ofInt 64 (signedOf w x) else BitVec.ofNat 64 x
def execSBfx (f : A4) (s : State) : Out :=
  runLocal 2 (gateS1 f.d f.a f.ea) (fun v => v.writeD v.g f.d (bfx (v.uni f.a) f.imm.toNat)) s

def execSAddi (f : AI) (s : State) : Out := sImm f (fun a i => a + i) s
def execSAndi (f : AI) (s : State) : Out := sImm f (fun a i => a &&& i) s
def execSOri (f : AI) (s : State) : Out := sImm f (fun a i => a ||| i) s
def execSXori (f : AI) (s : State) : Out := sImm f (fun a i => a ^^^ i) s
def execSShli (f : AI) (s : State) : Out := sImm f (fun a i => a <<< count64 i) s
def execSShriN (f : AI) (s : State) : Out := sImm f (fun a i => a >>> count64 i) s
def execSShriI (f : AI) (s : State) : Out := sImm f (fun a i => a.sshiftRight (count64 i)) s

/-- Checks of `s.li`. -/
def gateLi (f : AL) (_v : View) : Gate :=
  { chk := [(isS f.d, 1)], src := [], dst := [(f.d, 1)]
    masks := [], vals := [], late := [], helps := false, unit := 1 }
def execSLi (f : AL) (s : State) : Out :=
  runLocal 2 (gateLi f) (fun v => v.writeD v.g f.d (f.imm.signExtend 64)) s
/-- Checks of `s.lih`, which reads D. -/
def gateLih (f : AL) (_v : View) : Gate :=
  { chk := [(isS f.d, 1)], src := [arg f.d 0 0], dst := [(f.d, 1)]
    masks := [], vals := [], late := [], helps := false, unit := 1 }
def execSLih (f : AL) (s : State) : Out :=
  runLocal 2 (gateLih f) (fun v => v.writeD v.g f.d (f.imm ++ (v.uni f.d).setWidth 32)) s

/-! ## Masks (R191 to R193) and `nop` (R194) -/

/-- Checks of `m.ballot`. -/
def gateBallot (f : A3) (v : View) : Gate :=
  { chk := [(mDst f.d, 1), (v.srcOk f.a, 2)], src := [arg f.a f.ea 1], dst := []
    masks := [], vals := [], late := [], helps := false, unit := 1 }
def execMBallot (f : A3) (s : State) : Out :=
  runLocal 1 (gateBallot f)
    (fun v => v.g.setM (regNo f.d) (lanesFrom (v.lanes.filter fun i => v.r64 f.a i != 0))) s

/-- Checks of the mask operations. -/
def gateMask (f : A3) (v : View) : Gate :=
  { chk := [(mDst f.d, 1), (v.uniOk f.a, 2), (v.uniOk f.b, 3)]
    src := [arg f.a f.ea 1, arg f.b f.eb 2], dst := []
    masks := [], vals := [], late := [], helps := false, unit := 1 }
/-- D := op a b on lane sets. -/
def mBin (f : A3) (op : Lanes → Lanes → Lanes) (s : State) : Out :=
  runLocal 1 (gateMask f) (fun v => v.g.setM (regNo f.d) (op (v.uni f.a) (v.uni f.b))) s
def execMAnd (f : A3) (s : State) : Out := mBin f (fun a b => a &&& b) s
def execMOr (f : A3) (s : State) : Out := mBin f (fun a b => a ||| b) s
def execMAndn (f : A3) (s : State) : Out := mBin f (fun a b => a &&& ~~~b) s
def execMXor (f : A3) (s : State) : Out := mBin f (fun a b => a ^^^ b) s

/-- Checks of `m.cnt`, `m.first` and `m.get`. -/
def gateMget (f : A3) (v : View) : Gate :=
  { chk := [(v.dDst f.d, 1), (isM f.a, 2)], src := [arg f.a f.ea 1], dst := [(f.d, 1)]
    masks := [], vals := [], late := [], helps := false, unit := 1 }
/-- D := op of a mask, of which the instruction sees only the threads of the executing cohort (R24). DEDUCED (log entry 125): R193's bits
width − 1 to 0 of A are those that R24 lets a mask read see. -/
def mGet (f : A3) (op : Nat → Lanes → W64) (s : State) : Out :=
  runLocal 1 (gateMget f) (fun v => v.writeD v.g f.d (op v.g.width (v.mask (regNo f.a) &&& v.c.lanes))) s
def execMCnt (f : A3) (s : State) : Out := mGet f (fun w m => BitVec.ofNat 64 (popc w m.toNat)) s
def execMFirst (f : A3) (s : State) : Out :=
  mGet f (fun w m => match (lanesOf w m).head? with
    | some i => BitVec.ofNat 64 i
    | none => BitVec.allOnes 64) s
def execMGet (f : A3) (s : State) : Out := mGet f (fun _ m => m) s

/-- Checks of `m.set`. -/
def gateMset (f : A3) (_v : View) : Gate :=
  { chk := [(mDst f.d, 1), (isS f.a, 2)], src := [arg f.a f.ea 1], dst := []
    masks := [], vals := [], late := [], helps := false, unit := 1 }
def execMSet (f : A3) (s : State) : Out := runLocal 1 (gateMset f) (fun v => v.g.setM (regNo f.d) (v.uni f.a)) s

/-- The checks of an instruction with no operand. -/
def gateNone (unit : Nat) (_v : View) : Gate :=
  { chk := [], src := [], dst := [], masks := [], vals := [], late := [], helps := false, unit := unit }
def execNop (_f : A3) (s : State) : Out := runLocal 1 (gateNone 1) (fun v => v.g) s

end Sys2Proof.Machine
end

