-- ==== Sys2Proof/Machine/Control.lean ====
section
/-! DEFINITION. Machine/Control.lean: transfers of control, divergence and reconvergence (08_scalar_control R183 to R189,
02_execution R26 to R29). `exit` stands in Sync.lean, after releases. -/

namespace Sys2Proof.Machine

/-- A target: H + 4 × SignExtend(off, 17) (R72). -/
def target (h : Nat) (off : BitVec 17) : Nat := (((h : Int) + 4 * off.toInt) % 2 ^ 56).toNat

/-- The group with a cohort divided among targets: empty parts form no cohort, the first part keeps the cohort's number. -/
def Group.divide (g : Group) (c : Cohort) (parts : List (Lanes × Nat)) : Group :=
  match parts.filter fun p => p.1 != 0 with
  | [] => g
  | p :: rest =>
    let g := g.goto { c with lanes := p.1 } p.2
    let made := rest.zipIdx.map fun q => { c.goto q.1.2 with lanes := q.1.1, cid := g.nextCid + q.2 }
    { g with cohorts := g.cohorts ++ made, nextCid := g.nextCid + rest.length }

/-- The group with a change to every thread of a set. -/
def Group.mapThreads (g : Group) (lanes : List Nat) (h : Thread → Thread) : Group :=
  lanes.foldl (fun g i => g.putThread i (h (g.thread i))) g

/-! ## Branches (R183 to R185) -/

def execBr (f : BR) (s : State) : Out :=
  runMove (gateHelp 1) (fun v => v.g.goto v.c (target v.c.clause f.off)) s
where
  /-- No operand; allowed in helper bodies (R40). -/
  gateHelp (unit : Nat) (v : View) : Gate := { gateNone unit v with helps := true }

/-- Whether `br.z` and `br.nz` read the operand per thread (R184). -/
def perThread (c : Code) : Bool :=
  match opd c with
  | .v _ => true
  | .sp n => n == 1 || n == 2 || n == 7
  | _ => false
/-- Checks of `br.z` and `br.nz`. -/
def gateBrz (f : BR) (v : View) : Gate :=
  { chk := [(v.srcOk f.a, 2)], src := [arg f.a f.ea 1], dst := []
    masks := [], vals := [], late := [], helps := true, unit := 1 }
/-- The branch taken by the threads whose operand is zero, when `z`, or not zero. -/
def brTest (f : BR) (z : Bool) (v : View) : Group :=
  let t := target v.c.clause f.off
  if perThread f.a then
    let yes := lanesFrom (v.lanes.filter fun i => (v.r64 f.a i == 0) == z)
    v.g.divide v.c [(yes, t), (v.c.lanes &&& ~~~yes, v.c.successor)]
  else v.g.goto v.c (if (v.uni f.a == 0) == z then t else v.c.successor)
def execBrZ (f : BR) (s : State) : Out := runMove (gateBrz f) (brTest f true) s
def execBrNz (f : BR) (s : State) : Out := runMove (gateBrz f) (brTest f false) s

/-- Checks of `br.far` (R351). -/
def gateFar (f : AL) (_v : View) : Gate :=
  { chk := [], src := [], dst := [], masks := [], vals := [(f.imm.toNat % 4 == 0, 0x06)], late := []
    helps := false, unit := 1 }
def execBrFar (f : AL) (s : State) : Out :=
  runMove (gateFar f) (fun v => v.g.goto v.c (v.c.clause / 2 ^ 32 * 2 ^ 32 + f.imm.toNat)) s

/-! ## Calls and per-thread jumps (R186, R187) -/

/-- Checks of `call`. -/
def gateCall (f : BR) (v : View) : Gate :=
  { chk := [(v.vDst f.a, 2)], src := [], dst := [(f.a, 1)], masks := [], vals := []
    late := [⟨v.lanes.all fun i => (v.g.thread i).depth != 255, codeMEETSTACK, 3, 0⟩], helps := false, unit := 1 }
def execCall (f : BR) (s : State) : Out :=
  runMove (gateCall f) (fun v =>
    let g := v.writeV v.g (regNo f.a) v.c.lanes (fun _ => BitVec.ofNat 32 v.c.successor) .u
    let g := g.mapThreads v.lanes fun t => { t with depth := t.depth + 1 }
    g.goto v.c (target v.c.clause f.off)) s

/-- Checks of `ret` and `jmp.v`. -/
def gateJmp (f : BR) (ret : Bool) (v : View) : Gate :=
  { chk := [(v.vDst f.a, 2)], src := [arg f.a f.ea 1], dst := [], masks := []
    vals := [(v.lanes.all fun i => (v.r32 .word f.a i).toNat % 4 == 0, 0x12)]
    late := [⟨!ret || v.lanes.all fun i => (v.g.thread i).depth != 0, codeMEETSTACK, 4, 0⟩]
    helps := false, unit := 1 }
/-- The parts of a cohort by a key of its threads, in order of their lowest lane (R29). -/
def partsBy (lanes : List Nat) (key : Nat → Nat × Nat) : List ((Nat × Nat) × Lanes) :=
  lanes.foldl (fun l i => assocSet (key i) (((assoc (key i) l).getD 0) ||| oneLane i) l) []
/-- R187. -/
def jumpThreads (f : BR) (ret : Bool) (v : View) : Group :=
  let g := if ret then v.g.mapThreads v.lanes fun t => { t with depth := t.depth - 1 } else v.g
  let hi := v.c.clause / 2 ^ 32 * 2 ^ 32
  let parts := partsBy v.lanes fun i => (hi + (v.r32 .word f.a i).toNat, (g.thread i).depth)
  g.divide v.c (parts.map fun p => (p.2, p.1.1))
def execRet (f : BR) (s : State) : Out := runMove (gateJmp f true) (jumpThreads f true) s
def execJmpV (f : BR) (s : State) : Out := runMove (gateJmp f false) (jumpThreads f false) s

/-! ## Divergence (R26 to R28, R188, R189) -/

/-- Checks of `split`. DESIGN CHOICE (log entry 126): a special operand or an inline constant is a mask as R176 reads it. -/
def gateSplit (f : SplitF) (v : View) : Gate :=
  { chk := [(v.uniOk f.a, 2)], src := [arg f.a f.ea 1], dst := [], masks := [], vals := []
    late := [⟨v.lanes.all fun i => decide ((v.g.thread i).stack.length < 8), codeMEETSTACK, 1, 0⟩]
    helps := false, unit := 1 }
def execSplit (f : SplitF) (s : State) : Out :=
  runMove (gateSplit f) (fun v =>
    let j := target v.c.clause f.meet
    let taken := v.c.lanes &&& v.uni f.a
    let g := v.g.mapThreads v.lanes fun t => { t with stack := t.meet :: t.stack, meet := ⟨j, t.depth⟩ }
    g.divide v.c [(taken, target v.c.clause f.off), (v.c.lanes &&& ~~~taken, v.c.successor)]) s

def execMeet (f : BR) (s : State) : Out :=
  runLocal 1 (gateNone 1) (fun v =>
    v.g.mapThreads v.lanes fun t => { t with meet := ⟨target v.c.clause f.off, t.depth⟩ }) s

/-- Checks of `join`. -/
def gateJoin (_f : BR) (v : View) : Gate :=
  { chk := [], src := [], dst := [], masks := [], vals := []
    late := [⟨v.lanes.all fun i => (v.g.thread i).meet == ⟨v.c.clause, (v.g.thread i).depth⟩, codeMEETSTACK, 2, 0⟩]
    helps := false, unit := 1 }
/-- R28: the cohort's threads wait; their release is the event JOIN_RELEASE. -/
def execJoin (f : BR) (s : State) : Out :=
  runMove (gateJoin f) (fun v =>
    let g := v.g.mapThreads v.lanes fun t => { t with wait := some ⟨v.c.word, v.c.count, v.c.cls, v.c.yld⟩ }
    g.dropCohort v.c.cid) s

end Sys2Proof.Machine
end

