-- ==== Sys2Proof/Machine/Vector.lean ====
section
/-! DEFINITION. Machine/Vector.lean: class V but for the witness instructions (09_vector R198 to R218). -/

namespace Sys2Proof.Machine

/-! ## Shared forms (R198, R199) -/

/-- Checks of `d, a, b`. -/
def gateV2 (f : A3) (v : View) : Gate :=
  { chk := [(v.vDst f.d, 1), (v.srcOk f.a, 2), (v.srcOk f.b, 3)]
    src := [arg f.a f.ea 1, arg f.b f.eb 2], dst := [(f.d, 1)], masks := [f.p.toNat]
    vals := [], late := [], helps := true, unit := 2 }
/-- Checks of `d, a, b` where D is read as a source. -/
def gateV2d (f : A3) (v : View) : Gate := { gateV2 f v with src := [arg f.a f.ea 1, arg f.b f.eb 2, arg f.d 0 0] }
/-- Checks of `d, a`. -/
def gateV1 (f : A3) (v : View) : Gate :=
  { chk := [(v.vDst f.d, 1), (v.srcOk f.a, 2)], src := [arg f.a f.ea 1], dst := [(f.d, 1)], masks := [f.p.toNat]
    vals := [], late := [], helps := true, unit := 2 }
/-- Checks of an A4 form whose sources are the first `n` of A, B, C; `vals` its checks of immediates. -/
def gateV4 (f : A4) (n : Nat) (vals : List (Bool × Nat)) (v : View) : Gate :=
  { chk := (v.vDst f.d, 1) :: [(v.srcOk f.a, 2), (v.srcOk f.b, 3), (v.srcOk f.c, 4)].take n
    src := [arg f.a f.ea 1, arg f.b f.eb 2, arg f.c f.ec 3].take n, dst := [(f.d, 1)], masks := [f.p.toNat]
    vals := vals, late := [], helps := true, unit := 2 }

/-- D[i] := op a b. -/
def vBin (f : A3) (tag : Tag → Tag → Tag) (op : W32 → W32 → W32) (s : State) : Out :=
  runLocal 1 (gateV2 f) (fun v => v.writeV v.g (regNo f.d) (v.sel f.p)
    (fun i => op (v.r32 .word f.a i) (v.r32 .word f.b i)) (tag (v.tag f.a) (v.tag f.b))) s
/-- D[i] := op a. -/
def vUn (f : A3) (tag : Tag → Tag) (op : W32 → W32) (s : State) : Out :=
  runLocal 1 (gateV1 f) (fun v => v.writeV v.g (regNo f.d) (v.sel f.p)
    (fun i => op (v.r32 .word f.a i)) (tag (v.tag f.a))) s
/-- D[i] := op a b c of an A4 form with the first `n` operands as sources, read in column `k`. -/
def vFour (f : A4) (n : Nat) (k : Col) (op : W32 → W32 → W32 → W32) (s : State) : Out :=
  runLocal 2 (gateV4 f n []) (fun v => v.writeV v.g (regNo f.d) (v.sel f.p)
    (fun i => op (v.r32 k f.a i) (v.r32 k f.b i) (v.r32 k f.c i))
    (tagAll ([v.tag f.a, v.tag f.b, v.tag f.c].take n))) s

/-- The tag rule of an instruction R58 does not name. -/
def tagTwo (x y : Tag) : Tag := tagAll [x, y]
def tagOne (x : Tag) : Tag := tagAll [x]
/-- A 32-bit shift count (R83). -/
def count32 (b : W32) : Nat := b.toNat % 32
/-- The signed sum clamped to i32 (R83). -/
def addsI (a b : W32) : W32 := intWord (clampInt true 32 (a.toInt + b.toInt))

/-! ## Integer arithmetic (R202, R203) -/

def execVAdd (f : A3) (s : State) : Out := vBin f tagAdd (fun a b => a + b) s
def execVSub (f : A3) (s : State) : Out := vBin f tagSub (fun a b => a - b) s
def execVMul (f : A3) (s : State) : Out := vBin f tagMul (fun a b => a * b) s
def execVMulhI (f : A3) (s : State) : Out :=
  vBin f tagTwo (fun a b => (a.signExtend 64 * b.signExtend 64).extractLsb' 32 32) s
def execVAnd (f : A3) (s : State) : Out := vBin f tagTwo (fun a b => a &&& b) s
def execVOr (f : A3) (s : State) : Out := vBin f tagTwo (fun a b => a ||| b) s
def execVXor (f : A3) (s : State) : Out := vBin f tagTwo (fun a b => a ^^^ b) s
def execVShl (f : A3) (s : State) : Out := vBin f tagShl (fun a b => a <<< count32 b) s
def execVShrN (f : A3) (s : State) : Out := vBin f tagTwo (fun a b => a >>> count32 b) s
def execVShrI (f : A3) (s : State) : Out := vBin f tagTwo (fun a b => a.sshiftRight (count32 b)) s
def execVMinI (f : A3) (s : State) : Out := vBin f tagTwo (fun a b => if b.slt a then b else a) s
def execVMaxI (f : A3) (s : State) : Out := vBin f tagTwo (fun a b => if a.slt b then b else a) s
def execVMinN (f : A3) (s : State) : Out := vBin f tagTwo (fun a b => if b.ult a then b else a) s
def execVMaxN (f : A3) (s : State) : Out := vBin f tagTwo (fun a b => if a.ult b then b else a) s
def execVAddsI (f : A3) (s : State) : Out := vBin f tagTwo addsI s
def execVClz (f : A3) (s : State) : Out := vUn f tagOne (fun a => BitVec.ofNat 32 (clz 32 a.toNat)) s
def execVPopc (f : A3) (s : State) : Out := vUn f tagOne (fun a => BitVec.ofNat 32 (popc 32 a.toNat)) s

def execVMad (f : A4) (s : State) : Out :=
  runLocal 2 (gateV4 f 3 []) (fun v => v.writeV v.g (regNo f.d) (v.sel f.p)
    (fun i => v.r32 .word f.a i * v.r32 .word f.b i + v.r32 .word f.c i)
    (tagAdd (tagMul (v.tag f.a) (v.tag f.b)) (v.tag f.c))) s
def execVAddsh (f : A4) (s : State) : Out :=
  runLocal 2 (gateV4 f 2 []) (fun v => v.writeV v.g (regNo f.d) (v.sel f.p)
    (fun i => v.r32 .word f.a i + (v.r32 .word f.b i <<< (f.imm.toNat % 8)))
    (tagAdd (v.tag f.a) (tagShifted (v.tag f.b)))) s

/-! ## Compares and select (R204, R205) -/

/-- Checks of a compare. -/
def gateCmp (f : A3) (v : View) : Gate := { gateV2 f v with
  chk := [(mDst f.d, 1), (v.srcOk f.a, 2), (v.srcOk f.b, 3)], dst := [] }
/-- Bit i of D := the relation, in the selected threads. -/
def vCmp (f : A3) (rel : W32 → W32 → Bool) (s : State) : Out :=
  runLocal 1 (gateCmp f) (fun v => v.g.setMBits (regNo f.d) (v.sel f.p)
    (lanesFrom ((v.selected f.p).filter fun i => rel (v.r32 .word f.a i) (v.r32 .word f.b i)))) s
def execVCmpEq (f : A3) (s : State) : Out := vCmp f (fun a b => a == b) s
def execVCmpNe (f : A3) (s : State) : Out := vCmp f (fun a b => a != b) s
def execVCmpLtI (f : A3) (s : State) : Out := vCmp f (fun a b => a.slt b) s
def execVCmpLeI (f : A3) (s : State) : Out := vCmp f (fun a b => a.sle b) s
def execVCmpLtN (f : A3) (s : State) : Out := vCmp f (fun a b => a.ult b) s
def execVCmpLeN (f : A3) (s : State) : Out := vCmp f (fun a b => a.ule b) s
def execVFcmpEq (f : A3) (s : State) : Out := vCmp f (fun a b => (fv a).eqv (fv b)) s
def execVFcmpLt (f : A3) (s : State) : Out := vCmp f (fun a b => (fv a).lt (fv b)) s
def execVFcmpLe (f : A3) (s : State) : Out := vCmp f (fun a b => (fv a).lt (fv b) || (fv a).eqv (fv b)) s

/-- Checks of `v.sel`, whose C is a mask. -/
def gateSel (f : A4) (v : View) : Gate := { gateV4 f 3 [] v with
  chk := [(v.vDst f.d, 1), (v.srcOk f.a, 2), (v.srcOk f.b, 3), (isM f.c, 4)] }
def execVSel (f : A4) (s : State) : Out :=
  runLocal 2 (gateSel f) (fun v => v.writeV v.g (regNo f.d) (v.sel f.p)
    (fun i => if (v.mask (regNo f.c)).getLsbD i then v.r32 .word f.a i else v.r32 .word f.b i) .g) s

/-! ## Moves, immediates and tags (R206 to R208) -/

/-- Checks of a form whose only operand is D. -/
def gateV0 (d : Code) (p : BitVec 2) (v : View) : Gate :=
  { chk := [(v.vDst d, 1)], src := [], dst := [(d, 1)], masks := [p.toNat]
    vals := [], late := [], helps := true, unit := 2 }
def execVMovi (f : AI) (s : State) : Out :=
  runLocal 1 (gateV0 f.d 0) (fun v => v.writeV v.g (regNo f.d) v.c.lanes (fun _ => f.imm.signExtend 32) .u) s
def execVLi (f : AL) (s : State) : Out :=
  runLocal 2 (gateV0 f.d f.p) (fun v => v.writeV v.g (regNo f.d) (v.sel f.p) (fun _ => f.imm) .u) s
def execVMov (f : A3) (s : State) : Out := vUn f (fun x => x) (fun a => a) s
def execVGeneral (f : A3) (s : State) : Out := vUn f (fun _ => .g) (fun a => a) s
def execVIota (f : A3) (s : State) : Out :=
  runLocal 1 (gateV2 f) (fun v => v.writeV v.g (regNo f.d) (v.sel f.p)
    (fun i => v.r32 .word f.a i + BitVec.ofNat 32 i * v.r32 .word f.b i) (tagIota (v.tag f.a) (v.tag f.b))) s

/-- Checks of `v.tagof`, which reads no element of A. -/
def gateTagof (f : A3) (v : View) : Gate := { gateV1 f v with
  src := [], late := [⟨!v.helping || !v.foreign f.a 1, codeHELPER, 3, 0⟩] }
def execVTagof (f : A3) (s : State) : Out :=
  runLocal 1 (gateTagof f) (fun v => v.writeV v.g (regNo f.d) (v.sel f.p)
    (fun _ => BitVec.ofNat 32 (v.tag f.a).code) .u) s

/-! ## Moving values between lanes (R209) -/

/-- A as thread `k` of the cohort reads it; 0 for a lane outside the cohort. -/
def View.other (v : View) (a : Code) (k : Nat) : W32 :=
  if decide (k < v.g.width) && v.c.lanes.getLsbD k then v.r32 .word a k else 0
/-- Checks of `v.bcast` and `v.wrlane`, whose B is uniform. DESIGN CHOICE (log entry 162): `lane`, `hlane` and `depth` as B, which are not
uniform, raise OPERAND 3 as a v code not tagged U does. -/
def gateBcast (f : A3) (v : View) : Gate := { gateV2 f v with
  chk := [(v.vDst f.d, 1), (v.srcOk f.a, 2), (v.uniOk f.b, 3)], helps := false }
def execVBcast (f : A3) (s : State) : Out :=
  runLocal 1 (gateBcast f) (fun v => v.writeV v.g (regNo f.d) (v.sel f.p)
    (fun _ => v.other f.a ((v.r32 .word f.b v.lane0).toNat % 128)) .u) s
/-- Checks of `v.shuf`. -/
def gateShuf (f : A3) (v : View) : Gate := { gateV2 f v with helps := false }
def execVShuf (f : A3) (s : State) : Out :=
  runLocal 1 (gateShuf f) (fun v => v.writeV v.g (regNo f.d) (v.sel f.p)
    (fun i => v.other f.a ((v.r32 .word f.b i).toNat % 128)) .g) s
/-- Checks of `v.rot`. -/
def gateRot (f : AI) (v : View) : Gate :=
  { chk := [(v.vDst f.d, 1), (v.srcOk f.a, 2)], src := [arg f.a f.ea 1], dst := [(f.d, 1)], masks := []
    vals := [], late := [], helps := false, unit := 2 }
def execVRot (f : AI) (s : State) : Out :=
  runLocal 1 (gateRot f) (fun v => v.writeV v.g (regNo f.d) v.c.lanes
    (fun i =>
      let j : Int := (v.lanes.idxOf i : Nat) + f.imm.toInt
      v.r32 .word f.a ((v.lanes[(j % (v.lanes.length : Int)).toNat]?).getD 0)) .g) s
def execVWrlane (f : A3) (s : State) : Out :=
  runLocal 1 (gateBcast f) (fun v =>
    let k := (v.r32 .word f.b v.lane0).toNat % 128
    v.writeV v.g (regNo f.d) (if k < 64 then v.sel f.p &&& oneLane k else 0) (fun i => v.r32 .word f.a i) .g) s

/-! ## f32 arithmetic (R210, R211) -/

def execVFadd (f : A3) (s : State) : Out := vBin f tagTwo fadd s
def execVFsub (f : A3) (s : State) : Out := vBin f tagTwo fsub s
def execVFmul (f : A3) (s : State) : Out := vBin f tagTwo fmul s
def execVFma (f : A3) (s : State) : Out :=
  runLocal 1 (gateV2d f) (fun v => v.writeV v.g (regNo f.d) (v.sel f.p)
    (fun i => ffma .rne false (v.r32 .word f.a i) (v.r32 .word f.b i) (v.r32 .word f.d i))
    (tagAll [v.tag f.a, v.tag f.b, v.tag f.d])) s
def execVFma4 (f : A4) (s : State) : Out := vFour f 3 .word (ffma (RM.ofField f.rm.toNat) (f.sat == 1)) s
def execVFmin (f : A3) (s : State) : Out := vBin f tagTwo fmin s
def execVFmax (f : A3) (s : State) : Out := vBin f tagTwo fmax s
def execVFdiv (f : A3) (s : State) : Out := vBin f tagTwo fdiv s
def execVFrcp (f : A3) (s : State) : Out := vUn f tagOne frcp s
def execVFrsq (f : A3) (s : State) : Out := vUn f tagOne frsq s
def execVFsqrt (f : A3) (s : State) : Out := vUn f tagOne fsqrt s
def execVFexp2 (f : A3) (s : State) : Out := vUn f tagOne fexp2 s
def execVFlog2 (f : A3) (s : State) : Out := vUn f tagOne flog2 s
def execVFclamp (f : A4) (s : State) : Out := vFour f 3 .word fclamp s

/-! ## Packed 16-bit arithmetic (R212) -/

/-- The column inline constants take in a packed instruction. -/
def packedCol (ty : BitVec 4) : Col := if ty == 3 then .hf else .bf
def execVHadd (f : A4) (s : State) : Out :=
  vFour f 2 (packedCol f.ty) (packed2 (hadd (packedFmt f.ty.toNat) (RM.ofField f.rm.toNat) (f.sat == 1))) s
def execVHmul (f : A4) (s : State) : Out :=
  vFour f 2 (packedCol f.ty) (packed2 (hmul (packedFmt f.ty.toNat) (RM.ofField f.rm.toNat) (f.sat == 1))) s
def execVHfma (f : A4) (s : State) : Out :=
  vFour f 3 (packedCol f.ty) (packed2 (hfma (packedFmt f.ty.toNat) (RM.ofField f.rm.toNat) (f.sat == 1))) s

/-! ## Conversions (R213 to R216) -/

def execVCvt (f : A4) (s : State) : Out :=
  vFour f 1 .word (fun a _ _ => convert (f.imm.toNat % 16) f.ty.toNat (RM.ofField f.rm.toNat) (f.sat == 1) a) s

def execVCvtSr (f : A4) (s : State) : Out :=
  let w := f.imm.toNat % 32
  runLocal 2 (gateV4 f 2 [(decide (1 ≤ w) && decide (w ≤ 24), 0x06)])
    (fun v => v.writeV v.g (regNo f.d) (v.sel f.p)
      (fun i => convertSr f.ty.toNat (f.sat == 1) (v.r32 .word f.a i) (v.r32 .word f.b i) w)
      (tagTwo (v.tag f.a) (v.tag f.b))) s

/-- Checks of `v.pack`, which reads D (R352). -/
def gatePack (f : A4) (v : View) : Gate :=
  let k := gateV4 f 2 [(decide (2 * tyBits f.ty.toNat * (f.imm.toNat % 8 + 1) ≤ 32), 0x06)] v
  { k with src := k.src ++ [arg f.d 0 0] }
/-- R215: the pair of converted elements placed in the old value of D. -/
def packPair (ty pos : Nat) (rm : RM) (sat : Bool) (a b d : W32) : W32 :=
  let e := tyBits ty
  let lo := (convert 2 ty rm sat a).toNat % 2 ^ e
  let hi := (convert 2 ty rm sat b).toNat % 2 ^ e
  let sh := 2 * e * pos
  let old := d.toNat
  BitVec.ofNat 32 (old % 2 ^ sh + (lo + hi * 2 ^ e) * 2 ^ sh + old / 2 ^ (sh + 2 * e) * 2 ^ (sh + 2 * e))
def execVPack (f : A4) (s : State) : Out :=
  runLocal 2 (gatePack f) (fun v => v.writeV v.g (regNo f.d) (v.sel f.p)
    (fun i => packPair f.ty.toNat (f.imm.toNat % 8) (RM.ofField f.rm.toNat) (f.sat == 1)
      (v.r32 .word f.a i) (v.r32 .word f.b i) (v.r32 .word f.d i))
    (tagAll [v.tag f.a, v.tag f.b, v.tag f.d])) s

/-- R216: one narrow element widened. -/
def unpackElem (ty idx : Nat) (a : W32) : W32 :=
  let x := bitsOf a.toNat (idx * tyBits ty) (tyBits ty)
  match intTy ty with
  | some (sg, b) => intWord (intOf sg b x)
  | none => convert ty 2 .rne false (BitVec.ofNat 32 x)
def execVUnpack (f : A4) (s : State) : Out :=
  let idx := f.imm.toNat % 8
  runLocal 2 (gateV4 f 1 [(decide ((idx + 1) * tyBits f.ty.toNat ≤ 32), 0x06)])
    (fun v => v.writeV v.g (regNo f.d) (v.sel f.p)
      (fun i => unpackElem f.ty.toNat idx (v.r32 .word f.a i)) (tagOne (v.tag f.a))) s

/-! ## Random numbers (R217) -/

/-- Checks of `v.rnd`: A is an s code or `zero`. -/
def gateRnd (f : A3) (v : View) : Gate := { gateV2 f v with
  chk := [(v.vDst f.d, 1), (isS f.a || f.a == 0x70, 2), (v.srcOk f.b, 3)] }
def execVRnd (f : A3) (s : State) : Out :=
  runLocal 1 (gateRnd f) (fun v =>
    let key := if isS f.a then (v.g.sreg (regNo f.a)).val else v.g.randkey
    v.writeV v.g (regNo f.d) (v.sel f.p) (fun i => rand key (v.r32 .word f.b i) i v.g.id.grp) .g) s

/-! ## Lane reductions and scan (R218) -/

/-- Checks of the reductions: cross-lane, one source. -/
def gateRed (f : A4) (v : View) : Gate := { gateV4 f 1 [] v with helps := false }
/-- The leaves of R102. -/
def View.leaves (v : View) (a : Code) : List (Option W32) :=
  (List.range v.g.width).map fun i => if v.c.lanes.getLsbD i then some (v.r32 .word a i) else none
/-- The root of TreeReduce in every selected thread. DEDUCED (log entry 160): a single leaf is the root with its bits, a NaN's included. -/
def vRed (f : A4) (k : RedKind) (s : State) : Out :=
  runLocal 2 (gateRed f) (fun v =>
    let root := (treeReduce (redNode k f.ty.toNat) (v.leaves f.a)).getD 0
    v.writeV v.g (regNo f.d) (v.sel f.p) (fun _ => root) .u) s
def execVRsum (f : A4) (s : State) : Out := vRed f .sum s
def execVRmax (f : A4) (s : State) : Out := vRed f .max s
def execVRmin (f : A4) (s : State) : Out := vRed f .min s
/-- The op of `v.scan`. -/
def scanKind (imm : BitVec 16) : RedKind :=
  match imm.toNat % 4 with
  | 0 => .sum | 1 => .max | _ => .min
/-- R103. DEDUCED (log entry 160): the cohort's first thread receives its own value with its bits, a NaN's included. -/
def execVScan (f : A4) (s : State) : Out :=
  runLocal 2 (gateRed f) (fun v =>
    let out := scanList (redNode (scanKind f.imm) f.ty.toNat) none (v.lanes.map fun i => v.r32 .word f.a i)
    v.writeV v.g (regNo f.d) (v.sel f.p) (fun i => (out[v.lanes.idxOf i]?).getD 0) .g) s

end Sys2Proof.Machine
end

