-- ==== Sys2Proof/Machine/Witness.lean ====
section
/-! DEFINITION. Machine/Witness.lean: the witness reductions and their adjoint (09_vector R219 to R224, 04_arithmetic R104
to R106, 19_faults_isa R360). -/

namespace Sys2Proof.Machine

/-! ## Operators (R104, R105) -/

/-- `a` strictly below `b` in an element type: i32, n32, or f32 with −0 below +0. -/
def termLt (ty : Nat) (a b : W32) : Bool :=
  match ty with
  | 0 => a.slt b
  | 1 => a.ult b
  | _ => (fv a).below (fv b)
/-- Whether a term is an f32 NaN. -/
def termNan (ty : Nat) (a : W32) : Bool := ty == 2 && (fv a).isNan

/-- The term that beats every other under `better`, and its index; the lowest index among equals. -/
def bestTerm (better : W32 → W32 → Bool) (l : List W32) : W32 × Nat :=
  l.zipIdx.foldl (fun acc p => if p.2 = 0 || better p.1 acc.1 then p else acc) (0, 0)
/-- A pair placed before the first pair that comes after it in (value, index) order. -/
def insertTerm (ty : Nat) (p : W32 × Nat) (l : List (W32 × Nat)) : List (W32 × Nat) :=
  match l with
  | [] => [p]
  | q :: rest => if termLt ty p.1 q.1 then p :: q :: rest else q :: insertTerm ty p rest
/-- The median of R104. -/
def medianTerm (ty : Nat) (l : List W32) : W32 × Nat :=
  let sorted := l.zipIdx.foldl (fun acc p => insertTerm ty p acc) []
  (sorted[(l.length - 1) / 2]?).getD (0, 0)
/-- R105. -/
def saturatingSum (ty : Nat) (l : List W32) : W32 × Nat :=
  let r := l.zipIdx.foldl (fun (acc : Int × Nat) p =>
    let exact := acc.1 + intOf (ty == 0) 32 p.1.toNat
    let s := clampInt (ty == 0) 32 exact
    (s, if s != exact && acc.2 == 0 then p.2 + 1 else acc.2)) (0, 0)
  (intWord r.1, r.2)

/-- R104: result and witness byte of operator `op` over the terms of one thread. -/
def witnessOf (op ty : Nat) (terms : List W32) (lo hi : W32) : W32 × Nat :=
  if op = 3 then
    let t := (terms.head?).getD 0
    if termNan ty t || termNan ty lo || termNan ty hi then (nan32, 3)
    else if termLt ty t lo then (lo, 1) else if termLt ty hi t then (hi, 2) else (t, 0)
  else if op = 4 then saturatingSum ty terms
  else
    match terms.zipIdx.find? fun p => termNan ty p.1 with
    | some p => (nan32, p.2)
    | none =>
      match op with
      | 0 => bestTerm (fun a b => termLt ty b a) terms
      | 1 => bestTerm (fun a b => termLt ty a b) terms
      | _ => medianTerm ty terms

/-! ## The reductions (R219, R220) -/

/-- IMM16: n, the witness register, ACC and the stamp. -/
def wN (imm : BitVec 16) : Nat := imm.toNat % 16 + 1
def wReg (imm : BitVec 16) : Nat := bitsOf imm.toNat 4 2
def wAcc (imm : BitVec 16) : Bool := bitAt imm.toNat 6
def wStamp (imm : BitVec 16) : Nat := bitsOf imm.toNat 7 9

/-- A v code that names `n` declared registers. -/
def View.vBlock (v : View) (c : Code) (n : Nat) : Bool :=
  match opd c with
  | .v r => v.vOk r n
  | _ => false

/-- Checks of a witness reduction; `clamp` for `v.wclamp`, which reads B and C and has one term. -/
def gateWred (f : A4) (clamp : Bool) (v : View) : Gate :=
  let n := wN f.imm
  { chk := [(v.vDst f.d, 1), (v.vBlock f.a n, 2)] ++
      (if clamp then [(v.srcOk f.b, 3), (v.srcOk f.c, 4)] else [])
    src := ⟨f.a, if clamp then 1 else n, f.ea == 1, 1⟩ :: (if clamp then [arg f.b f.eb 2, arg f.c f.ec 3] else [])
    dst := [(f.d, 1)], masks := [f.p.toNat]
    vals := [(!clamp || n == 1, 0x06)], late := [], helps := true, unit := 2 }

/-- R220. -/
def witnessReduce (f : A4) (op : Nat) (v : View) : Group :=
  let n := wN f.imm
  let out := fun i => witnessOf op f.ty.toNat ((List.range n).map fun j => v.elem (regNo f.a + j) i)
    (v.r32 .word f.b i) (v.r32 .word f.c i)
  let sel := v.sel f.p
  let bytes : List Byte := (List.range v.g.width).map fun i =>
    if sel.getLsbD i then BitVec.ofNat 8 (out i).2 else 0xFF
  let g := v.writeV v.g (regNo f.d) sel (fun i => (out i).1) .g
  g.putWitness (wReg f.imm) ⟨.live, op, n - 1, f.ty.toNat, wStamp f.imm, bytes, false⟩

def execVWmax (f : A4) (s : State) : Out := runLocal 2 (gateWred f false) (witnessReduce f 0) s
def execVWmin (f : A4) (s : State) : Out := runLocal 2 (gateWred f false) (witnessReduce f 1) s
def execVWmed (f : A4) (s : State) : Out := runLocal 2 (gateWred f false) (witnessReduce f 2) s
def execVWsat (f : A4) (s : State) : Out := runLocal 2 (gateWred f false) (witnessReduce f 4) s
def execVWclamp (f : A4) (s : State) : Out := runLocal 2 (gateWred f true) (witnessReduce f 3) s

/-! ## The adjoint (R222, R106) -/

/-- Whether a witness register may be read: live, not damaged (R360, R385). -/
def wLive (w : Witness) : List Late :=
  [⟨!w.bad, codeUE, 4, 0⟩, ⟨w.st != .empty, codeWSTALE, 1, 0⟩, ⟨w.st != .consumed, codeWSTALE, 2, 0⟩]

/-- Checks of `v.adj`. -/
def gateAdj (f : A4) (v : View) : Gate :=
  let n := wN f.imm
  let w := v.g.witness (wReg f.imm)
  { chk := [(v.vBlock f.d n, 1), (v.srcOk f.a, 2)]
    src := arg f.a f.ea 1 :: (if wAcc f.imm then [⟨f.d, n, false, 0⟩] else []), dst := [(f.d, n)], masks := [f.p.toNat]
    vals := []
    late := wLive w ++ [⟨w.stamp == wStamp f.imm, codeWSTALE, 3, 0⟩, ⟨w.nm1 + 1 == n, codeWSHAPE, 1, 0⟩]
    helps := true, unit := 2 }

/-- R106: the value routed to register j of the window. -/
def adjoint (op byte j : Nat) (dy : W32) : W32 :=
  if byte = 0xFF then 0
  else if op ≤ 2 then (if byte = j then dy else 0)
  else if byte = 0 then dy else 0

/-- R222; a value of −0.0 is no different from +0.0 under its numeric comparison (00_scope R7). DEDUCED (log entry 160): with ACC = 0 the bits of
dy are written as they are, a NaN's included. -/
def adjointWrite (f : A4) (v : View) : Group :=
  let w := v.g.witness (wReg f.imm)
  let val := fun j i => adjoint w.op ((w.bytes[i]?).getD 0xFF).toNat j (v.r32 .word f.a i)
  let acc := wAcc f.imm
  let g := (List.range (wN f.imm)).foldl (fun g j =>
    let r := regNo f.d + j
    if acc then
      let sel := lanesFrom ((v.selected f.p).filter fun i => (val j i).toNat % 2 ^ 31 != 0)
      v.writeV g r sel (fun i => fadd (v.elem r i) (val j i)) .g
    else v.writeV g r (v.sel f.p) (val j) .g) v.g
  if acc then g else g.putWitness (wReg f.imm) { w with st := .consumed }
def execVAdj (f : A4) (s : State) : Out := runLocal 2 (gateAdj f) (adjointWrite f) s

end Sys2Proof.Machine
end

