-- ==== Sys2Proof/Machine/Range.lean ====
section
/-! DEFINITION. Machine/Range.lean: prefetch, `discard` and `fill`, witness images, bank FIFOs (10_memory_sync R237 to R241),
and the cache instructions (12_engines_system R286). -/

namespace Sys2Proof.Machine

/-! ## Prefetch (R237) -/

/-- Checks of `pf`. -/
def gatePf (f : ML) (_s : State) (v : View) : Gate :=
  { chk := [(v.addrOk f.a, 2), (v.srcOk f.x, 5)], src := [addrArg f, arg f.x f.ex 4], dst := [], masks := [f.p.toNat]
    vals := [], late := [], helps := true, unit := 0 }
/-- The line of an address brought into its slice, and into the L1 where CP allows; nothing where it does not translate, may not
be read, holds an error, an engine owns it (R121), or the vault does not let it in now. -/
def State.prefetch (s : State) (v : View) (cp : Nat) (va : Nat) : State :=
  let base := va / lineBytes * lineBytes
  let t := s.canon v.g.asid base
  match (s.ctx? t.1).bind fun c => c.page? t.2.1 with
  | none => s
  | some p =>
    let d := s.reach t.1 t.2.1 lineBytes false 0
    if !descR p.desc || (s.owner? (s.lineKey v.g.asid base)).isSome || (s.errorAt t.1 t.2.1 lineBytes true).isSome || !d.2 then s
    else if cp = 2 || s.mustBypass v.g.id v.g.asid va then d.1
    else
      let s := d.1
      let o := { s.blankOp v (.load false false) 0 64 0 with strm := cp == 1 }
      (sectorsOf base (base + lineBytes)).foldl (fun s a =>
        if s.pairWrite (pairOf v.g.core) v.g.asid a || ((s.pair (pairOf v.g.core)).sector? v.g.asid a).isSome then s
        else s.fillL1 o a) s
def goPf (f : ML) (words : Nat) (s : State) (v : View) : Except Stop State :=
  let vas := (v.selected f.p).filterMap fun i =>
    let ea := v.addr f true f.offset i
    match f.sp with
    | 0 => if ea < 2 ^ 56 then some ea else none
    | 2 => if ea % 2 ^ 32 < (s.launchOf v.g).psize then some (privateVa (s.launchOf v.g) v.g i (ea % 2 ^ 32)) else none
    | 3 => if ea % 2 ^ 32 < (s.launchOf v.g).csize then some (((s.launchOf v.g).cbase + ea % 2 ^ 32) % 2 ^ 56) else none
    | _ => none
  .ok ((vas.foldl (fun s va => s.prefetch v f.cp.toNat va) s).pass v words)
def execPfMs (f : MS) (s : State) : Out := runFull 0 (gatePf (msAsMl f)) (goPf (msAsMl f) 1) s
def execPfMl (f : ML) (s : State) : Out := runFull 0 (gatePf f) (goPf f 2) s

/-! ## `discard` and `fill` (R238, R369) -/

/-- A v code tagged U, or a code of one value. -/
def View.uniAddr (v : View) (c : Code) : Bool :=
  match opd c with
  | .v r => r % 2 == 0 && v.vOk r 2 && v.tag c == .u && v.tag (BitVec.ofNat 7 (r + 1)) == .u
  | .x _ => v.helping
  | .sp n => v.helping || (n != 1 && n != 2 && n != 7)
  | _ => true
/-- The first address of the range and its length (R226). -/
def rangeLo (f : ML) (v : View) : Nat := (v.rPair f.a v.lane0 + f.offset).toNat
def rangeLen (f : ML) (v : View) : Nat := (v.rPair f.x v.lane0).toNat
/-- Checks of `discard` and `fill`. -/
def gateRange (f : ML) (fill : Bool) (s : State) (v : View) : Gate :=
  { chk := (if fill then [(v.uniOk f.t, 1)] else []) ++
      [(v.uniAddr f.a, 2), (match opd f.x with | .v _ => v.uniAddr f.x | .s _ => true | _ => v.uniOk f.x, 5)]
    src := (if fill then [arg f.t 0 0] else []) ++
      [addrArg f, ⟨f.x, match opd f.x with | .v _ => 2 | _ => 1, f.ex == 1, 4⟩]
    dst := [], masks := [], vals := [(decide (rangeLen f v ≤ 2 ^ 32), 0x15)]
    late := if rangeLen f v = 0 then [] else s.placesOk v.g f.sp.toNat (rangeLen f v) false [(v.lane0, rangeLo f v)]
    helps := true, unit := 0 }
/-- The parts of a range of the scratch window: within 512-byte units. -/
def State.bankParts (s : State) (v : View) (lo n pat : Nat) : List Part :=
  (List.range ((lo + n - 1) / lineBytes - lo / lineBytes + 1)).map fun i =>
    let a := max lo ((lo / lineBytes + i) * lineBytes)
    let k := min (lo + n) ((lo / lineBytes + i) * lineBytes + lineBytes) - a
    ⟨v.lane0, 0, k, .bank (s.bankOf v.g.id.team a) (a % bankBytes), patternBytes pat a k, 0, 0, .waiting, false, false⟩
/-- A range operation issues: one count on its track, and its pair's L1 holds none of the range's older bytes (R117). A range of the
scratch window holds no blocks: its bytes are stored. -/
def goRange (f : ML) (kind : OpKind) (s : State) (v : View) : Except Stop State :=
  if s.accessHeld v f.track || v.g.full f.track then .error .wait
  else if rangeLen f v = 0 then .ok (s.pass v 2)
  else
    let lo := rangeLo f v
    let pat := if kind == .fill then (v.uni f.t).toNat % 2 ^ 32 else 0
    let o : MemOp :=
      if f.sp == 1 then
        { s.blankOp v .store f.track 0 v.c.lanes with parts := s.bankParts v lo (rangeLen f v) pat, pc := true }
      else
        let lo := if f.sp == 2 then lo % 2 ^ 32 else lo
        let part : Part := ⟨v.lane0, 0, 0, .glob 0, pat, 0, 0, .waiting, false, false⟩
        let q := s.launchOf v.g
        let o := { s.blankOp v kind f.track 0 v.c.lanes with
          lo := lo, hi := lo + rangeLen f v, parts := [part], pc := true
          priv := if f.sp == 2 then some (privateVa q v.g v.lane0 0, v.g.width) else none }
        o.at_ lo
    let pair := pairOf v.g.core
    let s := if f.sp == 1 then s else s.putPair pair ((s.pair pair).dropRange v.g.asid o.spanLo o.spanHi)
    .ok (((s.putGroup (v.g.up f.track)).addOp o).pass v 2)
def execDiscard (f : ML) (s : State) : Out := runFull f.track (gateRange f false) (goRange f .discard) s
def execFill (f : ML) (s : State) : Out := runFull f.track (gateRange f true) (goRange f .fill) s

/-! ## Witness images (R239, R240, R360) -/

/-- Bytes of an image. -/
def imageBytes (g : Group) : Nat := 16 + g.width
/-- R239: a witness register as an image. -/
def imageOf (g : Group) (w : Witness) : Nat :=
  let head := 1 + w.op % 8 * 2 ^ 2 + w.nm1 % 16 * 2 ^ 5 + w.elem % 16 * 2 ^ 9 + w.stamp % 512 * 2 ^ 13 + g.width % 256 * 2 ^ 32
  head + 2 ^ 128 * w.bytes.foldr (fun b acc => b.toNat + 256 * acc) 0
/-- R239: the register an image holds. -/
def witnessFrom (g : Group) (d : Nat) : Witness :=
  ⟨.live, bitsOf d 2 3, bitsOf d 5 4, bitsOf d 9 4, bitsOf d 13 9,
    (List.range g.width).map fun i => BitVec.ofNat 8 (d / 2 ^ (128 + 8 * i)), false⟩
/-- R360: what is wrong with an image, as the DETAIL of WSHAPE. -/
def imageFault (g : Group) (d : Nat) : Option Nat :=
  if bitsOf d 0 2 != 1 then some 2
  else if bitsOf d 32 8 != g.width then some 3
  else if 5 ≤ bitsOf d 2 3 || (bitsOf d 2 3 == 3 && bitsOf d 5 4 != 0) || 2 < bitsOf d 9 4 then some 4
  else none
/-- The witness register T names. -/
def wOf (f : ML) : Nat := f.t.toNat % 4
/-- Checks of `w.st` and `w.ld`. -/
def gateImage (f : ML) (st : Bool) (s : State) (v : View) : Gate :=
  let x := match opd f.x with | .v r => v.vOk r 1 && v.tag f.x == .u | .x _ => v.helping | _ => !perLane v f.x
  { chk := [(v.uniAddr f.a, 2), (x, 5)], src := [addrArg f, arg f.x f.ex 4], dst := [], masks := [], vals := []
    late := (if st then wLive (v.g.witness (wOf f)) else []) ++
      s.placesOk v.g f.sp.toNat (imageBytes v.g) true [(v.lane0, v.addr f true f.offset v.lane0)]
    helps := true, unit := 0 }
/-- The parts of an image at the cohort's lowest lane. -/
def imageParts (f : ML) (d : Nat) (s : State) (v : View) : List Part :=
  s.partsFor v.g f.sp.toNat (imageBytes v.g) [(v.lane0, v.addr f true f.offset v.lane0, d)]
def goWSt (f : ML) (words : Nat) (s : State) (v : View) : Except Stop State :=
  if s.accessHeld v f.track || v.g.full f.track then .error .wait
  else
    let parts := imageParts f (imageOf v.g (v.g.witness (wOf f))) s v
    let o := { s.blankOp v .unimage f.track (imageBytes v.g) v.c.lanes with parts := parts, pc := true }
    let s := s.storeParts v.g f.track parts
    match s.group? v.g.id with
    | none => .ok s
    | some g => .ok (((s.putGroup (g.up f.track)).addOp o).pass v words)
def execWStMs (f : MS) (s : State) : Out := runFull f.trk.toNat (gateImage (msAsMl f) true) (goWSt (msAsMl f) 1) s
def execWStMl (f : ML) (s : State) : Out := runFull f.track (gateImage f true) (goWSt f 2) s
/-- `w.ld` waits at its instruction until the image is read and checked. -/
def goWLd (f : ML) (s : State) (v : View) : Except Stop State :=
  match v.c.prog with
  | .image _ => .error .wait
  | _ =>
    if s.accessHeld v f.track then .error .wait
    else
      let parts := imageParts f 0 s v
      let parts := if f.cp == 2 || f.sp == 1 then parts else s.hitParts v.g f.track false parts
      let o := { s.blankOp v .image f.track (imageBytes v.g) v.c.lanes with
        dest := .w (wOf f), parts := parts, bypass := f.cp == 2, strm := f.cp == 1 }
      let s := if f.cp == 2 then s.dropParts v.g parts else s.touchL1 v.g parts
      .ok ((s.setProg v (.image s.nextId)).addOp o)
def execWLdMs (f : MS) (s : State) : Out := runFull f.trk.toNat (gateImage (msAsMl f) false) (goWLd (msAsMl f)) s
def execWLdMl (f : ML) (s : State) : Out := runFull f.track (gateImage f false) (goWLd f) s

/-! ## Bank FIFOs (R241, R353) -/

/-- The lanes a FIFO instruction still has to serve. -/
def fifoRest (f : ML) (v : View) : List Nat :=
  match v.c.prog with
  | .fifo _ _ _ _ rest _ => rest
  | _ => v.selected f.p
/-- What a push appends, read at its issue (R62), or a pop has taken so far. -/
def fifoGot (f : ML) (pop : Bool) (v : View) : List (Nat × W32) :=
  match v.c.prog with
  | .fifo _ _ _ _ _ got => got
  | _ => if pop then [] else (v.selected f.p).map fun i => (i, v.elem (regNo f.t) i)
/-- The bank a selected thread names, its address read at issue (R62). -/
def fifoBank (f : ML) (s : State) (v : View) (i : Nat) : Nat :=
  match v.c.prog with
  | .fifo _ _ _ bank _ _ => bank
  | _ => s.bankOf v.g.id.team (v.addr f true f.offset i)
/-- The mode an access issued now will find: that of a switch under way (R119). -/
def CBank.modeNow (b : CBank) : BankMode :=
  match b.switch with
  | some (m, _) => m
  | none => b.mode
/-- Checks of the FIFO instructions: T a v code, every address in one bank, in FIFO mode. -/
def gateFifo (f : ML) (pop : Bool) (s : State) (v : View) : Gate :=
  let lanes := v.selected f.p
  let banks := lanes.map fun i => v.addr f true f.offset i / bankBytes
  let pr := s.pair (pairOf v.g.core)
  let one := banks.all fun b => some b == banks.head?
  let inMode := lanes.all fun i => v.g.banks * bankBytes ≤ v.addr f true f.offset i ||
    (pr.bank (fifoBank f s v i)).modeNow == .fifo
  { chk := [(v.vDst f.t, 1), (v.addrOk f.a, 2), (v.srcOk f.x, 5)]
    src := (if pop then [] else [arg f.t 0 0]) ++ [addrArg f, arg f.x f.ex 4]
    dst := if pop && !v.c.prog.begun then [(f.t, 1)] else [], masks := [f.p.toNat], vals := [(one && inMode, 0x12)]
    late := s.placesOk v.g 1 4 true (lanes.map fun i => (i, v.addr f true f.offset i)), helps := true, unit := 0 }
/-- Appends or takes for as many lanes as the FIFO allows now: the bank after, the lanes left, the values taken. -/
def fifoRun (pop : Bool) (b : CBank) (rest : List Nat) (got : List (Nat × W32)) :
    CBank × List Nat × List (Nat × W32) :=
  match rest with
  | [] => (b, [], got)
  | i :: more =>
    if pop then
      match b.fifo with
      | [] => (b, rest, got)
      | x :: xs => fifoRun pop { b with fifo := xs } more (got ++ [(i, x)])
    else if b.fifo.length < fifoEntries then fifoRun pop { b with fifo := b.fifo ++ [(assoc i got).getD 0] } more got
    else (b, rest, got)
/-- R385: a pop of a damaged FIFO. -/
def CBank.fifoBad (b : CBank) : Bool := !b.bad.isEmpty
def goFifo (f : ML) (words : Nat) (pop : Bool) (s : State) (v : View) : Except Stop State :=
  match fifoRest f v with
  | [] => .ok (s.pass v words)
  | i :: more =>
    let k := pairOf v.g.core
    let n := fifoBank f s v i
    let b := (s.pair k).bank n
    if v.c.prog == .none && b.switch.isSome then .error .wait
    else if pop && b.fifoBad then .error (.fault codeUE 3 (v.addr f true f.offset i))
    else
      let r := fifoRun pop b (i :: more) (fifoGot f pop v)
      let s := s.putPair k ((s.pair k).putBank n r.1)
      let dest : Dest := if v.hosted then .lend v.c.cid (regNo f.t) 1 else .v (regNo f.t) 1 false
      if !r.2.1.isEmpty then
        let g := if pop then v.g.emptyDest dest else v.g
        .ok (s.putGroup (g.hold v.c.cid (.fifo f words pop n r.2.1 r.2.2)))
      else if pop then
        let sel := lanesFrom (r.2.2.map (·.1))
        let g := v.writeV v.g (regNo f.t) sel (fun i => (assoc i r.2.2).getD 0) .g
        let g := if v.hosted then g else g.fillV (regNo f.t)
        .ok ((s.putGroup g).pass v words)
      else .ok (s.pass v words)
def execFifoPushMs (f : MS) (s : State) : Out := runFull 0 (gateFifo (msAsMl f) false) (goFifo (msAsMl f) 1 false) s
def execFifoPushMl (f : ML) (s : State) : Out := runFull 0 (gateFifo f false) (goFifo f 2 false) s
def execFifoPopMs (f : MS) (s : State) : Out := runFull 0 (gateFifo (msAsMl f) true) (goFifo (msAsMl f) 1 true) s
def execFifoPopMl (f : ML) (s : State) : Out := runFull 0 (gateFifo f true) (goFifo f 2 true) s

/-! ## Cache maintenance (R286) -/

/-- Checks of `cache.wb` and `cache.inv`: A uniform, T an s code of at most 2³². -/
def gateCache (f : MS) (s : State) (v : View) : Gate :=
  let ml := msAsMl f
  let len := (v.uni f.t).toNat
  { chk := [(isS f.t, 1), (v.uniAddr f.a, 2)], src := [arg f.t 0 0, addrArg ml], dst := [], masks := []
    vals := [(decide (len ≤ 2 ^ 32), 0x11)]
    late := s.placesOk v.g 0 (max len 1) false [(v.lane0, rangeLo ml v)]
    helps := false, unit := 0 }
/-- They wait for PC[TRK] = 0 and count one until every line is done. -/
def goCache (f : MS) (kind : OpKind) (s : State) (v : View) : Except Stop State :=
  let t := f.trk.toNat
  if s.accessHeld v t || v.g.count t != 0 then .error .wait
  else
    let lo := rangeLo (msAsMl f) v
    let len := (v.uni f.t).toNat
    if len = 0 then .ok (s.pass v 1)
    else
      let part : Part := ⟨v.lane0, 0, 0, .glob lo, 0, 0, 0, .waiting, false, false⟩
      let o := { s.blankOp v kind t 0 v.c.lanes with lo := lo, hi := lo + len, parts := [part], pc := true }
      let o := match kind with
        | .cacheOp false 0 => o.at_ (lo + len)
        | _ => o.at_ lo
      .ok (((s.putGroup (v.g.up t)).addOp o).pass v 1)
def execCacheWb (f : MS) (s : State) : Out := runFull f.trk.toNat (gateCache f) (goCache f (.cacheOp false f.cp.toNat)) s
def execCacheInv (f : MS) (s : State) : Out := runFull f.trk.toNat (gateCache f) (goCache f (.cacheOp true f.cp.toNat)) s

end Sys2Proof.Machine
end

