-- ==== Sys2Proof/Machine/Returns.lean ====
section
/-! DEFINITION. Machine/Returns.lean: the events of memory accesses under way: arrival at the home, reservations,
settlements, recalls, drains, returns and acknowledgements (05_memory R121 to R123, 06_compression R142 to R145,
10_memory_sync R228 to R241). -/

namespace Sys2Proof.Machine

/-! ## At the home -/

/-- What follows at the group of an operation: its replay may be over (20_faults_memory R373). -/
def State.markerOf (s : State) (op : Option Nat) : State :=
  match op.bind s.op? with
  | none => s
  | some o => s.marker o.gid
def execAccessAtHome (op part : Nat) (s : State) : Out := .next ((s.arrive op part false false).markerOf (some op))
def execReductionDrain (op part : Nat) (s : State) : Out := .next ((s.arrive op part false true).markerOf (some op))
def execRecall (op part : Nat) (s : State) : Out := .next ((s.arrive op part true false).markerOf (some op))
def execReservation (asid : Nat) (s : State) : Out :=
  .next ((s.reserveNext asid).markerOf (((s.ctx? asid).bind fun c => c.reserves.head?).map (·.op)))
/-- R144: a dirty line evicted from the L2 is settled, once its vault lets the write-back in (R128 to R130); a line whose reservation
is on its way is not dirty yet. -/
def execSettlement (asid block : Nat) (s : State) : Out :=
  .next (if (s.settleReach asid block 0).2 then s.settleLine asid block else s)

/-! ## Returns -/

/-- Every part performed. -/
def MemOp.complete (o : MemOp) : Bool := o.parts.all fun p => p.st == .done
/-- The bytes a thread's parts have read. -/
def MemOp.value (o : MemOp) (i : Nat) : Nat :=
  (o.parts.filter fun p => p.lane == i).foldl (fun acc p => acc + p.got % 256 ^ p.n * 256 ^ p.off) 0
/-- Whether a load sign-extends. -/
def OpKind.signed (k : OpKind) : Bool :=
  match k with
  | .load s _ => s
  | .const s => s
  | _ => false
/-- R228: a value of the operation's width extended to `bits`. -/
def MemOp.extend (o : MemOp) (bits i : Nat) : Nat :=
  let x := o.value i
  if o.kind.signed then (signedOf (8 * o.width) x % (2 ^ bits : Int)).toNat else x
/-- R61: the group once the values of every thread have arrived: written, tagged (R59), full. -/
def Group.fillDest (g : Group) (o : MemOp) : Group :=
  match o.dest with
  | .v r n bcast =>
    (List.range n).foldl (fun g j =>
      (g.setV (r + j) o.lanes (fun i => BitVec.ofNat 32 (o.extend (32 * n) i / 2 ^ (32 * j)))
        (if bcast then .u else .g)).fillV (r + j)) g
  | .s r => g.setS r (BitVec.ofNat 64 (o.extend 64 (((lanesOf g.width o.lanes).head?).getD 0)))
  | .lend cid r n =>
    match g.cohort? cid with
    | none => g
    | some c =>
      match c.helper with
      | none => g
      | some h =>
        let put := fun (l : List Lend) (j : Nat) =>
          l.set (r + j - g.lend0) ⟨BitVec.ofNat 32 (o.extend (32 * n) h.lane / 2 ^ (32 * j)), true, .g, true, false⟩
        let h' : Helper := { h with lend := (List.range n).foldl put h.lend }
        g.putCohort { c with helper := some h' }
  | _ => g
/-- The state without an operation. -/
def State.dropOp (s : State) (id : Nat) : State := { s with ops := s.ops.filter fun o => o.id != id }

/-- R240, R360: the end of a `w.ld`. -/
def State.imageReturn (s : State) (g : Group) (o : MemOp) : State :=
  let d := o.parts.foldl (fun acc p => acc + p.got % 256 ^ p.n * 256 ^ p.off) 0
  match g.cohort? o.cid with
  | none => s.dropOp o.id
  | some c =>
    match imageFault g d with
    | some det =>
      let s := (s.dropOp o.id).putGroup (g.putCohort { c with prog := .none })
      match s.group? g.id with
      | none => s
      | some g => (s.raise g { c with prog := .none } o.org codeWSHAPE det 0 o.trk 0 c.lanes []).dateRecord g.id o.tick
    | none =>
      let k := match o.dest with
        | .w k => k
        | _ => 0
      let words := if o.org.w0.toNat / 2 ^ 25 % 128 < 64 then 1 else 2
      (s.dropOp o.id).putGroup ((g.putWitness k (witnessFrom g d)).advance o.cid words)
/-- R61, R228, R230: the values of a load, or of a read of an accumulator, arrive; an acquire load then acquires on its track. -/
def State.loadReturn (s : State) (op : Nat) : State :=
  match s.op? op with
  | none => s
  | some o =>
    match s.group? o.gid with
    | none => s
    | some g =>
      if !o.complete then s
      else
        match o.kind with
        | .load _ acq =>
          let s := (s.dropOp op).putGroup (g.fillDest o)
          if acq then s.acquire g else s
        | .const _ => (s.dropOp op).putGroup (g.fillDest o)
        | .acc => (s.dropOp op).putGroup (g.fillDest o)
        | .image => s.imageReturn g o
        | _ => s
def execLoadReturn (op : Nat) (s : State) : Out := .next (s.loadReturn op)

/-- The group after an operation that counted on its track is acknowledged (R122). -/
def Group.acked (g : Group) (o : MemOp) : Group := if o.pc then g.down o.trk else g
/-- Whether an atomic returns a value to a register. -/
def MemOp.returns (o : MemOp) : Bool :=
  match o.kind with
  | .atomic _ => o.dest != .none
  | _ => false
/-- R122, R229: every home slice has acknowledged its part; a deferred round may outlive its group (R389). -/
def State.storeAck (s : State) (op : Nat) : State :=
  match s.op? op with
  | none => s
  | some o =>
    match s.group? o.gid with
    | none => if o.complete && !o.kind.isRead then s.dropOp op else s
    | some g =>
      if o.complete && !o.kind.isRead && !o.returns then (s.dropOp op).putGroup (g.acked o) else s
def execStoreAck (op : Nat) (s : State) : Out := .next (s.storeAck op)
/-- R231: the old values of a returning atomic arrive. -/
def State.atomicReturn (s : State) (op : Nat) : State :=
  match s.op? op with
  | none => s
  | some o =>
    match s.group? o.gid with
    | none => s
    | some g => if o.complete && o.returns then (s.dropOp op).putGroup ((g.fillDest o).acked o) else s
def execAtomicReturn (op : Nat) (s : State) : Out := .next (s.atomicReturn op)

/-- R145: a reading of PANTRY.FREE or PANTRY.HELD arrives at the pantry home and fills its destination. -/
def State.pantryReturn (s : State) (id : Nat) : State :=
  match s.ctxs.find? fun c => c.reads.any fun r => r.id == id with
  | none => s
  | some c =>
    match c.reads.find? fun r => r.id == id with
    | none => s
    | some r =>
      let s := s.putCtx { c with reads := c.reads.filter fun x => x.id != id }
      match s.group? r.gid with
      | none => s
      | some g =>
        let x := BitVec.ofNat 64 ((if r.held then c.held else c.free) % 2 ^ 40)
        s.putGroup (match r.dest with
          | .v n _ _ => (g.setV n r.lanes (fun _ => x.setWidth 32) .u).fillV n
          | .s n => g.setS n x
          | _ => g)
def execPantryReadReturn (op : Nat) (s : State) : Out := .next (s.pantryReturn op)

/-! ## FIFOs (R241) -/

/-- The state with a cohort of a group as the executing one. -/
def State.focus (s : State) (gid : GroupId) (cid : Nat) : State := { s with cur := some ⟨gid, cid, 0, 0⟩ }
/-- A waiting push or pop goes on. -/
def State.fifoResume (s : State) (gid : GroupId) (cid : Nat) : State :=
  match (s.focus gid cid).view with
  | none => s
  | some v =>
    match v.c.prog with
    | .fifo f words pop _ _ _ =>
      if v.c.stopped || v.g.slots.isEmpty then s
      else
        match goFifo f words pop s v with
        | .ok t => t
        | .error _ => s
    | _ => s
def execFifoResume (g : GroupId) (cid : Nat) (s : State) : Out := .next (s.fifoResume g cid)

end Sys2Proof.Machine
end

