-- ==== Sys2Proof/Machine/Place.lean ====
section
/-! DEFINITION. Machine/Place.lean: the launch record's fields (13_scheduling R289), what resident groups and teams hold of
cores and pairs, and whether a team fits (R296, R21). -/

namespace Sys2Proof

open Machine

/-- Fields of Q0 and Q1 (R289). -/
def LaunchWords.entry (q : LaunchWords) : Nat := bitsOf q.q0.toNat 0 56
def LaunchWords.relaunch (q : LaunchWords) : Bool := bitAt q.q0.toNat 57
def LaunchWords.widthCode (q : LaunchWords) : Nat := bitsOf q.q1.toNat 0 2
def LaunchWords.width (q : LaunchWords) : Nat := 16 * 2 ^ min 2 q.widthCode
def LaunchWords.vregs (q : LaunchWords) : Nat := 16 * (bitsOf q.q1.toNat 2 2 + 1)
def LaunchWords.acc (q : LaunchWords) : Nat := bitsOf q.q1.toNat 4 4
def LaunchWords.plat (q : LaunchWords) : Nat := bitsOf q.q1.toNat 8 4
def LaunchWords.banks (q : LaunchWords) : Nat := bitsOf q.q1.toNat 12 5
def LaunchWords.rdv (q : LaunchWords) : Nat := bitsOf q.q1.toNat 17 5
def LaunchWords.lendCode (q : LaunchWords) : Nat := bitsOf q.q1.toNat 22 2
def LaunchWords.lend (q : LaunchWords) : Nat := 8 * q.lendCode
def LaunchWords.pair (q : LaunchWords) : Bool := bitAt q.q1.toNat 24
def LaunchWords.teams (q : LaunchWords) : Nat := bitsOf q.q1.toNat 32 24 + 1
/-- Fields of Q2, Q6 and Q7 (R289). -/
def LaunchWords.params (q : LaunchWords) : Nat := bitsOf q.q2.toNat 0 56
def LaunchWords.trape (q : LaunchWords) : Nat := bitsOf q.q6.toNat 0 56
def LaunchWords.dep (q : LaunchWords) : Nat := bitsOf q.q7.toNat 0 40
def LaunchWords.cq (q : LaunchWords) : Nat := bitsOf q.q7.toNat 40 4
def LaunchWords.cev (q : LaunchWords) : Bool := bitAt q.q7.toNat 44
/-- The cores of a team whose base is `core`: one, or both of a pair (R21). -/
def LaunchWords.cores (q : LaunchWords) (core : Nat) : List Nat :=
  if q.pair then [core / 2 * 2, core / 2 * 2 + 1] else [core]
/-- The core and quadrant of group `g` of such a team (R21). -/
def LaunchWords.groupCore (q : LaunchWords) (core g : Nat) : Nat := if q.pair then core / 2 * 2 + g / 4 % 2 else core
def LaunchWords.groupQuad (_q : LaunchWords) (g : Nat) : Nat := g % 4
/-- Groups of a team of record `q` on one core and quadrant. -/
def LaunchWords.here (q : LaunchWords) (base core quad : Nat) : List Nat :=
  (List.range q.groups).filter fun g => q.groupCore base g == core && q.groupQuad g == quad

end Sys2Proof

namespace Sys2Proof.Machine

/-! ## What is held -/

/-- Resident groups of a core: a pre-empted team's groups hold no slots. -/
def State.residents (s : State) (core : Nat) : List Group := s.groups.filter fun g => g.core == core && !g.slots.isEmpty
/-- Running teams with a core of their own. -/
def Team.uses (t : Team) (core : Nat) : Bool :=
  t.st == .running && (if t.pairTeam then t.core / 2 == core / 2 else t.core == core)
def State.teamsOn (s : State) (core : Nat) : List Team := s.teams.filter fun t => t.uses core
/-- A sum over a list. -/
def total (l : List α) (f : α → Nat) : Nat := (l.map f).foldl (· + ·) 0
/-- Slots of a quadrant in use. -/
def State.usedSlots (s : State) (core quad : Nat) : List Nat :=
  ((s.residents core).filter fun g => g.quad == quad).flatMap (·.slots)
/-- Slots of a quadrant that are free, ascending. -/
def State.freeSlots (s : State) (core quad : Nat) : List Nat :=
  (List.range quadSlots).filter fun i => !(s.usedSlots core quad).contains i
/-- Accumulator units, platforms and rendezvous points of a core in use. -/
def State.usedUnits (s : State) (core : Nat) : Nat := total (s.residents core) fun g => g.acc * (g.width / 16)
def State.usedPlats (s : State) (core : Nat) : Nat :=
  total (s.teamsOn core) fun t => (t.plats.filter fun p => p.core == core).length
def State.usedPoints (s : State) (core : Nat) : Nat := total (s.teamsOn core) fun t => t.points.length
/-- Banks of a pair that running teams hold (R406), or that wait for the end of a scrub (R320). -/
def State.usedBanks (s : State) (pair : Nat) : List Nat :=
  ((s.teams.filter fun t => t.st == .running && t.core / 2 == pair).flatMap (·.banks)) ++
    s.parts.flatMap fun p => (p.scrubBanks.filter fun b => b.1 == pair).map (·.2)

/-! ## Fitting (R296) -/

/-- Whether a core has everything free that a team of record `q` at `base` would take of it. -/
def State.coreFits (s : State) (q : LaunchWords) (base core : Nat) : Bool :=
  let n := total [0, 1, 2, 3] fun k => (q.here base core k).length
  ([0, 1, 2, 3].all fun k => decide ((q.here base core k).length * (q.width / 16) ≤ (s.freeSlots core k).length)) &&
  decide (s.usedUnits core + n * q.acc * (q.width / 16) ≤ coreUnits) &&
  decide (s.usedPlats core + q.plat ≤ corePlats) && decide (s.usedPoints core + q.rdv ≤ corePoints)
/-- Whether a team of record `q` fits the core, or pair, at `base`; a closed tile takes no new team (21 R394),
nor a core whose torn-down context is being scrubbed (17_system R320). -/
def State.fitsAt (s : State) (q : LaunchWords) (base : Nat) : Bool :=
  !(((s.tiles[tileOf base]?).map (·.closed)).getD false) &&
  !(s.parts.any fun p => (q.cores base).any p.scrubbing.contains) &&
  ((q.cores base).all fun c => s.coreFits q base c) &&
  decide ((s.usedBanks (pairOf base)).length + q.banks ≤ pairTeamBanks)
/-- The cores, or the first cores of the pairs, that a partition offers to a record. -/
def Partition.bases (p : Partition) (q : LaunchWords) : List Nat :=
  (List.range (16 * p.tiles)).filterMap fun i =>
    let c := 16 * p.first + i
    if q.pair && c % 2 == 1 then none else some c
/-- Resident groups at a base. -/
def State.load' (s : State) (q : LaunchWords) (base : Nat) : Nat := total (q.cores base) fun c => (s.residents c).length
/-- The least loaded of the bases, the lowest among equals. -/
def State.leastLoaded (s : State) (q : LaunchWords) (l : List Nat) : Option Nat :=
  l.foldl (fun best b =>
    match best with
    | none => some b
    | some x => if s.load' q b < s.load' q x then some b else some x) none

/-! ## Rows of pre-empted teams (21 R384) -/

/-- Open-row entries of a core in use. -/
def State.usedRows (s : State) (core : Nat) : Nat := (s.core core).rows.length
/-- The row slot at an address of row page `p` (R126): its address, and its bank. -/
def PageOf.slot (p : PageOf) (va : Nat) : Nat × Nat :=
  (va / platBytes * platBytes, 32 * descBg p.desc + (va - p.va) / platBytes % 32)
/-- The bank of a row slot. -/
def State.slotBank (s : State) (asid slot : Nat) : Nat :=
  (((s.ctx? asid).bind fun c => c.page? slot).map fun p => (p.slot slot).2).getD 0
/-- Whether another team's `row.open` must leave an entry, or this bank, to a pre-empted team that would otherwise fit. -/
def State.rowsOwed (s : State) (core : Nat) (t : TeamId) (bank : Nat) : Bool :=
  s.teams.any fun x =>
    let mine := x.rows.filter fun r => r.core == core
    x.id != t && x.st == .saved && !mine.isEmpty &&
    (match s.grid? x.id.grid with | none => false | some g => s.fitsAt g.q x.core) &&
    (decide (16 ≤ s.usedRows core + mine.length) || mine.any fun r => s.slotBank x.asid r.slot == bank)

end Sys2Proof.Machine
end

