-- ==== Sys2Proof/Machine/Handles.lean ====
section
/-! DEFINITION. Machine/Handles.lean: tokens (12_engines_system R271), handles and their completion (03_encoding R65, 18_faults
R337, R339), the address operands of class E and the handle instructions (R280, R338). -/

namespace Sys2Proof.Machine

/-! ## Tokens (R271) -/

/-- The token of operation `seq` of a KIND. -/
def mkToken (kind entry core seq : Nat) : W64 :=
  BitVec.ofNat 64 (kind % 8 + entry % 16 * 2 ^ 3 + core % 128 * 2 ^ 8 + seq % 2 ^ 24 * 2 ^ 16)
def tokKind (t : W64) : Nat := bitsOf t.toNat 0 3
def tokSeq (t : W64) : Nat := bitsOf t.toNat 16 24
/-- KIND and SEQ name an operation. -/
def sameOp (a b : W64) : Bool := tokKind a == tokKind b && tokSeq a == tokSeq b
/-- Whether a partition has issued the operation a token names (R356). -/
def Partition.issued (p : Partition) (t : W64) : Bool :=
  decide (1 ≤ tokKind t) && decide (tokKind t ≤ 5) && decide (tokSeq t < (p.seqs[tokKind t]?).getD 0)
/-- Whether it is not yet completed, and how it failed. -/
def Partition.isLive (p : Partition) (t : W64) : Bool := p.live.any fun x => sameOp x t
def Partition.failure? (p : Partition) (t : W64) : Option FailedOp :=
  p.failed.find? fun f => f.kind == tokKind t && f.seq == tokSeq t
/-- A new operation of a partition: the next SEQ of its KIND names it from now on. -/
def State.newToken (s : State) (part kind entry core : Nat) : State × W64 :=
  match s.part? part with
  | none => (s, 0)
  | some p =>
    let n := (p.seqs[kind]?).getD 0
    let t := mkToken kind entry core n
    (s.putPart part { p with
      seqs := p.seqs.set kind (n + 1)
      live := (p.live.filter fun x => !sameOp x t) ++ [t]
      failed := p.failed.filter fun f => !(f.kind == tokKind t && f.seq == tokSeq t) }, t)

/-! ## Completion (R65, R337) -/

/-- A handle once its operation has completed: full, or errored where `h.cancel` has asked for it (R339). -/
def Handle.done (h : Handle) (pfx : Nat) : Handle :=
  if h.cancel then { h with st := .errored, code := 0xFF, pfx := pfx, cancel := false } else { h with st := .full }
/-- A handle once its operation has failed. -/
def Handle.fail (h : Handle) (code pfx : Nat) : Handle :=
  { h with st := .errored, code := if h.cancel then 0xFF else code, pfx := pfx, cancel := false }
/-- Every pending handle of a partition that holds a token. -/
def State.mapHandles (s : State) (part : Nat) (tok : W64) (f : Handle → Handle) : State :=
  { s with groups := s.groups.map fun g =>
      if g.id.team.grid.part == part then
        { g with h := g.h.map fun h => if h.st == .pending && sameOp h.tok tok then f h else h }
      else g }
/-- An operation completed. -/
def State.complete (s : State) (part : Nat) (tok : W64) (pfx : Nat) : State :=
  let s := s.mapHandles part tok (·.done pfx)
  match s.part? part with
  | none => s
  | some p => s.putPart part { p with live := p.live.filter fun x => !sameOp x tok }
/-- An operation failed. -/
def State.failOp (s : State) (part : Nat) (tok : W64) (code pfx : Nat) : State :=
  let s := s.mapHandles part tok (·.fail code pfx)
  match s.part? part with
  | none => s
  | some p => s.putPart part { p with
      live := p.live.filter fun x => !sameOp x tok
      failed := p.failed ++ [⟨tokKind tok, tokSeq tok, code, pfx⟩] }
/-- A handle of a group made pending under a token (R65). -/
def State.pend (s : State) (gid : GroupId) (h : Nat) (tok : W64) : State :=
  match s.group? gid with
  | none => s
  | some g => s.putGroup (g.putHandle h ⟨.pending, tok, 0, 0, false, false⟩)

/-! ## Operands of class E (R270) -/

/-- Checks of class E sources at these nibbles; class E has no trap bits. DEDUCED (log entry 157): an address in a v code is one register tagged
U, zero-extended (R176), and no pair (R67). -/
def gateE (l : List (Code × Nat)) (v : View) : Gate :=
  { chk := l.map fun p => (v.uniOk p.1, p.2), src := l.map fun p => ⟨p.1, 1, false, 0⟩, dst := [], masks := [], vals := []
    late := [], helps := false, unit := 0 }
/-- Space and place of an address operand. -/
def addrSpace (a : W64) : Nat := bitsOf a.toNat 56 8
def addrVa (a : W64) : Nat := bitsOf a.toNat 0 56
def addrOff (a : W64) : Nat := bitsOf a.toNat 0 32

/-! ## The handle instructions (R280, R337 to R339) -/

/-- A damaged handle (R385). -/
def handleOk (h : Handle) : List Late := [⟨!h.bad, codeUE, 4, 0⟩]
/-- Reading an errored handle (R338). -/
def errFree (h : Handle) : List Late := [⟨h.st != .errored, codeHANDLE, h.code, h.pfx⟩]

/-- Checks of `h.test` and `h.get`: A is a destination. -/
def gateHRead (f : E) (test : Bool) (_s : State) (v : View) : Gate :=
  let h := v.g.handle f.h.toNat
  { chk := [(v.dDst f.a, 2)], src := [], dst := [(f.a, 1)], masks := [], vals := []
    late := handleOk h ++ (if test then errFree h else []), helps := false, unit := 0 }
def goHTest (f : E) (s : State) (v : View) : Except Stop State :=
  let full := (v.g.handle f.h.toNat).st == .full
  let s := s.putGroup (v.writeD v.g f.a (if full then 1 else 0))
  .ok ((if full then s.acquireAll v.g else s).pass v 1)
def execHTest (f : E) (s : State) : Out := runFull 0 (gateHRead f true) (goHTest f) s
def goHGet (f : E) (s : State) (v : View) : Except Stop State :=
  let h := v.g.handle f.h.toNat
  if h.st == .idle then .error .wait else .ok ((s.putGroup (v.writeD v.g f.a h.tok)).pass v 1)
def execHGet (f : E) (s : State) : Out := runFull 0 (gateHRead f false) (goHGet f) s

/-- The partition of a group. -/
def State.groupPart (s : State) (g : Group) : Option Partition := s.part? g.id.team.grid.part
/-- Whether A names an operation that has been issued. -/
def tokenOk (c : Code) (s : State) (v : View) : Bool :=
  match s.groupPart v.g with
  | none => false
  | some p => p.issued (v.uni c)
/-- The error that a token stands for: of the operation, or of a handle of the partition that holds it errored after `h.cancel`
(R337, R339; log entry 130). -/
def State.tokenError (s : State) (part : Nat) (t : W64) : Option (Nat × Nat) :=
  match (s.part? part).bind fun p => p.failure? t with
  | some x => some (x.code, x.pfx)
  | none =>
    ((s.groups.filter fun g => g.id.team.grid.part == part).flatMap (·.h)).findSome? fun h =>
      if h.st == .errored && sameOp h.tok t then some (h.code, h.pfx) else none
/-- Checks of `h.wait`: a token whose handle is errored is a reading of it (R338). -/
def gateHWait (f : E) (s : State) (v : View) : Gate :=
  let fail := s.tokenError v.g.id.team.grid.part (v.uni f.a)
  { gateE [(f.a, 2)] v with
    vals := [(tokenOk f.a s v, 0x12)]
    late := match fail with
      | none => []
      | some x => [⟨false, codeHANDLE, x.1, x.2⟩] }
def goHWait (f : E) (s : State) (v : View) : Except Stop State :=
  if ((s.groupPart v.g).map fun p => p.isLive (v.uni f.a)).getD false then .error .wait
  else .ok ((s.acquireAll v.g).pass v 1)
def execHWait (f : E) (s : State) : Out := runFull 0 (gateHWait f) (goHWait f) s

/-- Checks of `h.bind`. -/
def gateHBind (f : E) (s : State) (v : View) : Gate :=
  { gateE [(f.a, 2)] v with vals := [(tokenOk f.a s v, 0x12)] }
/-- The handle that `h.bind` makes: full, pending, or errored (R337). -/
def boundHandle (p : Partition) (t : W64) : Handle :=
  if p.isLive t then ⟨.pending, t, 0, 0, false, false⟩
  else
    match p.failure? t with
    | some x => ⟨.errored, t, x.code, x.pfx, false, false⟩
    | none => ⟨.full, t, 0, 0, false, false⟩
def goHBind (f : E) (s : State) (v : View) : Except Stop State :=
  if (v.g.handle f.h.toNat).st == .pending then .error .wait
  else
    match s.groupPart v.g with
    | none => .ok (s.pass v 1)
    | some p => .ok ((s.putGroup (v.g.putHandle f.h.toNat (boundHandle p (v.uni f.a)))).pass v 1)
def execHBind (f : E) (s : State) : Out := runFull 0 (gateHBind f) (goHBind f) s

end Sys2Proof.Machine
end

