-- ==== Sys2Proof/Machine/Rows.lean ====
section
/-! DEFINITION. Machine/Rows.lean: the row path: banks, the open-row table, takes (05_memory R126 to R130, 11_matrix_row R264
to R268, 20_faults_memory R379 to R381), platforms and `p.ld` up to its completion (11 R262, R263), `h.cancel` (18 R339). -/

namespace Sys2Proof.Machine

/-! ## The open-row table (R264) -/

/-- The entry a token names, while it is in use; and one that has been freed. -/
def Core.rowOf (c : Core) (tok : W64) : Option RowEntry := c.rows.find? fun r => sameOp r.tok tok
def Core.goneOf (c : Core) (tok : W64) : Option RowEntry := c.gone.find? fun r => sameOp r.tok tok
def Core.putRow (c : Core) (r : RowEntry) : Core :=
  { c with rows := c.rows.map (fun x => if sameOp x.tok r.tok then r else x)
           gone := c.gone.map (fun x => if sameOp x.tok r.tok then r else x) }
/-- The core with an entry freed. -/
def Core.freeRow (c : Core) (r : RowEntry) : Core :=
  { c with rows := c.rows.filter (fun x => x.e != r.e), gone := c.gone ++ [r] }
/-- The lowest free entry. -/
def Core.freeEntry (c : Core) : Option Nat := (List.range 16).find? fun e => (c.row? e).isNone

/-- R128: an entry activates its bank when the bank is idle, no earlier `row.open` waits for it, no window is near, and no
cache-path access waits that the bank's last row has held. -/
def State.activate (s : State) (core : Nat) (r : RowEntry) : State :=
  let c := s.core core
  let earlier := ((c.gone ++ c.rows).takeWhile fun x => !sameOp x.tok r.tok).any fun x => x.waitingBank && x.bank == r.bank
  let held := ((s.vault core).dbank r.bank).held.any s.stillHeld
  if r.waitingBank && (s.vault core).bankState r.bank == .idle && !s.windowNear core && !earlier && !held then
    (s.putCore core (c.putRow { r with activated := some (s.now core) })).setBank core r.bank (.activating r.e)
  else s
/-- R267: the earliest precharge of an entry. -/
def State.earliest (s : State) (core : Nat) (r : RowEntry) : Nat :=
  max (s.now core) (max (r.opened + s.dramCc core 56) r.takeEnd)
/-- R267, R339: an entry freed; an open row's precharge is due, an opening one completes first. -/
def State.shutRow (s : State) (core : Nat) (r : RowEntry) : State :=
  let s' := s.putCore core ((s.core core).freeRow r)
  match r.st with
  | .opened => s'.setBank core r.bank (.shutting (s.earliest core r) r.row)
  | _ => s'

/-! ## Instructions of the row path (R265 to R267) -/

/-- A uniform address operand: an s code, or the even pair of a v code (R67). -/
def View.addrVal (v : View) (c : Code) : W64 := v.rPair c v.lane0
/-- The checks of a uniform address of class X. -/
def gateAddr (f : XR) (v : View) : Gate :=
  { chk := [(v.uniAddr f.a, 2)], src := [⟨f.a, match opd f.a with | .v _ => 2 | _ => 1, f.ea == 1, 1⟩], dst := [], masks := [], vals := [], late := []
    helps := false, unit := 0 }
/-- R379: the checks of the page that holds an address. -/
def State.rowFault (s : State) (v : View) (va : Nat) : List Late :=
  let t := s.canon v.g.asid va
  match s.ctx? t.1 with
  | none => [⟨false, codeXLATE, 1, va⟩]
  | some c =>
    match c.walk t.2.1 with
    | .error e => [⟨false, e.1, e.2, va⟩]
    | .ok p =>
      let bank := (p.slot t.2.1).2
      let held := (s.core v.g.core).rows.find? fun r => r.bank == bank && (r.st == .opening || r.st == .opened)
      [⟨descRow p.desc, codeROWPAGE, 2, va⟩, ⟨descPidx p.desc == v.g.core, codeROWVAULT, descPidx p.desc, va⟩,
        ⟨held.isNone, codeROWBANK, (held.map (·.e)).getD 0, va⟩]
/-- Checks of `row.open`. -/
def gateRowOpen (f : XR) (s : State) (v : View) : Gate :=
  let a := (v.addrVal f.a).toNat
  { gateAddr f v with late := if 2 ^ 56 ≤ a then [⟨false, codeXLATE, 3, a % 2 ^ 56⟩] else s.rowFault v a }
def goRowOpen (f : XR) (s : State) (v : View) : Except Stop State :=
  let a := (v.addrVal f.a).toNat
  let t := s.canon v.g.asid a
  let h := f.h.toNat
  match (s.ctx? t.1).bind fun c => (c.page? t.2.1).map fun p => (c, p) with
  | none => .error .wait
  | some (c, p) =>
    let slot := (p.slot t.2.1).1
    let bank := (p.slot t.2.1).2
    let core := v.g.core
    match (s.core core).freeEntry with
    | none => .error .wait
    | some e =>
      if (v.g.handle h).st == .pending || s.rowsOwed core v.g.id.team bank then .error .wait
      else
        let r := s.newToken v.g.id.team.grid.part 4 e core
        let row := (c.entry (slot / lineBytes)).loc % bankSectors / 32
        let ent : RowEntry := ⟨e, .opening, t.1, slot, bank, row, r.2, v.g.id, h, s.now core, none, 0⟩
        let s := r.1.putCore core { r.1.core core with rows := (r.1.core core).rows ++ [ent] }
        .ok (((s.pend v.g.id h r.2).activate core ent).pass v 1)
def execRowOpen (f : XR) (s : State) : Out := runFull 0 (gateRowOpen f) (goRowOpen f) s

/-- R354: whether a handle holds a `row.open` token of this team on this core. -/
def State.rowHandle (s : State) (v : View) (h : Handle) : Bool :=
  let c := s.core v.g.core
  h.st != .idle && tokKind h.tok == 4 && bitsOf h.tok.toNat 8 7 == v.g.core &&
    (match c.rowOf h.tok with
     | some r => r.gid.team == v.g.id.team
     | none => match c.goneOf h.tok with
       | some r => r.gid.team == v.g.id.team
       | none => false)
/-- Whether a platform of the group's team exists. -/
def View.platOk (v : View) (p : Nat) : Bool := decide (p < v.g.plat)
/-- R380, R385: whether the row a full handle names can be taken. -/
def State.takeFault (s : State) (v : View) (h : Handle) : List Late :=
  let c := s.core v.g.core
  if h.st == .pending then []
  else
    match c.rowOf h.tok with
    | none => [⟨false, codeROWEXP, 3, ((c.goneOf h.tok).map (·.slot)).getD 0⟩]
    | some r =>
      let bad := (List.range 4).find? fun i =>
        match s.ctx? r.asid with
        | none => false
        | some x => (x.entry (r.slot / lineBytes + i)).poison || x.dramHit (r.slot / lineBytes + i)
      (match r.st with
       | .expired why => [⟨false, codeROWEXP, why, r.slot⟩]
       | _ => []) ++
      (match bad with
       | some i => [⟨false, codeUE, 1, r.slot + lineBytes * i⟩]
       | none => [])
/-- Checks of `row.take`. -/
def gateRowTake (f : XR) (s : State) (v : View) : Gate :=
  let h := v.g.handle f.h.toNat
  { chk := [(s.rowHandle v h, 8), (v.platOk f.pl.toNat, 8)], src := [], dst := [], masks := [], vals := []
    late := handleOk h ++ errFree h ++ s.takeFault v h, helps := false, unit := 0 }
/-- The state with a change to one platform of a team. -/
def State.mapPlat (s : State) (t : TeamId) (core n : Nat) (h : Platform → Platform) : State :=
  match s.team? t with
  | none => s
  | some x => s.putTeam { x with plats := x.plats.map fun p => if p.core == core && p.n == n then h p else p }
/-- A platform of a team. -/
def State.plat? (s : State) (t : TeamId) (core n : Nat) : Option Platform :=
  (s.team? t).bind fun x => x.plats.find? fun p => p.core == core && p.n == n
/-- The bytes of an open row (R170). -/
def State.rowBytes (s : State) (r : RowEntry) : List Host.Cell :=
  let k := memKey r.asid r.slot
  (cellsIn s.mem k (k + platBytes)).map fun p => (p.1 - k, p.2)
/-- R123, R156: whether an earlier read of the group on track 0, or before its last event on all tracks, of the row slot has not
taken its value. -/
def State.slotRead (s : State) (v : View) (r : RowEntry) : Bool :=
  s.ops.any fun o => o.asid == r.asid && o.before v.g.id 0 v.g.allAt &&
    (List.range 32).any fun i => o.touches (r.slot / 64 + i)
/-- R266: a take begins once its handle is full, the bus is free and no acquire or earlier read of its group on track 0 holds it; it
reads the row then. -/
def goRowTake (f : XR) (s : State) (v : View) : Except Stop State :=
  let h := v.g.handle f.h.toNat
  let core := v.g.core
  let now := s.now core
  let vt := s.vault core
  match (s.core core).rowOf h.tok with
  | none => .error .wait
  | some r =>
    if h.st == .pending || r.st != .opened || decide (now < vt.busEnd) || s.accessHeld v 0 || s.slotRead v r then .error .wait
    else
      let busy := now + s.dramCc core (if vt.degraded then 8 else 4)
      let c := (s.core core).putRow { r with takeEnd := max r.takeEnd busy }
      let take : Take := ⟨s.nextId, r.e, r.tok, v.g.id, f.pl.toNat, now, s.rowBytes r⟩
      let s := { (s.putVault core { vt with busEnd := busy }).putCore core { c with takes := c.takes ++ [take] } with
        nextId := s.nextId + 1 }
      let s := s.mapPlat v.g.id.team core f.pl.toNat fun p => { p with writes := p.writes ++ [take.id] }
      .ok (s.pass v 1)
/-- A take that finds an uncorrectable error poisons its block (R385). -/
def State.poisonTake (s : State) (v : View) (h : Handle) : State :=
  match (s.takeFault v h).find? fun l => l.code == codeUE with
  | none => s
  | some l =>
    match (s.core v.g.core).rowOf h.tok with
    | none => s
    | some r => s.poisonBlock r.asid (l.va / lineBytes) 1
def execRowTake (f : XR) (s : State) : Out :=
  match s.view with
  | none => .refused .noCohort
  | some v =>
    match (gateRowTake f s v).stop v with
    | some (.fault code detail va) =>
      let s := if code == codeUE && detail == 1 then s.poisonTake v (v.g.handle f.h.toNat) else s
      .next (s.halt v (.fault code detail va) 0)
    | some .wait => .next s
    | none =>
      match goRowTake f s v with
      | .ok t => .next t
      | .error _ => .next s

/-- Checks of `row.shut`. -/
def gateRowShut (f : XR) (s : State) (v : View) : Gate :=
  let h := v.g.handle f.h.toNat
  { chk := [(s.rowHandle v h, 8)], src := [], dst := [], masks := [], vals := [], late := handleOk h
    helps := false, unit := 0 }
/-- The state with a handle idle. -/
def State.idleHandle (s : State) (gid : GroupId) (h : Nat) : State :=
  match s.group? gid with
  | none => s
  | some g => s.putGroup (g.putHandle h ⟨.idle, 0, 0, 0, false, false⟩)
def goRowShut (f : XR) (s : State) (v : View) : Except Stop State :=
  let h := v.g.handle f.h.toNat
  let s := match (s.core v.g.core).rowOf h.tok with
    | none => s
    | some r => s.shutRow v.g.core r
  .ok ((s.idleHandle v.g.id f.h.toNat).pass v 1)
def execRowShut (f : XR) (s : State) : Out := runFull 0 (gateRowShut f) (goRowShut f) s

/-! ## `h.cancel` (R280, R339) -/

/-- R339: a pending handle by the KIND of its operation; any other becomes idle. -/
def goHCancel (f : E) (s : State) (v : View) : Except Stop State :=
  let n := f.h.toNat
  let h := v.g.handle n
  let core := bitsOf h.tok.toNat 8 7
  let s :=
    if h.st != .pending then s.idleHandle v.g.id n
    else
      match tokKind h.tok with
      | 1 => { s with engs := s.engs.map fun e =>
                if e.part == v.g.id.team.grid.part && sameOp e.tok h.tok then { e with cancel := true } else e }
      | 4 =>
        let s := match (s.core core).rowOf h.tok with
          | none => s
          | some r => s.shutRow core r
        s.idleHandle v.g.id n
      | _ => s.putGroup (v.g.putHandle n { h with cancel := true })
  .ok (s.pass v 1)
def execHCancel (f : E) (s : State) : Out := runFull 0 (fun _ v => gateE [] v) (goHCancel f) s

/-! ## Events of rows and banks -/

/-- An entry that waits for its bank, freed or in use. -/
def Core.waitingRow (c : Core) (e : Nat) : Option RowEntry := (c.gone ++ c.rows).find? fun r => r.e == e && r.waitingBank
def execRowActivate (core entry : Nat) (s : State) : Out :=
  match (s.core core).waitingRow entry with
  | none => .next s
  | some r => .next (s.activate core r)

/-- R265: the row is open: the entry moves to open and the handle becomes full. An entry freed meanwhile is precharged. -/
def State.rowOpened (s : State) (core e : Nat) : State :=
  let c := s.core core
  match (c.gone ++ c.rows).find? fun r => r.e == e && r.st == .opening && r.activated.isSome with
  | none => s
  | some r =>
    if s.now core < r.activated.getD 0 + s.dramCc core 24 then s
    else
      let st : BankState := if (c.rowOf r.tok).isSome then .opened e else .shutting (s.earliest core r) r.row
      ((s.putCore core (c.putRow { r with st := .opened })).setBank core r.bank st).complete r.gid.team.grid.part r.tok 0
def execRowOpenComplete (core entry : Nat) (s : State) : Out := .next (s.rowOpened core entry)

/-- The end of an outstanding platform write, once it is the first of its platform (R171). -/
def State.platWritten (s : State) (t : TeamId) (core n id : Nat) (bytes : List Host.Cell) : State :=
  s.mapPlat t core n fun p =>
    { p with bytes := bytes, bad := false, writes := p.writes.filter fun x => x != id }
/-- R266: a take's data is in its platform 6 cc after its occupancy began, 10 in a degraded vault (21 R394). -/
def State.takeDone (s : State) (core id : Nat) : State :=
  let c := s.core core
  match c.takes.find? fun x => x.id == id with
  | none => s
  | some x =>
    let t := x.gid.team
    let first := match s.plat? t core x.p with
      | none => true
      | some p => p.writes.head? == some id
    let delay := if (s.vault core).degraded then 10 else 6
    if !first || decide (s.now core < x.start + s.dramCc core delay) then s
    else
      (s.putCore core { c with takes := c.takes.filter fun y => y.id != id }).platWritten t core x.p id x.bytes
def execRowTakeComplete (core take : Nat) (s : State) : Out := .next (s.takeDone core take)

/-- R267. -/
def State.precharge (s : State) (vault b : Nat) : State :=
  match (s.vault vault).bankState b with
  | .shutting t _ => if t ≤ s.now vault then s.setBank vault b (.precharging (s.now vault)) else s
  | _ => s
def execPrechargeStart (vault bank : Nat) (s : State) : Out := .next (s.precharge vault bank)
/-- A bank at rest, or in the first of its postponed refresh slots (R129). -/
def DBank.rest (x : DBank) (now : Nat) : DBank :=
  if x.postponed = 0 then { x with st := .idle } else { x with st := .refreshing now, postponed := x.postponed - 1 }
/-- R128: 24 cc after its precharge began a bank is idle, but for slots it has postponed. -/
def State.bankRest (s : State) (vault b : Nat) : State :=
  let v := s.vault vault
  match v.bankState b with
  | .precharging t =>
    if t + s.dramCc vault 24 ≤ s.now vault then s.putVault vault (v.putDBank ((v.dbank b).rest (s.now vault))) else s
  | _ => s
def execBankIdle (vault bank : Nat) (s : State) : Out := .next (s.bankRest vault bank)

/-- R268, R381: a row closed at its maximum open time, after every take of it that has begun. -/
def State.expire (s : State) (core e : Nat) : State :=
  let c := s.core core
  match c.row? e with
  | none => s
  | some r =>
    if r.st == .opened && decide (r.opened + s.dramCc core 8192 ≤ s.now core) && decide (r.takeEnd ≤ s.now core) then
      (s.putCore core (c.putRow { r with st := .expired 1 })).setBank core r.bank (.precharging (s.now core))
    else s
def execRowMaxOpenExpiry (core entry : Nat) (s : State) : Out := .next (s.expire core entry)

/-! ## Refresh (R129) and retraining (R130) -/

/-- A slot begins, or is postponed while its bank is not idle; at most two are. DESIGN CHOICE (log entry 131): also where the bank
is activating, precharging, refreshing or retraining. -/
def State.refreshStart (s : State) (vault b : Nat) : State :=
  let v := s.vault vault
  let x := v.dbank b
  if 192 ≤ b || 7 * s.time < slotStart b x.slots then s
  else
    let y := { x with slots := x.slots + 1 }
    let y : DBank := if v.bankState b == .idle then { y with st := .refreshing (s.now vault) }
      else { y with postponed := min 2 (x.postponed + 1) }
    s.putVault vault (v.putDBank y)
def execRefreshSlotStart (vault bank : Nat) (s : State) : Out := .next (s.refreshStart vault bank)
/-- R393 step 3: a row of a bank rewritten: an uncorrectable error met in it poisons its block (R387). -/
def State.rewriteRow (s : State) (vault b row : Nat) : State :=
  s.ctxs.foldl (fun s c =>
    (c.dramBad.map (· / 8)).eraseDups.foldl (fun s block =>
      let e := c.entry block
      if codeSize e.code != 0 && e.loc / 32 == (b * bankSectors + 32 * row) / 32 && s.home c.asid (block * lineBytes) == vault then
        (s.poisonBlock c.asid block 1).post c.asid (s.bareRec codeUE 6 (block * lineBytes))
      else s) s) s
/-- A slot ends after 200 cc; it has rewritten one row of a move to the stronger code (21 R393). -/
def State.refreshEnd (s : State) (vault b : Nat) : State :=
  let v := s.vault vault
  let x := v.dbank b
  match v.bankState b with
  | .refreshing t =>
    if t + s.dramCc vault 200 ≤ s.now vault then
      let s := s.putVault vault (v.putDBank { x.rest (s.now vault) with rewrite := x.rewrite - 1 })
      if x.rewrite = 0 then s else s.rewriteRow vault b (9216 - x.rewrite)
    else s
  | _ => s
def execRefreshSlotEnd (vault bank : Nat) (s : State) : Out := .next (s.refreshEnd vault bank)

/-- R130, R324: a window announced at least 20 µs (35,000 cc) ahead, at most 2 µs (3,500 cc) long, 100 ms after the vault's last,
and apart from every window of its tile; `ahead` and `len` in ns. -/
def State.announce (s : State) (vault ahead len : Nat) : State :=
  let v := s.vault vault
  let start := s.time + ahead
  let late := match v.lastWindow with
    | none => true
    | some t => decide (t + 100000000 ≤ start)
  let apart := (List.range 16).all fun i =>
    match (s.vault (tileOf vault * 16 + i)).window with
    | none => true
    | some w => decide (w.start + w.len ≤ start) || decide (start + len ≤ w.start)
  if decide (vault < numCores) && v.window.isNone && late && apart && decide (20000 ≤ ahead) &&
      decide (1 ≤ len) && decide (len ≤ 2000) then
    s.putVault vault { v with window := some ⟨start, len, false⟩ }
  else s
def execRetrainAnnounce (vault ahead len : Nat) (s : State) : Out := .next (s.announce vault ahead len)

/-- A bank whose row a window closes. -/
def DBank.closed (x : DBank) : DBank :=
  match x.st with
  | .opened _ => { x with st := .idle }
  | .shutting _ _ => { x with st := .idle }
  | _ => x
/-- A window starts once no other vault of its tile is in one: open rows are closed by the hardware, after the takes that have begun
(R268, R324, R381). -/
def State.windowStart (s : State) (vault : Nat) : State :=
  let v := s.vault vault
  let c := s.core vault
  match v.window with
  | none => s
  | some w =>
    let busy := (c.rows ++ c.gone).any fun r => r.st == .opening && r.activated.isSome
    let other := (List.range 16).any fun i => ((s.vault (tileOf vault * 16 + i)).window.map (·.active)).getD false
    if w.active || decide (s.time < w.start) || decide (s.now vault < v.busEnd) || busy || other then s
    else
      let rows : List RowEntry := c.rows.map fun r => if r.st == .opened then { r with st := .expired 2 } else r
      (s.putCore vault { c with rows := rows }).putVault vault
        { v with window := some { w with active := true }, lastWindow := some s.time, banks := v.banks.map DBank.closed }
def execRetrainWindowStart (vault : Nat) (s : State) : Out := .next (s.windowStart vault)
/-- The vault after a window: banks left idle run the slots they have postponed (R129). -/
def Vault.leaveWindow (v : Vault) (now : Nat) : Vault :=
  { v with window := none, banks := v.banks.map fun x => if x.st == .idle then x.rest now else x }
/-- A window ends, and the vault is trained. -/
def State.windowEnd (s : State) (vault : Nat) : State :=
  let v := s.vault vault
  match v.window with
  | none => s
  | some w =>
    if w.active && decide (w.start + w.len ≤ s.time) then
      s.putVault vault { v.leaveWindow (s.now vault) with windowFails := 0 }
    else s
def execRetrainWindowEnd (vault : Nat) (s : State) : Out := .next (s.windowEnd vault)

/-! ## Platforms (R262, R263) -/

/-- R330: whether a context's spill area is full, so that its tender, turntable and `p.ld` operations wait at issue. -/
def State.spillFull (s : State) (asid : Nat) : Bool := ((s.ctx? asid).map fun c => decide (faultEntries ≤ c.spill.length)).getD false
/-- R361: the extent and alignment of a 2 KiB source in a space. -/
def platSource (v : View) (a : W64) : List Late :=
  let va := addrVa a
  [⟨addrSpace a != 0 || decide (va + platBytes ≤ 2 ^ 56), codeXLATE, 3, va⟩,
   ⟨addrSpace a != 1 || decide (addrOff a + platBytes ≤ bankBytes * v.g.banks), codeXLATE, 4, addrOff a⟩,
   ⟨va % lineBytes == 0, codeALIGN, 1, va⟩]
/-- Checks of `p.ld`. -/
def gatePLd (f : XR) (_s : State) (v : View) : Gate :=
  let a := v.addrVal f.a
  { gateAddr f v with chk := [(v.uniAddr f.a, 2), (v.platOk f.pl.toNat, 8)], vals := [(decide (addrSpace a ≤ 1), 0x12)]
                      late := platSource v a }
/-- The 64-byte parts of a `p.ld`. -/
def State.platParts (s : State) (v : View) (a : W64) : List Part :=
  (List.range 32).map fun i =>
    let loc : Loc := if addrSpace a = 1 then
        let o := addrOff a + 64 * i
        .bank (s.bankOf v.g.id.team o) (o % bankBytes)
      else .glob (addrVa a + 64 * i)
    ⟨v.lane0, 64 * i, 64, loc, 0, 0, 0, .waiting, false, false⟩
/-- R262: the load starts under its handle; its platform write is outstanding from now on. -/
def goPLd (f : XR) (s : State) (v : View) : Except Stop State :=
  let h := f.h.toNat
  if (v.g.handle h).st == .pending || s.accessHeld v 0 || s.spillFull v.g.asid then .error .wait
  else
    let a := v.addrVal f.a
    let r := s.newToken v.g.id.team.grid.part 5 0 v.g.core
    let parts := r.1.platParts v a
    let parts := if addrSpace a = 1 then parts else r.1.hitParts v.g 0 false parts
    let o := { r.1.blankOp v .pld 0 64 0 with dest := .plat f.pl.toNat h, parts := parts, tok := r.2 }
    let s := (r.1.touchL1 v.g parts).mapPlat v.g.id.team v.g.core f.pl.toNat fun p =>
      { p with writes := p.writes ++ [r.1.nextId] }
    .ok (((s.pend v.g.id h r.2).addOp o).pass v 1)
def execPLd (f : XR) (s : State) : Out := runFull 0 (gatePLd f) (goPLd f) s
/-- Checks of `p.zero`. -/
def gatePZero (f : XR) (_s : State) (v : View) : Gate :=
  { chk := [(v.platOk f.pl.toNat, 8)], src := [], dst := [], masks := [], vals := [], late := [], helps := false, unit := 0 }
/-- R263: zero in every byte, after the platform's earlier writes (R171). -/
def goPZero (f : XR) (s : State) (v : View) : Except Stop State :=
  match s.plat? v.g.id.team v.g.core f.pl.toNat with
  | none => .error .wait
  | some p =>
    if !p.writes.isEmpty then .error .wait
    else .ok ((s.mapPlat v.g.id.team v.g.core f.pl.toNat fun p => { p with bytes := [], bad := false }).pass v 1)
def execPZero (f : XR) (s : State) : Out := runFull 0 (gatePZero f) (goPZero f) s

end Sys2Proof.Machine
end

