-- ==== Sys2Proof/Machine/Sync.lean ====
section
/-! DEFINITION. Machine/Sync.lean: rendezvous points, grid barriers, monitors, sleep and yield (10_memory_sync R242 to R247,
07_ordering R167, 18_faults R336, 21_faults_containment R390). -/

namespace Sys2Proof

/-- The point or barrier that N of a class Y word names. -/
def Y.point (f : Y) : Nat := f.n.toNat

end Sys2Proof

namespace Sys2Proof.Machine

/-! ## Phase words and waits (R242, R336) -/

/-- The word of a phase that completed normally, or in error with a code. -/
def phaseWord (phase : Nat) : W64 := BitVec.ofNat 64 (phase % 128)
def errorWord (phase code : Nat) : W64 := BitVec.ofNat 64 (phase % 128 + 2 ^ 7 + code % 256 * 2 ^ 8)

/-- A rendezvous point of a team. -/
def Team.point (t : Team) (n : Nat) : Point := (t.points[n]?).getD ⟨1, 0, 0, none⟩
/-- The state with a change to one point of a team. -/
def State.mapPoint (s : State) (t : TeamId) (n : Nat) (h : Point → Point) : State :=
  match s.team? t with
  | none => s
  | some x => s.putTeam { x with points := x.points.set n (h (x.point n)) }
/-- The code a grid has failed with (R335). -/
def State.gridFailed (s : State) (g : GridId) : Option Nat := (s.grid? g).bind (·.failed)

/-- R243, R336: what a rendezvous wait for a phase returns, where it returns at once. -/
def State.pointResult (s : State) (t : TeamId) (n target : Nat) : Option W64 :=
  match s.team? t with
  | none => none
  | some x =>
    match s.gridFailed t.grid with
    | some code => some (errorWord target code)
    | none =>
      let p := x.point n
      if target < p.phase then some (phaseWord target) else p.err.map fun code => errorWord target code
/-- A grid barrier's phase. -/
def Grid.barPhase (g : Grid) (n : Nat) : Nat := ((g.bars[n]?).map (·.phase)).getD 0
/-- R244, R336: what a barrier wait for a phase returns, where it returns at once. -/
def State.barResult (s : State) (g : GridId) (n target : Nat) : Option W64 :=
  match s.grid? g with
  | none => none
  | some x =>
    match x.failed with
    | some code => some (errorWord target code)
    | none => if target < x.barPhase n then some (phaseWord target) else none

/-- The end of a wait: its word to A, no arrival left, an acquire on all tracks. -/
def State.endWait (s : State) (v : View) (grid : Bool) (n : Nat) (d : Code) (word : W64) : State :=
  let g := v.writeD v.g d word
  let g := if grid then { g with barArr := g.barArr.set n none } else { g with lastArr := g.lastArr.set n none }
  ((s.putGroup g).acquireAll g).pass v 1
/-- The end of a waiting cohort's wait, unless it has faulted or its A is empty. -/
def State.endWaitOf (s : State) (gid : GroupId) (cid : Nat) (word : W64) : State :=
  match (s.focus gid cid).view with
  | none => s
  | some v =>
    match v.c.prog with
    | .phase grid n _ d => if v.c.stopped || v.isEmpty d 1 then s else s.endWait v grid n d word
    | _ => s
/-- The waits of some groups that a word is due to ended. -/
def State.endWaits (s : State) (groups : List Group) (due : Group → Prog → Option W64) : State :=
  groups.foldl (fun s g => g.cohorts.foldl (fun s c =>
    match due g c.prog with
    | some w => s.endWaitOf g.id c.cid w
    | none => s) s) s
/-- The groups of a team; of a grid's teams that are resident. -/
def State.groupsOf (s : State) (t : TeamId) : List Group := s.groups.filter fun g => g.id.team == t
def State.awake (s : State) (g : GridId) : List Group :=
  s.groups.filter fun x => x.id.team.grid == g && ((s.team? x.id.team).map fun t => t.st == .running).getD false

/-- R335, R336: a grid fails; every wait of its resident teams completes in an error phase. -/
def State.failGrid (s : State) (g : GridId) (code : Nat) : State :=
  match s.grid? g with
  | none => s
  | some x =>
    if x.failed.isSome then s
    else
      let s := s.putGrid { x with failed := some code }
      s.endWaits (s.awake g) fun _ p =>
        match p with
        | .phase _ _ target _ => some (errorWord target code)
        | _ => none

/-! ## Rendezvous rounds (R167) -/

/-- Groups of a team on one core in the order of a round. -/
def State.roundOrder (s : State) (t : TeamId) (core : Nat) : List Group :=
  sortBy Group.roundKey ((s.groupsOf t).filter fun g => g.core == core)
/-- Groups drained one after another as one round, as far as their counters allow; answers whether none is left. -/
def State.drainRound (s : State) (gs : List Group) (pick : Entry → Bool) (round : Nat) : State × Bool :=
  gs.foldl (fun acc g => if acc.2 then acc.1.drainGroup g.pot.length g.id pick round else acc) (s, true)
/-- The cores of a team. -/
def State.coresOf (s : State) (t : TeamId) : List Nat :=
  match s.team? t with
  | none => []
  | some x => if x.pairTeam then [x.core / 2 * 2, x.core / 2 * 2 + 1] else [x.core]
/-- The round of a core whose entries of a point's phase are on their way, or a new one. -/
def State.roundFor (s : State) (t : TeamId) (core : Nat) (h : Nat × Nat) : Nat :=
  match s.ops.find? fun o => o.gid.team == t && o.hold == some h &&
      ((s.group? o.gid).map fun g => g.core == core).getD false with
  | some o => o.round.getD s.nextRound
  | none => s.nextRound
/-- R243: the entries held for a point's phase, which are those of the groups that arrived in it, one round per core of the team. -/
def State.drainPoint (s : State) (t : TeamId) (n phase : Nat) : State × Bool :=
  (s.coresOf t).foldl (fun acc core =>
    let s := acc.1
    let r := s.drainRound (s.roundOrder t core) (fun e => e.hold == some (n, phase)) (s.roundFor t core (n, phase))
    ({ r.1 with nextRound := r.1.nextRound + 1 }, acc.2 && r.2)) (s, true)

/-- A phase whose expected arrivals have all been counted drains; an error it stood in is over (R336). -/
def State.pointFull (s : State) (t : TeamId) (n : Nat) : State :=
  match s.team? t with
  | none => s
  | some x =>
    let p := x.point n
    if p.arrivals < p.expected then s
    else ((s.mapPoint t n fun p => { p with err := none }).drainPoint t n p.phase).1
/-- R243: a phase completes and its waiters are released. -/
def State.pointDone (s : State) (t : TeamId) (n : Nat) : State :=
  match s.team? t with
  | none => s
  | some x =>
    let phase := (x.point n).phase
    let s := s.mapPoint t n fun p => { p with phase := phase + 1, arrivals := 0, err := none }
    s.endWaits (s.groupsOf t) fun _ p =>
      match p with
      | .phase false m target _ => if m == n && target == phase then some (phaseWord phase) else none
      | _ => none
/-- R336: a phase completes in error: its arrivals are consumed, its number stays, its held entries are held no more. -/
def State.pointError (s : State) (t : TeamId) (n code : Nat) : State :=
  match s.team? t with
  | none => s
  | some x =>
    let phase := (x.point n).phase
    let s := s.mapPoint t n fun p => { p with arrivals := 0, err := some code }
    let free := fun (e : Entry) => if e.hold == some (n, phase) then { e with hold := none } else e
    let s : State := { s with groups := s.groups.map fun (g : Group) => if g.id.team == t then { g with pot := g.pot.map free } else g }
    s.endWaits (s.groupsOf t) fun _ p =>
      match p with
      | .phase false m target _ => if m == n && target == phase then some (errorWord phase code) else none
      | _ => none
/-- A point drained as far as its groups' counters allow, and completed once every entry is acknowledged. -/
def State.pointRelease (s : State) (t : TeamId) (n : Nat) : State :=
  match s.team? t with
  | none => s
  | some x =>
    let p := x.point n
    if p.arrivals < p.expected || x.st != .running then s
    else
      let r := s.drainPoint t n p.phase
      if r.2 && !r.1.ops.any fun o => o.gid.team == t && o.hold == some (n, p.phase) then r.1.pointDone t n else r.1
def execRdvPhaseRelease (t : TeamId) (n : Nat) (s : State) : Out := .next (s.pointRelease t n)

/-! ## Rendezvous instructions (R243) -/

/-- Whether a consist holds a point of the group's team (R355). -/
def State.consistPoint (s : State) (v : View) (n : Nat) : Bool :=
  ((s.team? v.g.id.team).map fun t => t.consists.any fun c => c.point == n).getD false
/-- CONSIST 4 for an instruction that has not begun. -/
def State.pointFree (s : State) (v : View) (n : Nat) : List Late :=
  [⟨v.c.prog != .none || !s.consistPoint v n, codeCONSIST, 4, 0⟩]
/-- Checks of `rdv.init`. -/
def gateRdvInit (f : Y) (s : State) (v : View) : Gate :=
  let a := (v.uni f.a).toNat
  { chk := [(v.uniOk f.a, 2), (decide (f.point < v.g.rdv), 8)], src := [arg f.a 0 0], dst := [], masks := []
    vals := [(decide (1 ≤ a) && decide (a ≤ 255), 0x12)], late := s.pointFree v f.point, helps := false, unit := 0 }
/-- R243, R358: the expected count changes; arrivals already counted stay, and may complete the phase. -/
def goRdvInit (f : Y) (s : State) (v : View) : Except Stop State :=
  match s.team? v.g.id.team with
  | none => .error .wait
  | some t =>
    let p := t.point f.point
    if p.expected ≤ p.arrivals then .error .wait
    else
      let s := s.mapPoint t.id f.point fun p => { p with expected := (v.uni f.a).toNat % 256 }
      .ok ((s.pointFull t.id f.point).pass v 1)
def execRdvInit (f : Y) (s : State) : Out := runFull 0 (gateRdvInit f) (goRdvInit f) s

/-- Checks of `rdv.arrive`. -/
def gateRdvArrive (f : Y) (s : State) (v : View) : Gate :=
  { chk := [(decide (f.point < v.g.rdv), 8)], src := [], dst := [], masks := [], vals := [], late := s.pointFree v f.point
    helps := false, unit := 0 }
/-- Checks of the waits: A a destination. -/
def gateRdvWait (f : Y) (s : State) (v : View) (arrives : Bool) : Gate :=
  { chk := [(v.dDst f.a, 2), (decide (f.point < v.g.rdv), 8)], src := [], dst := [(f.a, 1)], masks := [], vals := []
    late := if arrives then s.pointFree v f.point else [], helps := false, unit := 0 }
/-- An arrival counted, its release complete: the group's entries that nothing holds are held for the phase (R167), under the
generations from before that release (R172). -/
def State.countArrival (s : State) (v : View) (n : Nat) : State :=
  match s.team? v.g.id.team, s.group? v.g.id with
  | some t, some g =>
    let phase := (t.point n).phase
    let s := s.putGroup { g with
      pot := g.pot.map fun e => if e.hold.isNone then { e with hold := some (n, phase), gen := s.gen g e.trk - 1 } else e
      lastArr := g.lastArr.set n (some phase) }
    (s.mapPoint t.id n fun p => { p with arrivals := p.arrivals + 1 }).pointFull t.id n
  | _, _ => s
/-- The release of an arrival: no entry drains; complete once counters are 0 and loads have their values. -/
def State.arriveRelease (s : State) (v : View) (n : Nat) : Option (State × Bool) :=
  match s.team? v.g.id.team with
  | none => none
  | some t =>
    let p := t.point n
    if !v.c.prog.releasing && s.tracksHeld v.g v.c.cid allTracks then none
    else if p.expected ≤ p.arrivals then none
    else some (s.setProg v (.release allTracks), v.g.quiet allTracks && !s.loadsOut v.g.id allTracks)
/-- A wait for a phase: over at once, or noted. -/
def State.waitPhase (s : State) (v : View) (grid : Bool) (n target : Nat) (d : Code) : State :=
  let r := if grid then s.barResult v.g.id.team.grid n target else s.pointResult v.g.id.team n target
  match r with
  | some w =>
    match s.group? v.g.id with
    | none => s
    | some g => s.endWait { v with g := g } grid n d w
  | none => s.setProg v (.phase grid n target d)
/-- R243. -/
def goRdvArrive (f : Y) (sync : Bool) (s : State) (v : View) : Except Stop State :=
  let n := f.point
  match v.c.prog with
  | .phase _ _ target _ => .ok (s.waitPhase v false n target f.a)
  | _ =>
    match s.arriveRelease v n with
    | none => .error .wait
    | some (s, false) => .ok s
    | some (s, true) =>
      let target := ((s.team? v.g.id.team).map fun t => (t.point n).phase).getD 0
      let s := (s.advanceGens v.g.id.team allTracks).markAll v.g.id
      let s := s.countArrival v n
      .ok (if sync then s.waitPhase v false n target f.a else s.pass v 1)
def execRdvArrive (f : Y) (s : State) : Out := runFull 0 (gateRdvArrive f) (goRdvArrive f false) s
def execRdvSync (f : Y) (s : State) : Out := runFull 0 (fun s v => gateRdvWait f s v true) (goRdvArrive f true) s
/-- R243: the phase of the group's last arrival, or the current one. -/
def goRdvWait (f : Y) (s : State) (v : View) : Except Stop State :=
  let n := f.point
  match v.c.prog with
  | .phase _ _ target _ => .ok (s.waitPhase v false n target f.a)
  | _ =>
    let cur := ((s.team? v.g.id.team).map fun t => (t.point n).phase).getD 0
    .ok (s.waitPhase v false n (((v.g.lastArr[n]?).getD none).getD cur) f.a)
def execRdvWait (f : Y) (s : State) : Out := runFull 0 (fun s v => gateRdvWait f s v false) (goRdvWait f) s

/-! ## Grid barriers (R244, R390) -/

/-- What a grid keeps of a team index. -/
def Grid.keptOf (g : Grid) (team : Nat) : Kept := (g.kept.find? fun k => k.team == team).getD ⟨team, 0, [], [], []⟩
/-- The grid with a change to what it keeps of a team index. -/
def Grid.keep (g : Grid) (team : Nat) (h : Kept → Kept) : Grid :=
  { g with kept := (g.kept.filter fun k => k.team != team) ++ [h (g.keptOf team)] }
/-- The phases of a group's arrivals at a barrier that its team index keeps. -/
def Kept.phases (k : Kept) (bar grp : Nat) : List Nat :=
  ((k.arrivals.find? fun a => a.1 == bar && a.2.1 == grp).map fun a => a.2.2).getD []
def Kept.addPhase (k : Kept) (bar grp phase : Nat) : Kept :=
  { k with arrivals := (k.arrivals.filter fun a => !(a.1 == bar && a.2.1 == grp)) ++ [(bar, grp, k.phases bar grp ++ [phase])] }
/-- Arrivals of a group at a barrier since its team was placed. -/
def Team.barCount (t : Team) (bar grp : Nat) : Nat :=
  ((t.arrivalsDone.find? fun a => a.1 == bar && a.2.1 == grp).map fun a => a.2.2).getD 0
def Team.barCounted (t : Team) (bar grp : Nat) : Team :=
  { t with arrivalsDone := (t.arrivalsDone.filter fun a => !(a.1 == bar && a.2.1 == grp)) ++ [(bar, grp, t.barCount bar grp + 1)] }

/-- An arrival at a barrier: recorded in the current phase, or a replay of the arrival a predecessor made (R390). -/
def State.barArrive (s : State) (v : View) (n : Nat) : State :=
  let id := v.g.id
  match s.team? id.team, s.grid? id.team.grid, s.group? id with
  | some t, some gr, some g =>
    let s := s.putTeam (t.barCounted n id.grp)
    match ((gr.keptOf id.team.team).phases n id.grp)[t.barCount n id.grp]? with
    | some phase => s.putGroup { g with barArr := g.barArr.set n (some phase) }
    | none =>
      let phase := gr.barPhase n
      let s := s.putGroup { g with barArr := g.barArr.set n (some phase), barWait := g.barWait.set n (some phase) }
      if gr.relaunch then s.putGrid (gr.keep id.team.team fun k => k.addPhase n id.grp phase) else s
  | _, _, _ => s
/-- Checks of `gbar.arrive` and `gbar.wait`. -/
def gateGbar (f : Y) (wait : Bool) (_s : State) (v : View) : Gate :=
  { chk := (if wait then [(v.dDst f.a, 2)] else []) ++ [(decide (f.point < 8), 8)], src := []
    dst := if wait then [(f.a, 1)] else [], masks := [], vals := [], late := [], helps := false, unit := 0 }
def goGbarArrive (f : Y) (s : State) (v : View) : Except Stop State :=
  afterRelease s v allTracks fun s => .ok (((s.markAll v.g.id).barArrive v f.point).pass v 1)
def execGbarArrive (f : Y) (s : State) : Out := runFull 0 (gateGbar f false) (goGbarArrive f) s
def goGbarWait (f : Y) (s : State) (v : View) : Except Stop State :=
  let n := f.point
  match v.c.prog with
  | .phase _ _ target _ => .ok (s.waitPhase v true n target f.a)
  | _ =>
    let cur := ((s.grid? v.g.id.team.grid).map fun g => g.barPhase n).getD 0
    .ok (s.waitPhase v true n (((v.g.barArr[n]?).getD none).getD cur) f.a)
def execGbarWait (f : Y) (s : State) : Out := runFull 0 (gateGbar f true) (goGbarWait f) s

/-- Whether group `i` of a team has arrived at a barrier in a phase: explicitly, or by having exited. -/
def State.barArrived (s : State) (gr : Grid) (team i n phase : Nat) : Bool × Bool :=
  let kept := ((gr.keptOf team).phases n i).contains phase
  match s.group? ⟨⟨gr.id, team⟩, i⟩ with
  | some g => let a := kept || (g.barWait[n]?).getD none == some phase; (a, a)
  | none => (kept || (s.team? ⟨gr.id, team⟩).isSome, kept)
/-- R244: a phase completes when every team has started and arrived. -/
def State.barComplete (s : State) (g : GridId) (n : Nat) : State :=
  match s.grid? g with
  | none => s
  | some gr =>
    let phase := gr.barPhase n
    let all := (List.range gr.q.teams).all fun t =>
      gr.ended.contains t || (List.range gr.q.groups).all fun i => (s.barArrived gr t i n phase).1
    let some' := (List.range gr.q.teams).any fun t => (List.range gr.q.groups).any fun i => (s.barArrived gr t i n phase).2
    if 8 ≤ n || gr.next < gr.q.teams || !all || !some' then s
    else
      let s := s.putGrid { gr with bars := gr.bars.set n ⟨phase + 1⟩ }
      s.endWaits (s.awake g) fun _ p =>
        match p with
        | .phase true m target _ => if m == n && target == phase then some (phaseWord phase) else none
        | _ => none
def execGbarPhaseComplete (g : GridId) (n : Nat) (s : State) : Out := .next (s.barComplete g n)

/-! ## Watch, sleep, yield (R245 to R247) -/

/-- Checks of `watch`. -/
def gateWatch (f : Y) (_s : State) (v : View) : Gate :=
  { chk := [(v.uniAddr f.a, 2)], src := [⟨f.a, match opd f.a with | .v _ => 2 | _ => 1, false, 0⟩], dst := [], masks := [], vals := [], late := []
    helps := false, unit := 0 }
/-- The monitor of the group placed on a line; the cohort waits for the home slice's acknowledgement. -/
def goWatch (f : Y) (s : State) (v : View) : Except Stop State :=
  if v.c.prog == .watch then .error .wait
  else
    let line := s.lineKey v.g.asid (v.addrVal f.a).toNat
    let g := v.g.hold v.c.cid .watch
    .ok (s.putGroup { g with monitor := some ⟨line, false, false⟩ })
def execWatch (f : Y) (s : State) : Out := runFull 0 (gateWatch f) (goWatch f) s
/-- R245: the monitor is armed and `watch` completes. -/
def State.arm (s : State) (gid : GroupId) : State :=
  match s.group? gid with
  | none => s
  | some g =>
    let g : Group := { g with monitor := g.monitor.map fun m => { m with armed := true } }
    s.putGroup (g.cohorts.foldl (fun g c => if c.prog == .watch && !c.stopped then g.advance c.cid 1 else g) g)
def execMonitorArmed (g : GroupId) (s : State) : Out := .next (s.arm g)

/-- Checks of `sleep`. -/
def gateSleep (f : Y) (_s : State) (v : View) : Gate :=
  { chk := [(v.uniOk f.a, 2), (v.dDst f.b, 3)], src := [arg f.a 0 0], dst := [(f.b, 1)], masks := [], vals := [], late := []
    helps := false, unit := 0 }
/-- R246: asleep until the monitor fires or the timeout elapses. -/
def goSleep (f : Y) (s : State) (v : View) : Except Stop State :=
  let now := s.now v.g.core
  let till := match v.c.prog with
    | .sleep t _ => t
    | _ => now + (v.uni f.a).toNat % 2 ^ 32
  match v.c.prog with
  | .woken reason _ => .ok (s.putGroup (v.g.wake v.c f.b reason))
  | _ =>
  if (v.g.monitor.map (·.fired)).getD false then .ok (s.putGroup (v.g.wake v.c f.b 1))
  else if till ≤ now then .ok (s.putGroup (v.g.wake v.c f.b 2))
  else .ok (s.setProg v (.sleep till f.b))
def execSleep (f : Y) (s : State) : Out := runFull 0 (gateSleep f) (goSleep f) s
def State.sleepOver (s : State) (gid : GroupId) (cid : Nat) : State :=
  match s.resident? gid with
  | none => s
  | some g =>
    match g.cohort? cid with
    | none => s
    | some c =>
      match c.prog with
      | .sleep t d => if c.stopped || decide (s.now g.core < t) then s else s.putGroup (g.wake c d 2)
      | .woken reason d => if c.stopped then s else s.putGroup (g.wake c d reason)
      | _ => s
def execSleepTimeout (g : GroupId) (cid : Nat) (s : State) : Out := .next (s.sleepOver g cid)

/-- R247. -/
def goYield (s : State) (v : View) : Except Stop State :=
  .ok ((s.putGroup { v.g with yielded := true }).pass v 1)
def execYield (_f : Y) (s : State) : Out := runFull 0 (gateBare false) goYield s

end Sys2Proof.Machine
end

