-- ==== Sys2Proof/Machine/Matrix.lean ====
section
/-! DEFINITION. Machine/Matrix.lean: consists, matrix products, accumulators (02_execution R46 to R48, 04_arithmetic R95 to R101,
11_matrix_row R249 to R261, 19_faults_isa R355, 21_faults_containment R392) and the completion of `p.ld` (11 R262, 18 R336). -/

namespace Sys2Proof.Machine

/-! ## Formats (R250 to R252) -/

/-- Operand formats of a matrix instruction: element types of A and B (R201 codes), K, and the B group size (0 for `mma`). -/
structure MatFmt where
  a : Nat
  b : Nat
  k : Nat
  g : Nat
  deriving DecidableEq, Repr

/-- R250: kinds 0 `mma`, 1 `mma.q`, 2 `mma.mx`. -/
def matFmt (kind fmt : Nat) : MatFmt :=
  match kind with
  | 0 =>
    match fmt with
    | 0 => ⟨4, 4, 32, 0⟩ | 1 => ⟨3, 3, 32, 0⟩ | 2 => ⟨5, 5, 64, 0⟩ | 3 => ⟨5, 6, 64, 0⟩ | 4 => ⟨6, 5, 64, 0⟩
    | 5 => ⟨6, 6, 64, 0⟩ | 6 => ⟨10, 10, 64, 0⟩ | 7 => ⟨11, 11, 64, 0⟩ | 8 => ⟨10, 11, 64, 0⟩
    | 9 => ⟨14, 14, 128, 0⟩ | _ => ⟨10, 14, 64, 0⟩
  | 1 =>
    let g := 32 * 2 ^ (fmt / 4 % 4)
    match fmt % 4 with
    | 0 => ⟨10, 10, 64, g⟩ | 1 => ⟨10, 15, 64, g⟩ | _ => ⟨15, 15, 128, g⟩
  | _ =>
    match fmt with
    | 0 => ⟨5, 5, 64, 32⟩ | 1 => ⟨6, 6, 64, 32⟩ | 2 => ⟨7, 7, 64, 32⟩ | 3 => ⟨8, 8, 64, 32⟩ | _ => ⟨9, 9, 128, 32⟩
/-- Registers of an A row (R253). -/
def matRegs (kind : Nat) : Nat := if kind = 0 then 16 else 17
/-- R252: the first K-group, and the last. -/
def firstGroup (f : XM) : Nat := f.sel.toNat / 2
def lastGroup (m : MatFmt) (f : XM) : Nat := if m.g = 0 then 0 else firstGroup f + (m.k + m.g - 1) / m.g - 1
/-- R252: the K-group of element `k`. -/
def groupOf (m : MatFmt) (f : XM) (k : Nat) : Nat := if m.g ≤ m.k then firstGroup f + k / m.g else firstGroup f
/-- Element `k` of 64 bytes (R95). -/
def elemBits (ty k n : Nat) : Nat :=
  let b := tyBits ty
  if b = 6 then n / 2 ^ (8 * k) % 2 ^ 6 else n / 2 ^ (b * k) % 2 ^ b
/-- R251: element `k` of an A row, and of a B column under SEL. -/
def elemA (m : MatFmt) (row k : Nat) : Nat := elemBits m.a k row
def elemB (m : MatFmt) (f : XM) (col k : Nat) : Nat :=
  elemBits m.b (if tyBits m.a != tyBits m.b then k + 64 * (f.sel.toNat % 2) else k) col

/-! ## Contributions (R253, R254, R99, R100) -/

/-- The registers of an A row as one number. -/
def rowNumber (l : List W32) : Nat := l.foldr (fun w acc => w.toNat + 2 ^ 32 * acc) 0
/-- An E8M0 scale; 0xFF is NaN. -/
def e8m0 (n : Nat) : FVal := if n % 256 = 0xFF then .nan else .fin false 1 ((n % 256 : Nat) - 127)
/-- An integer as an exact value. -/
def intVal (i : Int) : FVal := .fin (decide (i < 0)) i.natAbs 0
/-- Scale and zero point of a scale word (R95), for an element type. -/
def wordScale (w : Nat) : FVal := f16.decode (w % 2 ^ 16)
def wordZero (ty w : Nat) : Int := if ty = 15 then (w / 2 ^ 16 % 16 : Nat) else intOf true 8 (w / 2 ^ 16)
/-- An element of an integer type. -/
def intElem (ty n : Nat) : Int :=
  match intTy ty with
  | some (sg, b) => intOf sg b n
  | none => 0
/-- The contributions of element (i, j): from a row, a column, the row's last register and the column's scale words. -/
def contributions (kind : Nat) (f : XM) (row col scaleA : Nat) (scaleB : Nat → Nat) : List FVal :=
  let m := matFmt kind f.fmt.toNat
  match kind with
  | 0 => (List.range m.k).map fun k => FVal.mul (valueOf m.a (elemA m row k)) (valueOf m.b (elemB m f col k))
  | 1 =>
    let za := wordZero m.a scaleA
    (List.range (lastGroup m f + 1 - firstGroup f)).map fun i =>
      let g := firstGroup f + i
      let w := scaleB g
      let dot := ((List.range m.k).filter fun k => groupOf m f k == g).foldl (fun (acc : Int) k =>
        acc + (intElem m.a (elemA m row k) - za) * (intElem m.b (elemB m f col k) - wordZero m.b w)) 0
      FVal.mul (intVal dot) (FVal.mul (wordScale scaleA) (wordScale w))
  | _ => (List.range m.k).map fun k =>
      FVal.mul (FVal.mul (valueOf m.a (elemA m row k)) (valueOf m.b (elemB m f col k)))
        (FVal.mul (e8m0 (scaleA / 2 ^ (8 * (k / 32)))) (e8m0 (scaleB (groupOf m f k))))

/-! ## Accumulate (R98 to R100) -/

/-- Floor of the base-2 logarithm of a finite value that is not zero. -/
def leadOf (v : FVal) : Option Int :=
  match v with
  | .fin _ m e => if m = 0 then none else some (Nat.log2 m + e)
  | _ => none
/-- The greatest of a list. -/
def maxOf (l : List Int) : Option Int := l.foldl (fun acc x => some (max x (acc.getD x))) none
/-- RNEInt(x / 2^k). -/
def shiftDown (k : Int) (x : Int) : Int := roundInt .rne (decide (x < 0)) x.natAbs (-k)
/-- RNEInt(v × 2^(−e)) of a finite value. -/
def fixedAt (e : Int) (v : FVal) : Int :=
  match v with
  | .fin neg m x => roundInt .rne neg m (x - e)
  | _ => 0
/-- R100: an element's class after the contributions it receives. -/
def ECls.receive (c : ECls) (l : List FVal) : ECls :=
  let pos := c == .pinf || l.any fun v => v == .inf false
  let neg := c == .ninf || l.any fun v => v == .inf true
  if c == .nan || (l.any FVal.isNan) || (pos && neg) then .nan
  else if pos then .pinf else if neg then .ninf else c
/-- A tile's exponent raised to `e`, its mantissas with it. -/
def Tile.raise (t : Tile) (e : Int) : Tile :=
  match t.exp with
  | none => { t with exp := some e }
  | some old => { t with exp := some e, man := t.man.map fun r => r.map (shiftDown (e - old)) }
/-- R99: halving while a mantissa has left 2^46; at the greatest exponent elements become infinite instead. -/
def Tile.normal (fuel : Nat) (t : Tile) : Tile :=
  match fuel, t.exp with
  | k + 1, some e =>
    if t.man.all fun r => r.all fun x => decide (x.natAbs < 2 ^ 46) then t
    else if e = 32767 then
      { t with cls := (t.cls.zip t.man).map fun p => (p.1.zip p.2).map fun q =>
          if q.1 == .fin && q.2 != 0 then (if q.2 < 0 then .ninf else .pinf) else q.1 }
    else (t.raise (e + 1)).normal k
  | _, _ => t
/-- R99, R100: one step on a tile; `con i j` are the contributions of element (i, j). -/
def Tile.accumulate (t : Tile) (con : Nat → Nat → List FVal) : Tile :=
  let rows := (List.range t.man.length).map fun i => (List.range 32).map fun j => (con i j).filter fun v => !v.isZero
  let t : Tile :=
    match maxOf ((rows.flatMap fun r => r.flatMap id).filterMap leadOf) with
    | none => t
    | some p =>
      let low := match t.exp with
        | none => true
        | some e => decide (30 < p - e)
      let t := if low then t.raise (p - 30) else t
      let e := t.exp.getD 0
      let man := (t.man.zip rows).map fun r => (r.1.zip r.2).map fun c => c.1 + (c.2.map (fixedAt e)).foldl (· + ·) 0
      ({ t with man := man }).normal 64
  { t with cls := (t.cls.zip rows).map fun r => (r.1.zip r.2).map fun c => c.1.receive c.2 }
/-- `acc.zero` (R98). -/
def Tile.zero (width : Nat) : Tile :=
  ⟨none, List.replicate width (List.replicate 32 0), List.replicate width (List.replicate 32 .fin), false⟩
/-- An element as R101 reads it. -/
def Tile.value (t : Tile) (i j : Nat) : FVal :=
  let c := ((t.cls[i]?).bind fun r => r[j]?).getD .fin
  let m := ((t.man[i]?).bind fun r => r[j]?).getD 0
  match c with
  | .nan => .nan
  | .pinf => .inf false
  | .ninf => .inf true
  | .fin =>
    match t.exp with
    | none => .fin false 0 0
    | some e => if m = 0 then .fin false 0 0 else .fin (decide (m < 0)) m.natAbs e

/-- One instruction's step on its group's tile (R253). -/
def Group.product (g : Group) (x : MatInstr) (b scale : List Host.Cell) : Group :=
  let t := g.tile x.f.c.toNat
  let con := fun (i j : Nat) =>
    match assoc i x.rows with
    | none => []
    | some row =>
      contributions x.kind x.f (rowNumber (row.take 16)) (cellsRead b (64 * j) 64) (((row[16]?).map (·.toNat)).getD 0)
        fun k => cellsRead scale (128 * k + 4 * j) 4
  g.putTile x.f.c.toNat (t.accumulate con)

/-! ## Consists (R46, R257, R258, R355) -/

/-- Whether a mask lists a group. -/
def Consist.lists (c : Consist) (grp : Nat) : Bool := c.mask.getLsbD grp
/-- The groups a mask lists. -/
def Consist.members (c : Consist) : List Nat := (List.range 64).filter fun i => c.mask.getLsbD i
/-- Whether a latched instruction was issued under a consist (R46). -/
def Consist.holds (c : Consist) (x : MatInstr) : Bool := c.lists x.grp && x.joint == some c.point
/-- The consist of a group. -/
def Team.consistOf (t : Team) (core grp : Nat) : Option Consist := t.consists.find? fun c => c.core == core && c.lists grp
/-- The consists a core holds: those of the teams that run there (R46). -/
def State.consistsOn (s : State) (core : Nat) : Nat :=
  total (s.teams.filter fun t => t.st == .running) fun t => (t.consists.filter fun x => x.core == core).length
/-- Checks of `cst.set`: CONSIST 1 to 4 in row order. -/
def gateCstSet (f : Y) (s : State) (v : View) : Gate :=
  let mask := v.uni f.a
  let c : Consist := ⟨v.g.core, mask, f.point, 0⟩
  let q := s.launchOf v.g
  let own := v.g.id.grp
  let base := ((s.team? v.g.id.team).map (·.core)).getD 0
  let all := ((s.team? v.g.id.team).map (·.consists)).getD []
  let n := c.members.length
  let shape := decide (2 ≤ n) && decide (n ≤ 6) && c.lists own &&
    c.members.all fun i => decide (i < q.groups) && q.groupCore base i == v.g.core
  let same := all.any fun x => x.core == v.g.core && x.mask == mask && x.point == f.point
  let clear := same || all.all fun x => x.core != v.g.core || (x.mask &&& mask) == 0
  let count := s.consistsOn v.g.core
  { chk := [(v.uniOk f.a, 2), (decide (f.point < v.g.rdv), 8)], src := [arg f.a 0 0], dst := [], masks := [], vals := []
    late := [⟨shape, codeCONSIST, 1, 0⟩, ⟨clear, codeCONSIST, 2, 0⟩, ⟨same || decide (count < 8), codeCONSIST, 3, 0⟩,
      ⟨same || all.all fun x => x.point != f.point, codeCONSIST, 4, 0⟩]
    helps := false, unit := 0 }
/-- R257. -/
def goCstSet (f : Y) (s : State) (v : View) : Except Stop State :=
  match s.team? v.g.id.team with
  | none => .error .wait
  | some t =>
    let mask := v.uni f.a
    let p := t.point f.point
    if t.consists.any fun x => x.core == v.g.core && x.mask == mask && x.point == f.point then .ok (s.pass v 1)
    else if p.expected ≤ p.arrivals then .error .wait
    else
      let c : Consist := ⟨v.g.core, mask, f.point, p.expected⟩
      let s := s.putTeam { t with consists := t.consists ++ [c] }
      .ok ((s.mapPoint t.id f.point fun p => { p with expected := c.members.length, arrivals := 0 }).pass v 1)
def execCstSet (f : Y) (s : State) : Out := runFull 0 (gateCstSet f) (goCstSet f) s

/-- A consist dissolved: its point takes back its expected count (R258). -/
def State.dissolve (s : State) (t : TeamId) (c : Consist) : State :=
  match s.team? t with
  | none => s
  | some x =>
    (s.putTeam { x with consists := x.consists.filter fun y => !(y.core == c.core && y.point == c.point) }).mapPoint t c.point
      fun p => { p with expected := c.former, arrivals := 0 }
/-- Whether a joint operation of a consist runs. -/
def State.jointRuns (s : State) (t : TeamId) (c : Consist) : Bool :=
  (s.core c.core).runs.any fun r => r.team == t && r.point == some c.point
/-- R258. -/
def goCstClr (s : State) (v : View) : Except Stop State :=
  match s.team? v.g.id.team with
  | none => .error .wait
  | some t =>
    match t.consistOf v.g.core v.g.id.grp with
    | none => .ok (s.pass v 1)
    | some c =>
      let p := t.point c.point
      if (t.latched.any c.holds) || s.jointRuns t.id c || decide (p.expected ≤ p.arrivals) then .error .wait
      else .ok ((s.dissolve t.id c).pass v 1)
def execCstClr (_f : Y) (s : State) : Out := runFull 0 (gateBare false) goCstClr s

/-! ## Matrix instructions (R253 to R256) -/

/-- The A register of an XM word as an operand code. -/
def aCode (f : XM) : Code := f.a.setWidth 7
/-- Whether the reuse latch has an instruction's rows (R255). -/
def latchHit (kind : Nat) (f : XM) (v : View) : Option (List (Nat × List W32)) :=
  match v.g.latch with
  | none => none
  | some l =>
    if f.ru == 1 && l.base == f.a.toNat && l.count == matRegs kind && l.lanes == v.c.lanes then some l.rows else none
/-- An accumulator tile as a dedicated field. -/
def View.tileOk (v : View) (c : Nat) : Bool := decide (c < v.g.acc)
/-- R355: whether an instruction matches those in its consist's latch. -/
def latchMatch (kind : Nat) (f : XM) (s : State) (v : View) : Bool :=
  match (s.team? v.g.id.team).bind fun t => (t.consistOf v.g.core v.g.id.grp).map fun c => (t, c) with
  | none => true
  | some (t, c) => t.latched.all fun x => !c.holds x ||
      (x.kind == kind && x.f.fmt == f.fmt && x.f.pl == f.pl && x.f.spl == f.spl && x.f.sel == f.sel)
/-- Checks of a matrix instruction. -/
def gateMat (kind : Nat) (f : XM) (s : State) (v : View) : Gate :=
  let r := matRegs kind
  { chk := [(v.vOk f.a.toNat r, 2), (v.platOk f.pl.toNat, 8), (kind == 0 || v.platOk f.spl.toNat, 8), (v.tileOk f.c.toNat, 8)]
    src := if (latchHit kind f v).isSome then [] else [⟨aCode f, r, false, 0⟩], dst := [], masks := []
    vals := [(decide (lastGroup (matFmt kind f.fmt.toNat) f ≤ 15), 0x06)]
    late := [⟨!(v.g.tile f.c.toNat).bad, codeUE, 5, 0⟩, ⟨latchMatch kind f s v, codeCONSIST, 5, 0⟩]
    helps := false, unit := 0 }
/-- The instruction enters the rendezvous latch with its rows read (R253, R255, R256). -/
def goMat (kind : Nat) (f : XM) (s : State) (v : View) : Except Stop State :=
  match s.team? v.g.id.team with
  | none => .error .wait
  | some t =>
    let r := matRegs kind
    let rows := (latchHit kind f v).getD (v.lanes.map fun i => (i, (List.range r).map fun j => v.elem (f.a.toNat + j) i))
    let latch : Option Latch := if f.ru == 1 then some ⟨f.a.toNat, r, v.c.lanes, rows⟩ else none
    let x : MatInstr := ⟨v.g.id.grp, v.c.cid, kind, f, rows, v.c.origin v.iss.w0 v.iss.w1,
      (t.consistOf v.g.core v.g.id.grp).map (·.point)⟩
    let g := { v.g.hold v.c.cid .latch with latch := latch }
    .ok ((s.putGroup g).putTeam { t with latched := t.latched ++ [x] })
/-- A matrix instruction; one that waits in the latch goes on waiting. -/
def matrix (kind : Nat) (f : XM) (s : State) : Out :=
  match s.view with
  | none => .refused .noCohort
  | some v => if v.c.prog == .latch then .next s else runFull 0 (gateMat kind f) (goMat kind f) s
def execMma (f : XM) (s : State) : Out := matrix 0 f s
def execMmaQ (f : XM) (s : State) : Out := matrix 1 f s
def execMmaMx (f : XM) (s : State) : Out := matrix 2 f s

/-! ## Accumulators (R259 to R261, R101) -/

/-- Whether a running operation updates a tile of the group (R249). -/
def State.tileBusy (s : State) (v : View) (c : Nat) : Bool :=
  (s.core v.g.core).runs.any fun r => r.team == v.g.id.team && r.instrs.any fun x => x.grp == v.g.id.grp && x.f.c.toNat == c
/-- Registers of a read-out: 32 f32 values or 16 bf16 pairs. -/
def accRegs (f : XM) : Nat := if f.fmt == 0 then 32 else 16
/-- Checks of the accumulator instructions. -/
def gateAcc (f : XM) (read write : Bool) (_s : State) (v : View) : Gate :=
  let n := accRegs f
  { chk := (if read || write then [(v.vOk f.a.toNat n, 2)] else []) ++ [(v.tileOk f.c.toNat, 8)]
    src := if write then [⟨aCode f, n, false, 0⟩] else [], dst := if read then [(aCode f, n)] else [], masks := [], vals := []
    late := if read || write then [⟨!(v.g.tile f.c.toNat).bad, codeUE, 5, 0⟩] else [], helps := false, unit := 0 }
def goAccZero (f : XM) (s : State) (v : View) : Except Stop State :=
  if s.tileBusy v f.c.toNat then .error .wait
  else .ok ((s.putGroup (v.g.putTile f.c.toNat (Tile.zero v.g.width))).pass v 1)
def execAccZero (f : XM) (s : State) : Out := runFull 0 (gateAcc f false false) (goAccZero f) s
/-- Register `j` of a read-out in home lane `i` (R259). -/
def accWord (f : XM) (t : Tile) (i j : Nat) : W32 :=
  if f.fmt == 0 then BitVec.ofNat 32 (f32.encode .rne false (t.value i j))
  else BitVec.ofNat 32 (bf16.encode .rne false (t.value i (2 * j)) + 2 ^ 16 * bf16.encode .rne false (t.value i (2 * j + 1)))
/-- R61: the registers that a read of an accumulator names become empty, its values on their way to them. -/
def State.accOp (s : State) (v : View) (width : Nat) (dest : Dest) (l : List (Nat × Nat)) : State :=
  (s.putGroup (v.g.emptyDest dest)).addOp { s.blankOp v .acc 0 width v.c.lanes with
    dest := dest, parts := l.map fun x => ⟨x.1, 0, width, .bank 0 0, 0, 0, x.2, .done, false, false⟩ }
def goAccRead (f : XM) (s : State) (v : View) : Except Stop State :=
  if s.tileBusy v f.c.toNat then .error .wait
  else
    let t := v.g.tile f.c.toNat
    let n := accRegs f
    let row := fun (i : Nat) => (List.range n).foldr (fun j acc => (accWord f t i j).toNat + 2 ^ 32 * acc) 0
    .ok ((s.accOp v (4 * n) (.v f.a.toNat n false) (v.lanes.map fun i => (i, row i))).pass v 1)
def execAccRead (f : XM) (s : State) : Out := runFull 0 (gateAcc f true false) (goAccRead f) s
/-- The value that register block `A` gives element (i, j) (R260). -/
def accValue (f : XM) (v : View) (i j : Nat) : FVal :=
  if f.fmt == 0 then f32.decode (v.elem (f.a.toNat + j) i).toNat
  else bf16.decode ((v.elem (f.a.toNat + j / 2) i).toNat / 2 ^ (16 * (j % 2)) % 2 ^ 16)
/-- R260: the cohort's rows cleared, then one step of the registers' values. -/
def Tile.clearRows (t : Tile) (lanes : Lanes) : Tile :=
  { t with man := t.man.zipIdx.map (fun r => if lanes.getLsbD r.2 then List.replicate 32 0 else r.1)
           cls := t.cls.zipIdx.map (fun r => if lanes.getLsbD r.2 then List.replicate 32 .fin else r.1) }
def goAccWrite (f : XM) (s : State) (v : View) : Except Stop State :=
  if s.tileBusy v f.c.toNat then .error .wait
  else
    let t := (v.g.tile f.c.toNat).clearRows v.c.lanes
    let t := t.accumulate fun i j => if v.c.lanes.getLsbD i then [accValue f v i j] else []
    .ok ((s.putGroup (v.g.putTile f.c.toNat t)).pass v 1)
def execAccWrite (f : XM) (s : State) : Out := runFull 0 (gateAcc f false true) (goAccWrite f) s
/-- Checks of `acc.exp`. -/
def gateAccExp (f : XE) (_s : State) (v : View) : Gate :=
  { chk := [(v.dDst f.d, 1), (v.tileOk f.c.toNat, 8)], src := [], dst := [(f.d, 1)], masks := [], vals := []
    late := [⟨!(v.g.tile f.c.toNat).bad, codeUE, 5, 0⟩], helps := false, unit := 0 }
def goAccExp (f : XE) (s : State) (v : View) : Except Stop State :=
  if s.tileBusy v f.c.toNat then .error .wait
  else
    let e := (BitVec.ofInt 64 (((v.g.tile f.c.toNat).exp).getD (-32768))).toNat
    let dest : Dest := match opd f.d with
      | .v r => .v r 1 v.whole
      | .s r => .s r
      | _ => .none
    .ok ((s.accOp v (match dest with | .s _ => 8 | _ => 4) dest (v.lanes.map fun i => (i, e))).pass v 1)
def execAccExp (f : XE) (s : State) : Out := runFull 0 (gateAccExp f) (goAccExp f) s

/-! ## Joint operations (R47, R48, R171, R256, R336, R392) -/

/-- The latched instructions that would run together with a group's: all of the consist it was issued under, once each listed group
has one, or its own alone; with the consist. -/
def Team.ready (t : Team) (core grp : Nat) : Option (List MatInstr × Option Consist) :=
  match t.latched.find? fun x => x.grp == grp with
  | none => none
  | some x =>
    match t.consists.find? fun c => c.core == core && c.holds x with
    | none => some ([x], none)
    | some c =>
      let l := t.latched.filter c.holds
      if c.members.all fun i => l.any fun y => y.grp == i then some (l, some c) else none
/-- The platforms an instruction reads. -/
def MatInstr.plats (x : MatInstr) : List Nat := if x.kind = 0 then [x.f.pl.toNat] else [x.f.pl.toNat, x.f.spl.toNat]
/-- The instructions leave the latch. -/
def State.unlatch (s : State) (t : TeamId) (l : List MatInstr) : State :=
  match s.team? t with
  | none => s
  | some x => s.putTeam { x with latched := x.latched.filter fun y => !l.any fun z => z.grp == y.grp }
/-- A latched instruction is over: its cohort goes on. -/
def State.latchPass (s : State) (t : TeamId) (x : MatInstr) : State :=
  match s.group? ⟨t, x.grp⟩ with
  | none => s
  | some g => s.putGroup (g.advance x.cid 1)
/-- A latched instruction raises a fault and has no effect. -/
def State.latchRaise (s : State) (t : TeamId) (x : MatInstr) (code detail va : Nat) : State :=
  match s.group? ⟨t, x.grp⟩ with
  | none => s
  | some g =>
    match g.cohort? x.cid with
    | none => s
    | some c => (s.raise g { c with prog := .none } x.org code detail va 0 0 c.lanes []).dateRecord g.id c.lastIssue
/-- A platform's bytes as a core's matrix engine reads them. -/
def State.platBytesOf (s : State) (t : TeamId) (core n : Nat) : List Host.Cell := ((s.plat? t core n).map (·.bytes)).getD []
/-- A matrix operation starts once its platforms' writes have completed. -/
def State.jointStart (s : State) (gid : GroupId) : State :=
  match s.team? gid.team, s.group? gid with
  | some t, some g =>
    match t.ready g.core gid.grp with
    | none => s
    | some (l, cst) =>
      let core := g.core
      let plats := l.flatMap MatInstr.plats
      let outstanding := plats.any fun n => !(((s.plat? t.id core n).map (·.writes)).getD []).isEmpty
      let bad := plats.any fun n => ((s.plat? t.id core n).map (·.bad)).getD false
      if outstanding then s
      else
        let s := s.unlatch t.id l
        let c := s.core core
        let mirrored := c.runs.isEmpty && decide (total l (fun x => x.rows.length) ≤ 32)
        if bad then l.foldl (fun s x => s.latchRaise t.id x codeUE 5 0) s
        else if c.mirror && mirrored then
          let s := s.putCore core { c with mirror := false }
          match sortBy (·.grp) l with
          | [] => s
          | x :: rest =>
            let s := rest.foldl (fun s y => s.latchPass t.id y) (s.latchRaise t.id x codeMIRROR 0 0)
            match cst with
            | none => s
            | some k => s.pointError t.id k.point codeMIRROR
        else
          match l with
          | [] => s
          | x :: _ =>
            let run : MatRun := ⟨s.nextId, t.id, l, s.platBytesOf t.id core x.f.pl.toNat,
              s.platBytesOf t.id core x.f.spl.toNat, s.now core, cst.map (·.point)⟩
            let s := l.foldl (fun s x => s.latchPass t.id x) s
            { s.putCore core { c with runs := c.runs ++ [run] } with nextId := s.nextId + 1 }
  | _, _ => s
def execJointOperationStart (g : GroupId) (s : State) : Out := .next (s.jointStart g)

/-- Cycles of an operation: 4 for each 16-row step (R256). -/
def State.runCycles (s : State) (r : MatRun) : Nat :=
  4 * max 1 (total r.instrs fun x => (((s.group? ⟨r.team, x.grp⟩).map (·.width)).getD 16) / 16)
/-- R48: a joint operation counts as one arrival by every listed group. -/
def State.countJoint (s : State) (r : MatRun) (n : Nat) : State :=
  match s.team? r.team with
  | none => s
  | some t =>
    let phase := (t.point n).phase
    let s := s.mapPoint t.id n fun p => { p with arrivals := p.expected }
    let listed := fun (g : Group) => g.id.team == t.id && r.instrs.any fun x => x.grp == g.id.grp
    let mark := fun (g : Group) => if listed g then { g with lastArr := g.lastArr.set n (some phase) } else g
    let s : State := { s with groups := s.groups.map mark }
    (s.pointFull t.id n).pointRelease t.id n
/-- R48, R253: the oldest operation of a core completes: tiles take their contributions, its point completes one phase. -/
def State.jointDone (s : State) (core id : Nat) : State :=
  let c := s.core core
  match c.runs with
  | [] => s
  | r :: rest =>
    let completing := match r.point, s.team? r.team with
      | some n, some t => decide ((t.point n).expected ≤ (t.point n).arrivals)
      | _, _ => false
    if r.id != id || decide (s.now core < r.start + s.runCycles r) || completing then s
    else
      let s := s.putCore core { c with runs := rest }
      let s := r.instrs.foldl (fun s x =>
        match s.group? ⟨r.team, x.grp⟩ with
        | none => s
        | some g => s.putGroup (g.product x r.b r.scale)) s
      match r.point with
      | none => s
      | some n => s.countJoint r n
def execJointOperationComplete (core run : Nat) (s : State) : Out := .next (s.jointDone core run)

/-! ## The end of a platform load (R262, R336, R376, R378) -/

/-- R336: matrix operations that await a failed write are abandoned. -/
def State.abandon (s : State) (t : TeamId) (core n code : Nat) : State :=
  match s.team? t with
  | none => s
  | some x =>
    let heads := (x.latched.filter fun y => y.plats.contains n).map (·.grp)
    heads.foldl (fun s grp =>
      match s.team? t, s.group? ⟨t, grp⟩ with
      | some x, some g =>
        if g.core != core then s
        else
          match x.ready core grp with
          | none => s
          | some (l, none) => l.foldl (fun s y => s.latchRaise t y codeHANDLE code 0) (s.unlatch t l)
          | some (l, some c) => (l.foldl (fun s y => s.latchPass t y) (s.unlatch t l)).pointError t c.point code
      | _, _ => s) s
/-- The record of a failed operation (R378). -/
def State.engineRec (s : State) (gid : GroupId) (code va : Nat) : FaultRec :=
  ⟨codeENGINE, code, some gid, 0, ((s.group? gid).map (·.core)).getD 0, 0, Origin.none, 0, 0, va % 2 ^ 56, s.time, [],
    s.identOf gid, s.tick⟩
/-- The first refused part of a load. -/
def MemOp.refusal (o : MemOp) : Option (Nat × Nat × Nat) :=
  o.parts.findSome? fun p =>
    match p.st, p.loc with
    | .nack code detail _, .glob va => some (code, detail, va)
    | .nack code detail _, .bank _ off => some (code, detail, off)
    | _, _ => none
/-- The bytes of a part of a load as cells of its platform. -/
def Part.cells (p : Part) : List Host.Cell :=
  (List.range p.n).filterMap fun i =>
    let b : Byte := BitVec.ofNat 8 (p.got / 256 ^ i)
    if b = 0 then none else some (p.off + i, b)
/-- R262: a load is over: the platform holds its bytes, or zero where it failed. -/
def State.pldDone (s : State) (id : Nat) : State :=
  match s.op? id with
  | none => s
  | some o =>
    match o.dest, s.group? o.gid with
    | .plat n _, some g =>
      let first := ((s.plat? g.id.team g.core n).map fun p => p.writes.head? == some id).getD true
      let pending := o.parts.any fun p => p.st.isOpen
      let part := g.id.team.grid.part
      if o.kind != .pld || !first || pending then s
      else
        match o.refusal with
        | none =>
          ((s.dropOp id).platWritten g.id.team g.core n id (o.parts.flatMap Part.cells)).complete part o.tok platBytes
        | some (code, _, va) =>
          let s := ((s.dropOp id).platWritten g.id.team g.core n id []).failOp part o.tok code 0
          (s.post o.asid (s.engineRec o.gid code va)).abandon g.id.team g.core n code
    | _, _ => s
def execPLdComplete (op : Nat) (s : State) : Out := .next (s.pldDone op)

end Sys2Proof.Machine
end

