-- ==== Sys2Proof/Machine/Recruit.lean ====
section
/-! DEFINITION. Machine/Recruit.lean: the release of meetings and recruitment (02_execution R28, R37 to R45, 12_engines_system
R282, R283, 18_faults R341). -/

namespace Sys2Proof.Machine

/-! ## Meetings (R28) -/

/-- Whether a thread owes a meeting. -/
def Thread.owes (t : Thread) (m : Meeting) : Bool := t.meet == m || t.stack.contains m
/-- Whether it has arrived at it. -/
def Thread.arrived (t : Thread) (m : Meeting) : Bool := t.meet == m && t.wait.isSome
/-- The threads that wait at a meeting. -/
def Group.waiting (g : Group) (m : Meeting) : List Nat := (List.range g.width).filter fun i => (g.thread i).arrived m
/-- Whether every thread that owes a meeting has arrived at it. -/
def Group.due (g : Group) (m : Meeting) : Bool :=
  !(g.waiting m).isEmpty && (List.range g.width).all fun i => !(g.thread i).owes m || (g.thread i).arrived m
/-- R28: a released thread's meeting register is popped. -/
def Thread.released (t : Thread) : Thread :=
  match t.stack with
  | [] => { t with meet := ⟨0, 0⟩, wait := none }
  | m :: rest => { t with meet := m, stack := rest, wait := none }
/-- R37: the tags of the lend registers at a release. -/
def Group.lendTags (g : Group) : Group :=
  (List.range g.lendCount).foldl (fun g j => g.putVreg (g.lend0 + j) { g.vreg (g.lend0 + j) with tag := .g }) g
/-- R28: the waiting threads released as one cohort at the word after the `join`. -/
def Group.releaseMeeting (g : Group) (m : Meeting) : Group :=
  let lanes := g.waiting m
  if !g.due m || lanes.any fun i => (g.thread i).hosting then g
  else
    match (lanes.head?).bind fun i => (g.thread i).wait with
    | none => g
    | some w =>
      let g := (g.mapThreads lanes Thread.released).lendTags
      let c : Cohort := ⟨g.nextCid, lanesFrom lanes, m.at_, w.word, true, w.count, w.cls, w.yld, .none, false, none, false, 0⟩
      ({ g with cohorts := g.cohorts ++ [c], nextCid := g.nextCid + 1 }).advance g.nextCid 1
def execJoinRelease (g : GroupId) (meet depth : Nat) (s : State) : Out :=
  match s.resident? g with
  | none => .next s
  | some x => .next (s.putGroup (x.releaseMeeting ⟨meet, depth⟩))

/-! ## `recruit` (R38, R39, R282) -/

/-- Checks of `recruit`; its exports are registers tagged U or A. A nested one raises HELPER 1 whatever registers it names (R341).
-/
def gateRecruit (f : RecruitF) (_s : State) (v : View) : Gate :=
  let e := f.imm.toNat
  let req := (v.uni f.a).toNat
  let chunks := (v.uni f.b).toNat
  let xb := f.xb.toNat
  let bad := (List.range e).find? fun j => decide (v.g.vregs ≤ xb + j) || (v.g.vreg (xb + j)).tag == .g
  { chk := [(v.dDst f.d, 1), (v.uniOk f.a, 2), (v.uniOk f.b, 3)]
    src := [arg f.a 0 0, arg f.b 0 0] ++
      (if e ≤ 8 && xb + e ≤ v.g.vregs && e != 0 && !v.helping then [⟨f.xb.setWidth 7, e, false, 0⟩] else [])
    dst := if v.helping then [] else [(f.d, 1)]
    masks := [], vals := []
    late := [⟨decide (e ≤ 8) && decide (1 ≤ req) && decide (req ≤ 64) && decide (chunks ≤ 256), codeOPERAND, 0, 0⟩,
      ⟨!v.helping, codeHELPER, 1, 0⟩, ⟨bad.isNone, codeEXPORT, bad.getD 0, 0⟩]
    helps := true, unit := 0 }

/-- Helper frames of a quadrant in use (R38). -/
def State.usedFrames (s : State) (g : Group) : Nat :=
  total (s.groups.filter fun x => x.core == g.core && x.quad == g.quad && !x.slots.isEmpty) fun x =>
    (x.recruits.filter fun r => r.frame).length
/-- Whether a group stands in the siding (R326): a record is to be serviced or made, or its replay is not over (R373 step 4). -/
def Group.parked (g : Group) : Bool := g.records != 0 || g.nacked || g.closed.any (·.replaying)
/-- R38: the idle threads a recruiter may borrow, in the order helpers are chosen. -/
def State.idleThreads (s : State) (g : Group) : List (GroupId × Nat) :=
  let others := sortBy (fun x => x.id.grp)
    (s.groups.filter fun x => x.id.team == g.id.team && x.id != g.id && x.core == g.core && x.quad == g.quad)
  (g :: others).flatMap fun x =>
    if x.parked then []
    else ((List.range x.width).filter fun i => (x.thread i).wait.isSome && !(x.thread i).hosting).map fun i => (x.id, i)
/-- R38: grant and WHY. -/
def State.grant (s : State) (v : View) (g : Group) (req chunks : Nat) : Nat × Nat :=
  let want := min req (max chunks 1)
  if v.shadow then (1, 4)
  else if g.lendCount = 0 then (1, 3)
  else if 2 ≤ want && quadFrames ≤ s.usedFrames g then (1, 2)
  else
    let n := min want (1 + (s.idleThreads g).length)
    (n, if n < want then 1 else 0)
/-- A host thread taken, or given back. -/
def State.setHosting (s : State) (gid : GroupId) (lane : Nat) (b : Bool) : State :=
  match s.group? gid with
  | none => s
  | some g => s.putGroup (g.putThread lane { g.thread lane with hosting := b })
/-- The frame of a hosted helper: its host's lend registers (R40). -/
def Group.frame (g : Group) (lane : Nat) : List Lend :=
  (List.range g.lendCount).map fun j => let x := g.vreg (g.lend0 + j); ⟨g.elem (g.lend0 + j) lane, x.full, x.tag, false, x.bad⟩
/-- A helper's cohort of one at the entry clause. -/
def helperCohort (cid lane entry : Nat) (h : Helper) : Cohort :=
  ⟨cid, oneLane lane, entry, 1, false, 0, .s, false, .none, false, some h, false, 0⟩
/-- RECRUIT.WHY (R39). -/
def whyWord (why grant chunks : Nat) : W64 := BitVec.ofNat 64 (why + grant * 2 ^ 8 + chunks * 2 ^ 16)
/-- One recruitment, of the thread in home lane `lane` (R38, R39): RECRUIT.WHY, the recruitment, helper 0 and the hosted
helpers; answers the grant. -/
def State.recruitOne (s : State) (v : View) (f : RecruitF) (entry lane : Nat) : State × Nat :=
  match s.group? v.g.id with
  | none => (s, 0)
  | some g =>
    let chunks := (v.uni f.b).toNat
    let r := s.grant v g (v.uni f.a).toNat chunks
    let hosts := (s.idleThreads g).take (r.1 - 1)
    let exports := (List.range f.imm.toNat).map fun j =>
      let k := f.xb.toNat + j
      (v.elem k lane, if (g.vreg k).tag == .a then v.elem k 1 - v.elem k 0 else 0)
    let rec' : Recruitment := ⟨s.nextId, lane, (g.thread lane).depth, chunks, 0, exports, [], hosts.length, r.1 != 1, []⟩
    let helpers := hosts.zipIdx.map fun p =>
      let frame := match s.group? p.1.1 with
        | none => []
        | some hg => hg.frame p.1.2
      helperCohort (g.nextCid + 1 + p.2) lane entry ⟨s.nextId, p.2 + 1, lane, p.1.1, p.1.2, frame⟩
    let me := helperCohort g.nextCid lane entry ⟨s.nextId, 0, lane, g.id, lane, []⟩
    let g := { g with
      why := whyWord r.2 r.1 chunks
      recruits := g.recruits ++ [rec']
      cohorts := g.cohorts ++ (me :: helpers).map fun (c : Cohort) => { c with lastIssue := s.tick }
      nextCid := g.nextCid + 1 + hosts.length }
    let s : State := { s.putGroup g with nextId := s.nextId + 1 }
    (hosts.foldl (fun s p => s.setHosting p.1 p.2 true) s, r.1)
/-- R38: every thread of the cohort recruits, in ascending home lane; D takes the grants. -/
def goRecruit (f : RecruitF) (s : State) (v : View) : Except Stop State :=
  afterRelease s v allTracks fun s =>
    let s := s.acquireAll v.g
    let entry := target v.c.clause f.entry
    let r : State × List (Nat × Nat) := v.lanes.foldl (fun (acc : State × List (Nat × Nat)) i =>
      let x := acc.1.recruitOne v f entry i
      (x.1, acc.2 ++ [(i, x.2)])) (s, [])
    match r.1.group? v.g.id with
    | none => .ok r.1
    | some g =>
      let g := match opd f.d with
        | .v n => g.setV n v.c.lanes (fun i => BitVec.ofNat 32 ((assoc i r.2).getD 0)) .g
        | _ => g.setS (regNo f.d) (BitVec.ofNat 64 ((r.2.getLast?.map fun (p : Nat × Nat) => p.2).getD 0))
      let g := if v.c.yld then { g with yielded := true } else g
      .ok (r.1.putGroup (g.dropCohort v.c.cid))
def execRecruit (f : RecruitF) (s : State) : Out := runFull 0 (gateRecruit f) (goRecruit f) s

/-! ## Helper instructions (R41 to R43, R283, R341) -/

/-- The helper a cohort runs as. -/
def View.helper (v : View) : Option Helper := v.c.helper
/-- Whether the cohort is helper 0 of a recruitment. -/
def View.first (v : View) : Bool := v.helping && !v.hosted
/-- The group with a change to a recruitment. -/
def Group.mapRecruit (g : Group) (id : Nat) (h : Recruitment → Recruitment) : Group :=
  { g with recruits := g.recruits.map fun r => if r.id == id then h r else r }

/-- Checks of `hnext`: only a helper may use it. Its destination may be an s code, the one write of a helper body to a scalar register
(R283). -/
def gateHnext (f : Y) (_s : State) (v : View) : Gate :=
  { chk := [(v.dDst f.a, 2)], src := [], dst := if v.helping && isS f.a then [] else [(f.a, 1)], masks := [], vals := []
    late := [⟨v.helping, codeHELPER, 1, 0⟩], helps := true, unit := 0 }
/-- R45: whether a hosted helper is under forced release: noted, its host's meeting due, or a team to be pre-empted. -/
def State.underForce (s : State) (v : View) (h : Helper) (r : Recruitment) : Bool :=
  h.k != 0 && (r.forced.contains h.k ||
    (match s.group? h.host with
     | none => false
     | some hg => hg.due (hg.thread h.hostLane).meet) ||
    ((s.team? v.g.id.team).map (·.stop)).getD false || ((s.team? h.host.team).map (·.stop)).getD false)
/-- R41: the lowest chunk index not yet handed out, or −1. -/
def goHnext (f : Y) (s : State) (v : View) : Except Stop State :=
  if v.isEmpty f.a 1 then .error .wait
  else
  match v.helper, v.recruitment with
  | some h, some r =>
    let none' := s.underForce v h r || decide (r.chunks ≤ r.next)
    let x : W32 := if none' then 0xFFFFFFFF#32 else BitVec.ofNat 32 r.next
    let g := if none' then v.g else v.g.mapRecruit r.id fun r => { r with next := r.next + 1 }
    let g := match opd f.a with
      | .v n => v.writeV g n v.c.lanes (fun _ => x) .g
      | _ => g.setS (regNo f.a) (x.setWidth 64)
    .ok ((s.putGroup g).pass v 1)
  | _, _ => .error .wait
def execHnext (f : Y) (s : State) : Out := runFull 0 (gateHnext f) (goHnext f) s

/-- What a deposit breaks (R341): its chunk, a third destination, a second contribution, another kind. -/
def depositOk (f : Y) (isF32 : Bool) (v : View) : Bool :=
  match v.recruitment with
  | none => true
  | some r =>
    let chunk := (v.r32 .word f.b v.lane0).toNat
    let dest := f.imm.toNat
    let mine := r.deposits.filter fun d => d.dest == dest
    let others := (r.deposits.filter fun d => d.dest != dest).map (·.dest)
    decide (chunk < r.chunks) && (!mine.isEmpty || others.all fun d => others.head? == some d) &&
      mine.all fun d => d.chunk != chunk && d.isF32 == isF32
/-- Checks of `hsum`. -/
def gateHsum (f : Y) (isF32 : Bool) (_s : State) (v : View) : Gate :=
  { chk := [(v.srcOk f.a, 2), (v.srcOk f.b, 3), (decide (f.imm.toNat < v.g.vregs), 6)]
    src := [arg f.a 0 0, arg f.b 0 0], dst := [], masks := [], vals := []
    late := [⟨v.helping, codeHELPER, 1, 0⟩, ⟨depositOk f isF32 v, codeHELPER, 2, 0⟩], helps := true, unit := 0 }
/-- R42: a contribution deposited in the frame. -/
def goHsum (f : Y) (isF32 : Bool) (s : State) (v : View) : Except Stop State :=
  match v.recruitment with
  | none => .error .wait
  | some r =>
    let d : Deposit := ⟨f.imm.toNat, (v.r32 .word f.b v.lane0).toNat, isF32, v.r32 .word f.a v.lane0⟩
    .ok ((s.putGroup (v.g.mapRecruit r.id fun r => { r with deposits := r.deposits ++ [d] })).pass v 1)
def execHsumF32 (f : Y) (s : State) : Out := runFull 0 (gateHsum f true) (goHsum f true) s
def execHsumI32 (f : Y) (s : State) : Out := runFull 0 (gateHsum f false) (goHsum f false) s

/-- Checks of `hdone`. -/
def gateHdone (_s : State) (v : View) : Gate :=
  { chk := [], src := [], dst := [], masks := [], vals := [], late := [⟨v.hosted, codeHELPER, 1, 0⟩], helps := true, unit := 0 }
/-- The host group with the lend registers that a helper wrote (R37, R64). -/
def Group.takeLend (g : Group) (lane : Nat) (l : List Lend) : Group :=
  l.zipIdx.foldl (fun g p =>
    if p.1.written then
      let x := g.vreg (g.lend0 + p.2)
      g.putVreg (g.lend0 + p.2) { x with lanes := x.lanes.set lane p.1.val }
    else g) g
/-- R43: a hosted helper ends once its loads have returned; its host waits at its join again. -/
def goHdone (s : State) (v : View) : Except Stop State :=
  match v.helper with
  | none => .error .wait
  | some h =>
    if h.lend.any fun l => l.written && !l.full then .error .wait
    else
      let g := (v.g.mapRecruit h.recr fun r => { r with hosted := r.hosted - 1, forced := r.forced.filter fun k => k != h.k }).dropCohort v.c.cid
      let s := s.putGroup g
      match s.group? h.host with
      | none => .ok s
      | some hg => .ok ((s.putGroup (hg.takeLend h.hostLane h.lend)).setHosting h.host h.hostLane false)
def execHdone (_f : Y) (s : State) : Out := runFull 0 gateHdone goHdone s

/-- Checks of `hjoin`: helper 0. -/
def gateHjoin (_s : State) (v : View) : Gate :=
  { chk := [], src := [], dst := [], masks := [], vals := [], late := [⟨v.first, codeHELPER, 1, 0⟩], helps := true, unit := 0 }
/-- R42: the sum of the contributions to one destination, in ascending chunk order. -/
def depositSum (l : List Deposit) : W32 :=
  (sortBy (·.chunk) l).foldl (fun acc d => if d.isF32 then Machine.fadd acc d.val else acc + d.val) 0
/-- R43: the destinations written in the recruiter's lane, the recruitment over, the recruiter past its `hjoin`. -/
def State.endRecruit (s : State) (v : View) (r : Recruitment) : State :=
  let dests := (r.deposits.map (·.dest)).eraseDups
  if dests.any fun d => !(v.g.vreg d).full then s
  else
    let g := dests.foldl (fun g d => g.setV d (oneLane r.lane) (fun _ => depositSum (r.deposits.filter fun x => x.dest == d)) .g) v.g
    let g := { g.putCohort { v.c with helper := none } with recruits := g.recruits.filter fun x => x.id != r.id }
    ((s.putGroup g).markAll g.id).pass v 1
def goHjoin (s : State) (v : View) : Except Stop State :=
  match v.recruitment with
  | none => .error .wait
  | some r => if r.hosted = 0 then .ok (s.endRecruit v r) else .ok (s.setProg v .hjoin)
def execHjoin (_f : Y) (s : State) : Out := runFull 0 gateHjoin goHjoin s

/-! ## Events -/

/-- R43: the last hosted helper is done and the recruiter goes on. -/
def State.hjoinDone (s : State) (gid : GroupId) (id : Nat) : State :=
  match s.group? gid with
  | none => s
  | some g =>
    let mine := fun (c : Cohort) => c.prog == .hjoin && !c.stopped && ((c.helper.map fun h => h.recr == id && h.k == 0).getD false)
    match g.cohorts.find? mine with
    | none => s
    | some c =>
      match (s.focus gid c.cid).view with
      | none => s
      | some v =>
        match v.recruitment with
        | some r => if r.hosted = 0 then s.endRecruit v r else s
        | none => s
def execHjoinComplete (g : GroupId) (rec : Nat) (s : State) : Out := .next (s.hjoinDone g rec)

/-- R45: a meeting due for release whose threads host helpers: those helpers take no further chunk. -/
def State.forceRelease (s : State) (gid : GroupId) (m : Meeting) : State :=
  match s.resident? gid with
  | none => s
  | some g =>
    if !g.due m then s
    else
      let hosts := (g.waiting m).filter fun i => (g.thread i).hosting
      { s with groups := s.groups.map fun (x : Group) =>
          x.cohorts.foldl (fun (x : Group) c =>
            match c.helper with
            | none => x
            | some h =>
              if h.k != 0 && h.host == gid && hosts.contains h.hostLane then
                x.mapRecruit h.recr fun r => { r with forced := r.forced ++ [h.k] }
              else x) x }
def execForcedRelease (g : GroupId) (meet depth : Nat) (s : State) : Out := .next (s.forceRelease g ⟨meet, depth⟩)

end Sys2Proof.Machine
end

