-- ==== Sys2Proof/Machine/Teams.lean ====
section
/-! DEFINITION. Machine/Teams.lean: how groups and teams end: `exit` (08_scalar_control R190), and what a team's end frees and
drains (02_execution R31, 05_memory R406, 13_scheduling R306, 21_faults_containment R389). -/

namespace Sys2Proof.Machine

/-! ## Deferred rounds (R389) -/

/-- The operation a deferred entry becomes at its team's end. -/
def State.deferredOp (s : State) (asid core : Nat) (e : Entry) (round : Nat) : MemOp :=
  { id := s.nextId, kind := .red e.op, gid := e.gid, cid := e.cid, core := core, asid := asid, trk := e.trk, round := some round, hold := none
    lanes := lanesFrom (e.parts.map (·.1)), dest := .none, width := e.op.width, org := e.org
    ep := 0, bypass := true, strm := false, gen := 0, tick := e.tick, fence := 0
    parts := e.parts.map fun p => ⟨p.1, 0, e.op.width, .glob p.2.1, p.2.2, 0, 0, .waiting, false, false⟩
    lo := 0, hi := 0, pos := 0, priv := none, tok := 0, pc := false }
/-- One core's deferred entries of an ended team as one round, in the order of R167. -/
def State.drainDeferred (s : State) (asid core : Nat) (l : List Entry) : State :=
  let round := s.nextRound
  (sortBy (·.key) l).foldl (fun s e =>
    { s with ops := s.ops ++ [s.deferredOp asid core e round], nextId := s.nextId + 1 }) { s with nextRound := round + 1 }

/-! ## The end of a group and of a team -/

/-- A row of a group shut, in whatever state it is. -/
def State.shutRows (s : State) (core : Nat) (mine : RowEntry → Bool) : State :=
  ((s.core core).rows.filter mine).foldl (fun s r => s.shutRow core r) s
/-- A core without what it holds of a team: takes, freed entries that no activation is owed to, matrix operations. -/
def Core.dropTeam (c : Core) (t : TeamId) : Core :=
  { c with takes := c.takes.filter (fun x => x.gid.team != t)
           gone := c.gone.filter (fun r => r.gid.team != t || r.st == .opening)
           runs := c.runs.filter fun r => r.team != t }
/-- R405: a bank given back: way mode with no valid lines. -/
def State.freeBank (s : State) (pair b : Nat) : State :=
  let p := s.pair pair
  s.putPair pair ({ p with l1 := p.l1.filter fun l => l.bank != b }.putBank b CBank.reset)
/-- `n` sectors of a context's save reserve back in the free pool (R306). -/
def State.freeReserve (s : State) (asid n : Nat) : State :=
  match s.ctx? asid with
  | none => s
  | some c => s.putCtx { c with saveReserve := c.saveReserve - n }
/-- R31: a team's resources become free. `drain` its deferred entries, or discard them (R388). -/
def State.removeTeam (s : State) (t : Team) (drain : Bool) : State :=
  let s := (s.coresOf t.id).foldl (fun s core =>
    let s := s.shutRows core fun r => r.gid.team == t.id
    let s := s.putCore core ((s.core core).dropTeam t.id)
    let q := ((s.grid? t.id.grid).map (·.q)).getD ⟨0, 0, 0, 0, 0, 0, 0, 0⟩
    let mine := t.deferred.filter fun e => q.groupCore t.core e.gid.grp == core
    if drain && !mine.isEmpty then s.drainDeferred t.asid core mine else s) s
  let s := t.banks.foldl (fun s b => s.freeBank (pairOf t.core) b) s
  let s := s.freeReserve t.asid t.reserve
  let s := match s.ctx? t.asid with
    | none => s
    | some c => s.putCtx { c with free := c.free + t.deferredRoom / 64 }
  { s with teams := s.teams.filter fun x => x.id != t.id
           groups := s.groups.filter fun g => g.id.team != t.id
           ops := s.ops.filter fun o => o.gid.team != t.id || (o.round.isSome && !o.pc) }
/-- R31: a team whose last group has ended. -/
def State.endTeam (s : State) (id : TeamId) : State :=
  match s.team? id with
  | none => s
  | some t =>
    if s.groups.any fun g => g.id.team == id then s
    else
      let s := s.removeTeam t true
      match s.grid? id.grid with
      | none => s
      | some g => s.putGrid { g with ended := g.ended ++ [id.team] }
/-- R190 step 5, R31: a group ends, and its team with its last group. -/
def State.endGroup (s : State) (gid : GroupId) : State :=
  { s with groups := s.groups.filter fun g => g.id != gid
           ops := s.ops.filter fun o => o.gid != gid }.endTeam gid.team

/-! ## `exit` (R190) -/

/-- Checks of `exit`: the cohort is the whole home group (R341). -/
def gateExit (_s : State) (v : View) : Gate :=
  { chk := [], src := [], dst := [], masks := [], vals := [], late := [⟨v.whole, codeDIVEXIT, 0, 0⟩]
    helps := false, unit := 1 }
/-- R190 step 4: the group leaves its consist; instructions waiting in its latch raise CONSIST 6 (R355). -/
def State.leaveConsist (s : State) (v : View) : State :=
  match s.team? v.g.id.team with
  | none => s
  | some t =>
    match t.consistOf v.g.core v.g.id.grp with
    | none => s
    | some c =>
      let l := t.latched.filter c.holds
      (l.foldl (fun s x => s.latchRaise t.id x codeCONSIST 6 0) (s.unlatch t.id l)).dissolve t.id c
/-- Whether an operation that `exit` waits for is pending: tender, turntable, `p.ld`, a matrix operation. -/
def State.exitWaits (s : State) (g : Group) : Bool :=
  (s.engs.any fun e => e.gid == g.id) || (s.ops.any fun o => o.gid == g.id && o.kind == .pld) ||
    (s.core g.core).runs.any fun r => r.team == g.id.team && r.instrs.any fun x => x.grp == g.id.grp
/-- R190 steps 3 to 5. -/
def State.exitRest (s : State) (v : View) : State :=
  match s.group? v.g.id with
  | none => s
  | some g => if s.exitWaits g then s.setProg v .ending else (s.leaveConsist v).endGroup g.id
def goExit (s : State) (v : View) : Except Stop State :=
  if v.c.prog == .ending then .ok (s.exitRest v)
  else afterRelease s v allTracks fun s => .ok ((s.shutRows v.g.core fun r => r.gid == v.g.id).exitRest v)
def execExit (_f : BR) (s : State) : Out := runFull 0 gateExit goExit s

end Sys2Proof.Machine
end

