-- ==== Sys2Proof/Machine/Engines.lean ====
section
/-! DEFINITION. Machine/Engines.lean: the tender and the turntable: issue, chunks, completion, failure (12_engines_system R270 to
R279, 06_compression R139, 17_system R313 to R315, 19_faults_isa R356, R357, 20_faults_memory R375 to R378, 21 R390). -/

namespace Sys2Proof.Machine

/-! ## Addresses of engine operands (R270) -/

/-- An address operand as one number: offsets of cluster scratch stand from 2^60. -/
def scratchBase : Nat := 2 ^ 60
def engAddr (w : W64) : Nat := if addrSpace w = 1 then scratchBase + addrOff w else addrVa w
/-- Whether an address operand names a space. -/
def spaceOk (w : W64) : Bool := decide (addrSpace w ≤ 1)
/-- The bank and offset of a scratch address of an operation's team. -/
def State.engBank (s : State) (e : Engine) (a : Nat) : Nat × Nat :=
  (s.bankOf e.gid.team (a - scratchBase), (a - scratchBase) % bankBytes)
/-- The key of the line of an address of an operation. -/
def State.engKey (s : State) (e : Engine) (a : Nat) : Nat :=
  if scratchBase ≤ a then
    let b := s.engBank e a
    2 ^ 80 + b.1 * 2 ^ 16 + b.2 / lineBytes
  else s.lineKey e.asid a
/-- Scratch bytes of an operation's team. -/
def State.engBanks (s : State) (e : Engine) : Nat :=
  bankBytes * ((s.grid? e.gid.team.grid).map fun g => g.q.banks).getD 0
/-- What an operation's access to a piece of a line finds: code and DETAIL. -/
def State.pieceFault (s : State) (e : Engine) (a n : Nat) (wr : Bool) : Option (Nat × Nat) :=
  if scratchBase ≤ a then
    if s.engBanks e < a - scratchBase + n then some (codeXLATE, 4)
    else
      let b := s.engBank e a
      let x := (s.pair (pairOf e.core)).bank b.1
      if !wr && x.mode == .scratch && x.bad.any fun o => overlaps o 1 b.2 n then some (codeUE, 3) else none
  else s.engFault e.asid a n wr (e.kind == .row)
/-- The byte an operation reads at an address: of its snapshot, or as it stands. -/
def State.engByte (s : State) (e : Engine) (a : Nat) : Byte :=
  match e.snap with
  | some l => cellGet l a
  | none =>
    if scratchBase ≤ a then
      let b := s.engBank e a
      BitVec.ofNat 8 (((s.pair (pairOf e.core)).bank b.1).read b.2 1)
    else
      let t := s.canon e.asid a
      s.byte t.1 t.2.1
/-- `n` bytes an operation reads, little-endian. -/
def State.engNum (s : State) (e : Engine) (a n : Nat) : Nat :=
  match n with
  | 0 => 0
  | k + 1 => (s.engByte e a).toNat + 256 * s.engNum e (a + 1) k

/-! ## Tensor descriptors (R273, R357) -/

/-- A tensor descriptor. -/
structure Tensor where
  base : W64
  k : Nat
  n : Nat
  pitch : Nat
  elem : Nat
  smode : Nat
  gsz : Nat
  rsv : Nat
  aux : W64
  deriving DecidableEq, Repr

/-- Word `i` of a descriptor an operation has read. -/
def Engine.word (e : Engine) (i : Nat) : W64 := ((e.plan.getD [])[i]?).getD 0
/-- The descriptor in the four words from `i`. -/
def Engine.tensor (e : Engine) (i : Nat) : Tensor :=
  let w1 := (e.word (i + 1)).toNat
  let w2 := (e.word (i + 2)).toNat
  ⟨e.word i, bitsOf w1 0 32, bitsOf w1 32 32, bitsOf w2 0 32, bitsOf w2 32 4, bitsOf w2 36 2, bitsOf w2 38 2, bitsOf w2 40 24,
    e.word (i + 3)⟩
/-- Destination and source descriptors of `cp.cvt` and `cp.q`. -/
def Engine.dst (e : Engine) : Tensor := e.tensor 0
def Engine.src (e : Engine) : Tensor := e.tensor 4
/-- Elements of a group of scales. -/
def Tensor.group (t : Tensor) : Nat := if t.smode = 2 then 32 * 2 ^ t.gsz else 32
/-- A quotient rounded up. -/
def ceilDiv (a b : Nat) : Nat := (a + b - 1) / b
/-- Groups of a column, and bytes of a column in storage layout. -/
def Tensor.groups (t : Tensor) : Nat := ceilDiv t.k t.group
def Tensor.colBytes (t : Tensor) : Nat := ceilDiv (t.k * tyBits t.elem) 8
/-- R357: reserved bits, SMODE, GSZ and the spaces it names. -/
def Tensor.formed (t : Tensor) : Bool :=
  t.rsv == 0 && t.smode != 3 && t.gsz != 3 && spaceOk t.base && (t.smode == 0 || spaceOk t.aux)
/-- R357: K and N. -/
def Tensor.sized (t : Tensor) : Bool :=
  decide (1 ≤ t.k) && decide (t.k ≤ 2 ^ 24) && decide (1 ≤ t.n) && decide (t.n ≤ 2 ^ 24)
/-- R357: ELEM under SMODE. -/
def Tensor.elemOk (t : Tensor) : Bool :=
  match t.smode with
  | 1 => decide (5 ≤ t.elem) && decide (t.elem ≤ 9)
  | 2 => t.elem == 10 || t.elem == 15
  | _ => true
/-- The place of element `k` of column `j` in storage layout. -/
def Tensor.place (t : Tensor) (j k : Nat) : Nat := engAddr t.base + j * t.pitch + k * tyBits t.elem / 8
/-- The place of a storage scale: a byte, or a word. -/
def Tensor.scalePlace (t : Tensor) (j g : Nat) : Nat :=
  if t.smode = 1 then engAddr t.aux + j * ceilDiv t.k 32 + g else engAddr t.aux + 4 * (j * t.groups + g)
/-- Element `k` of column `j` as an operation reads it. -/
def State.readElem (s : State) (e : Engine) (t : Tensor) (j k : Nat) : Nat :=
  match tyBits t.elem with
  | 4 => (s.engByte e (t.place j k)).toNat / 16 ^ (k % 2) % 16
  | b =>
    let n := s.engNum e (t.place j k) (b / 8)
    if t.elem = 7 || t.elem = 8 then n % 64 else n

/-! ## `cp.cvt` (R274) -/

/-- DTY, RM and SAT of a conversion word. -/
def Engine.dty (e : Engine) : Nat := bitsOf e.c.toNat 0 4
def Engine.rm (e : Engine) : RM := RM.ofField (bitsOf e.c.toNat 4 3)
def Engine.sat (e : Engine) : Bool := bitAt e.c.toNat 7
/-- Elements of a column of a tile: 32, 64 or 128. -/
def tileElems (dty : Nat) : Nat := match tyBits dty with | 16 => 32 | 4 => 128 | _ => 64
/-- KT, NT and PT. -/
def Engine.kt (e : Engine) : Nat := ceilDiv e.src.k (tileElems e.dty)
def Engine.nt (e : Engine) : Nat := ceilDiv e.src.n 32
def Engine.pt (e : Engine) : Nat := ceilDiv e.src.groups 16
/-- Element `k` of column `j` in DTY; zero beyond K or N. -/
def State.cvtElem (s : State) (e : Engine) (j k : Nat) : Nat :=
  if e.src.k ≤ k || e.src.n ≤ j then 0
  else
    let x := s.readElem e e.src j k
    if e.src.smode = 0 then (convert e.src.elem e.dty e.rm e.sat (BitVec.ofNat 32 x)).toNat % 2 ^ tyBits e.dty else x
/-- Column and first element of byte `o` of the tiles. -/
def Engine.tileAt (e : Engine) (o : Nat) : Nat × Nat :=
  let t := o / platBytes
  (32 * (t / e.kt) + o % platBytes / 64, tileElems e.dty * (t % e.kt) + o % 64 * 8 / tyBits e.dty)
/-- Byte `o` of the tiles. -/
def State.cvtByte (s : State) (e : Engine) (o : Nat) : Nat :=
  let p := e.tileAt o
  match tyBits e.dty with
  | 4 => s.cvtElem e p.1 p.2 + 16 * s.cvtElem e p.1 (p.2 + 1)
  | 16 => s.cvtElem e p.1 p.2 / 256 ^ (o % 2) % 256
  | _ => s.cvtElem e p.1 p.2
/-- Column and K-group of byte `o` of the scale planes. -/
def Engine.planeAt (e : Engine) (o : Nat) : Nat × Nat :=
  let t := o / platBytes
  (32 * (t / e.pt) + o % 128 / 4, 16 * (t % e.pt) + o % platBytes / 128)
/-- Byte `o` of the scale planes: the word of a column and group. -/
def State.planeByte (s : State) (e : Engine) (o : Nat) : Nat :=
  let p := e.planeAt o
  if e.src.groups ≤ p.2 || e.src.n ≤ p.1 then 0
  else if e.src.smode = 1 then (if o % 4 = 0 then s.engNum e (e.src.scalePlace p.1 p.2) 1 else 0)
  else s.engNum e (e.src.scalePlace p.1 p.2 + o % 4) 1

/-! ## `cp.q` (R275) -/

/-- emax of an element format: the exponent of its largest normal value. -/
def emax (elem : Nat) : Int := match elem with | 5 => 8 | 6 => 15 | 7 => 4 | _ => 2
/-- x[k] of column `j`: the source element, with its residue where there is one. -/
def State.quantX (s : State) (e : Engine) (j k : Nat) : W32 :=
  let x := BitVec.ofNat 32 (s.readElem e e.src j k)
  if e.c = 0 then x else fadd x (BitVec.ofNat 32 (s.engNum e (engAddr e.c + 4 * e.src.k * j + 4 * k) 4))
/-- The elements of group `g` of column `j`. -/
def State.quantGroup (s : State) (e : Engine) (j g : Nat) : List W32 :=
  let n := e.dst.group
  (List.range (min (e.src.k - g * n) n)).map fun i => s.quantX e j (g * n + i)
/-- e of an MX group. -/
def mxExp (elem : Nat) (l : List W32) : Int :=
  match maxOf (l.filterMap fun x => leadOf (fv x)) with
  | none => -127
  | some p => max (-127) (min 127 (p - emax elem))
/-- An exact value × 2^k. -/
def FVal.scale (v : FVal) (k : Int) : FVal :=
  match v with
  | .fin neg m e => .fin neg m (e + k)
  | v => v
/-- RNEInt of a quotient of exact values, between −2^20 and 2^20; where it has no value, the free one (log entry 20). -/
def rneQuot (a b : FVal) : Int :=
  match a, b with
  | .fin n1 m1 e1, .fin n2 m2 e2 =>
    if m2 = 0 then Config.noQuotient 0
    else
      let num := m1 * 2 ^ (e1 - e2).toNat
      let den := m2 * 2 ^ (e2 - e1).toNat
      let q := num / den
      let r := num % den
      let up := decide (den < 2 * r) || (2 * r == den && q % 2 == 1)
      let m := min (2 ^ 20) (if up then q + 1 else q)
      if n1 != n2 then -(m : Int) else m
  | .fin _ _ _, .inf _ => 0
  | .inf n1, .fin n2 _ _ => if n1 != n2 then -2 ^ 20 else 2 ^ 20
  | _, _ => Config.noQuotient 1
/-- The f16 nearest a quotient of exact values by a positive integer. -/
def f16Quot (a : FVal) (n : Nat) : Nat :=
  match a with
  | .fin neg m e =>
    if m = 0 then 0
    else
      let q := m * 2 ^ 64 / n
      let exact := m * 2 ^ 64 % n == 0
      f16.round .rne false neg q (e - 64) !exact
  | .inf neg => f16.encode .rne false (.inf neg)
  | .nan => f16.nanCode
/-- Zero point and scale of a group under SMODE 2. -/
def quantWord (elem : Nat) (l : List W32) : Int × Nat :=
  let vals := (l.map fv).filter fun v => !v.isNan
  let zero : FVal := .fin false 0 0
  let lo := vals.foldl (fun a v => if v.lt a then v else a) zero
  let hi := vals.foldl (fun a v => if a.lt v then v else a) zero
  let qmin : Int := if elem = 10 then -128 else 0
  let qmax : Int := if elem = 10 then 127 else 15
  let s := f16Quot (FVal.add .rne hi lo.flip) (qmax - qmin).toNat
  let s := if s % 2 ^ 15 = 0 then 0x3C00 else s
  (max qmin (min qmax (qmin - rneQuot lo (f16.decode s))), s)
/-- The code of an element and its value: what `cp.q` writes for x in its group. -/
def quantCode (t : Tensor) (l : List W32) (x : W32) : Nat × FVal :=
  let bits := tyBits t.elem
  match t.smode with
  | 1 =>
    let k := mxExp t.elem l
    let q := (fmtTy t.elem).encode .rne true (FVal.scale (fv x) (-k))
    (q, FVal.scale ((fmtTy t.elem).decode q) k)
  | 2 =>
    if (fv x).isNan then (0, .nan)
    else
      let w := quantWord t.elem l
      let qmin : Int := if t.elem = 10 then -128 else 0
      let qmax : Int := if t.elem = 10 then 127 else 15
      let q := max qmin (min qmax (rneQuot (fv x) (f16.decode w.2) + w.1))
      ((q % (2 ^ bits : Int)).toNat, FVal.mul (intVal (q - w.1)) (f16.decode w.2))
  | _ =>
    let q := (convert 2 t.elem .rne true x).toNat % 2 ^ bits
    (q, valueOf t.elem q)
/-- The code of element `k` of column `j`. -/
def State.quantElem (s : State) (e : Engine) (j k : Nat) : Nat :=
  (quantCode e.dst (s.quantGroup e j (k / e.dst.group)) (s.quantX e j k)).1
/-- Byte `o` of column `j` of the destination's codes; the unused half of a last byte is free (log entry 20). -/
def State.quantByte (s : State) (e : Engine) (j o : Nat) : Nat :=
  match tyBits e.dst.elem with
  | 4 =>
    let hi := if 2 * o + 1 < e.src.k then s.quantElem e j (2 * o + 1) else (Config.padNibble (e.dst.place j (2 * o))).toNat
    s.quantElem e j (2 * o) + 16 * hi
  | b => s.quantElem e j (8 * o / b) / 256 ^ (o % (b / 8)) % 256
/-- Byte `o` of the storage scales. -/
def State.quantScale (s : State) (e : Engine) (o : Nat) : Nat :=
  if e.dst.smode = 1 then
    (mxExp e.dst.elem (s.quantGroup e (o / e.dst.groups) (o % e.dst.groups)) + 127).toNat
  else
    let w := quantWord e.dst.elem (s.quantGroup e (o / 4 / e.dst.groups) (o / 4 % e.dst.groups))
    (w.2 + (w.1 % (if e.dst.elem = 15 then 16 else 256)).toNat * 2 ^ 16) / 256 ^ (o % 4) % 256
/-- The new residue of element `k` of column `j`; +0 for a NaN. -/
def State.quantRes (s : State) (e : Engine) (j k : Nat) : W32 :=
  let x := s.quantX e j k
  if (fv x).isNan then 0
  else fw .rne false (FVal.add .rne (fv x) (quantCode e.dst (s.quantGroup e j (k / e.dst.group)) x).2.flip)

/-! ## What an operation reads and writes -/

/-- What stands in a region of a destination: bytes copied, tiles, planes, codes of a column, scales, residues, elements. -/
inductive Content where
  | copy | tiles | planes | codes (j : Nat) | scales | residues | elems
  deriving DecidableEq, Repr

/-- The regions an operation writes: address, length, content. -/
def Engine.regions (e : Engine) (ranks : Nat) : List (Nat × Nat × Content) :=
  match e.kind with
  | .cp | .row | .dup => [(engAddr e.a, e.c.toNat, .copy)]
  | .cvt =>
    (engAddr e.dst.base, platBytes * (e.kt * e.nt), .tiles) ::
      (if e.src.smode = 0 then [] else [(engAddr e.dst.aux, platBytes * (e.pt * e.nt), .planes)])
  | .quant =>
    ((List.range e.src.n).map fun j => (e.dst.place j 0, e.dst.colBytes, Content.codes j)) ++
      (match e.dst.smode with
       | 1 => [(engAddr e.dst.aux, e.dst.n * e.dst.groups, .scales)]
       | 2 => [(engAddr e.dst.aux, 4 * (e.dst.n * e.dst.groups), .scales)]
       | _ => []) ++
      (if e.c = 0 then [] else [(engAddr e.c, 4 * (e.src.k * e.src.n), .residues)])
  | _ => [(e.dstVa, collBytes e.c * e.destCount ranks, .elems)]
/-- R272: the regions in ascending destination order. -/
def Engine.stream (e : Engine) (ranks : Nat) : List (Nat × Nat × Content) := sortBy (·.1) (e.regions ranks)
/-- The ranges a tender operation reads: address and length. -/
def Engine.sources (e : Engine) : List (Nat × Nat) :=
  let cols := (List.range e.src.n).map fun j => (e.src.place j 0, e.src.colBytes)
  match e.kind with
  | .cp | .row | .dup => [(engAddr e.b, e.c.toNat)]
  | .cvt => cols ++
      (match e.src.smode with
       | 1 => [(engAddr e.src.aux, e.src.n * ceilDiv e.src.k 32)]
       | 2 => [(engAddr e.src.aux, 4 * (e.src.n * e.src.groups))]
       | _ => [])
  | .quant => cols ++ (if e.c = 0 then [] else [(engAddr e.c, 4 * (e.src.k * e.src.n))])
  | _ => []
/-- The ranges that element `k` of column `j` of a quantised group reads: its whole group, with residues. -/
def Engine.groupReads (e : Engine) (j k : Nat) : List (Nat × Nat) :=
  let g := k / e.dst.group * e.dst.group
  let n := 4 * min (e.src.k - g) e.dst.group
  (e.src.place j g, n) :: (if e.c = 0 then [] else [(engAddr e.c + 4 * e.src.k * j + 4 * g, n)])
/-- The ranges that byte `o` of a region reads. -/
def Engine.reads (e : Engine) (x : Content) (o : Nat) : List (Nat × Nat) :=
  match x with
  | .copy => [(engAddr e.b + o, 1)]
  | .tiles =>
    let p := e.tileAt o
    if e.src.k ≤ p.2 || e.src.n ≤ p.1 then []
    else [(e.src.place p.1 p.2, max 1 (tyBits e.src.elem / 8))] ++
      (if tyBits e.dty = 4 && p.2 + 1 < e.src.k then [(e.src.place p.1 (p.2 + 1), max 1 (tyBits e.src.elem / 8))] else [])
  | .planes =>
    let p := e.planeAt o
    if e.src.groups ≤ p.2 || e.src.n ≤ p.1 then [] else [(e.src.scalePlace p.1 p.2, if e.src.smode = 1 then 1 else 4)]
  | .codes j => e.groupReads j (o * 8 / tyBits e.dst.elem)
  | .scales =>
    let i := if e.dst.smode = 1 then o else o / 4
    e.groupReads (i / e.dst.groups) (i % e.dst.groups * e.dst.group)
  | .residues => e.groupReads (o / 4 / e.src.k) (o / 4 % e.src.k)
  | .elems => []

/-! ## Results of collectives (R277, R278) -/

/-- The node operation of a collective: TY, ROP. -/
def collNode (ty rop : Nat) (a b : W32) : W32 :=
  if ty = 4 then
    match rop with
    | 0 => BitVec.ofNat 32 (hadd bf16 .rne false a.toNat b.toNat 0)
    | 1 => BitVec.ofNat 32 (bf16.maxNum a.toNat b.toNat)
    | _ => BitVec.ofNat 32 (bf16.minNum a.toNat b.toNat)
  else redNode (match rop with | 0 => .sum | 1 => .max | _ => .min) ty a b
/-- What rank `r` has contributed as far as it is known. -/
def Engine.ofRank (e : Engine) (own r : Nat) : List W32 :=
  if r = own then e.shareOf (e.shot.getD []) own else ((assoc r e.peers).getD [])
/-- Elements expected of each other rank. -/
def Engine.expects (e : Engine) : Nat := if e.kind == .norm then 1 else collCount e.c
/-- Whether every contribution has arrived. -/
def Engine.arrived (e : Engine) (rs : RankSet) : Bool :=
  match e.kind with
  | .send => true
  | .recv => (e.ofRank rs.own (collPeer e.c)).length == collCount e.c
  | _ => (List.range rs.ranks).all fun r => decide (e.expects ≤ (e.ofRank rs.own r).length)
/-- Element `i` of the reduction over the ranks. -/
def Engine.reduced (e : Engine) (rs : RankSet) (op : W32 → W32 → W32) (i : Nat) : W32 :=
  (treeReduce op ((List.range rs.ranks).map fun r => (e.ofRank rs.own r)[i]?)).getD 0
/-- Element `i` of what an operation writes at B. -/
def Engine.element (e : Engine) (rs : RankSet) (i : Nat) : W32 :=
  match e.kind with
  | .ag => ((e.ofRank rs.own (i / collCount e.c))[i % collCount e.c]?).getD 0
  | .recv => ((e.ofRank rs.own (collPeer e.c))[i]?).getD 0
  | _ => e.reduced rs (collNode (collTy e.c) (collRop e.c)) i
/-- Byte `o` of a region. -/
def State.contentByte (s : State) (e : Engine) (x : Content) (o : Nat) : Nat :=
  match x with
  | .copy => (s.engByte e (engAddr e.b + o)).toNat
  | .tiles => s.cvtByte e o
  | .planes => s.planeByte e o
  | .codes j => s.quantByte e j o
  | .scales => s.quantScale e o
  | .residues => (s.quantRes e (o / 4 / e.src.k) (o / 4 % e.src.k)).toNat / 256 ^ (o % 4) % 256
  | .elems =>
    let w := collBytes e.c
    (e.element (s.rankSet e.part e.rset) (o / w)).toNat / 256 ^ (o % w) % 256

end Sys2Proof.Machine
end

