-- ==== Sys2Proof/Machine/Tender.lean ====
section
/-! DEFINITION. Machine/Tender.lean: issue, chunks, completion and failure of engine operations (12_engines_system R270 to R279,
06_compression R139, 17_system R313, R314, 19_faults_isa R356, R357, 20_faults_memory R375 to R378, 21 R390). -/

namespace Sys2Proof.Machine

/-! ## Plans (R121, R272, R357) -/

/-- The keys of the lines that ranges lie in. -/
def State.keysOf (s : State) (e : Engine) (l : List (Nat × Nat)) : List Nat :=
  l.flatMap fun r => (linesOf r.1 r.2).map fun p => s.engKey e p.1
/-- The regions an operation writes, in order. -/
def State.streamOf (s : State) (e : Engine) : List (Nat × Nat × Content) := e.stream (s.rankSet e.part e.rset).ranks
/-- The lines of the global space in part of a stream. -/
def State.linesIn (s : State) (e : Engine) (l : List (Nat × Nat × Content)) : List Nat :=
  s.keysOf e ((l.filter fun r => decide (r.1 < scratchBase)).map fun r => (r.1, r.2.1))
/-- What an operation keeps of its source with the bytes of ranges, as they stand, added. -/
def State.snapshot (s : State) (e : Engine) (l : List (Nat × Nat)) : List Host.Cell :=
  let live := { e with snap := none }
  l.foldl (fun acc r => (List.range r.2).foldl (fun acc i => cellPut acc (r.1 + i) (s.engByte live (r.1 + i))) acc) (e.snap.getD [])
/-- Whether source and destination of a tender operation overlap. -/
def State.engOverlap (s : State) (e : Engine) : Bool :=
  let d := s.keysOf e ((s.streamOf e).map fun r => (r.1, r.2.1))
  (s.keysOf e e.sources).any fun k => d.contains k
/-- R357: whether an operation's descriptors are accepted. -/
def Engine.planOk (e : Engine) : Bool :=
  match e.kind with
  | .cvt => e.src.formed && e.src.sized && e.src.elemOk && e.dst.formed &&
      (e.src.smode == 0 || (e.src.elem == e.dty && spaceOk e.dst.aux)) &&
      decide (Machine.total (e.regions 0) (·.2.1) ≤ 2 ^ 20)
  | .quant => e.src.formed && e.src.sized && e.src.elem == 2 && e.src.elemOk && e.dst.formed && e.dst.sized && e.dst.elemOk &&
      e.src.k == e.dst.k && e.src.n == e.dst.n && spaceOk e.c && decide (Machine.total (e.regions 0) (·.2.1) ≤ 2 ^ 20)
  | _ => true
/-- R356: a control word of a collective of some kind. -/
def State.ctlOk (s : State) (part : Nat) (kind : EngKind) (ctl : W64) : Bool :=
  let ty := collTy ctl
  let pair := kind == .send || kind == .recv
  match (s.part? part).bind fun p => assoc (collRset ctl) p.rankSets with
  | none => false
  | some rs =>
    (ty == 0 || ty == 1 || ty == 2 || ty == 4) && collRop ctl != 3 && bitsOf ctl.toNat 6 2 == 0 &&
    decide (1 ≤ collCount ctl) && decide (collCount ctl ≤ 2 ^ 28) &&
    (if pair then decide (collPeer ctl < rs.ranks) && collPeer ctl != rs.own else collPeer ctl == 0) &&
    (kind != .norm || (ty == 2 && collRop ctl == 0))
/-- The kind of collective a bucket names. -/
def bucketKind (n : Nat) : EngKind := match n with | 0 => .ar | 1 => .rs | _ => .ag
/-- R357: a bucket descriptor. -/
def State.bucketOk (s : State) (e : Engine) : Bool :=
  let coll := (e.word 5).toNat
  decide (coll ≤ 2) && e.word 2 != 0 && (e.word 0).toNat % lineBytes == 0 && addrSpace (e.word 0) == 0 &&
    addrSpace (e.word 4) == 0 && s.ctlOk e.part (bucketKind coll) (e.word 3)

/-- R314: the next place of an order of a partition: of a rank set, or of the sends or receives between two ranks. -/
def State.takePlace (s : State) (part key : Nat) : State × Nat :=
  match s.part? part with
  | none => (s, 0)
  | some p =>
    let n := (assoc key p.collectives).getD 0
    (s.putPart part { p with collectives := assocSet key (n + 1) p.collectives }, n)
/-- The key of the order an operation takes its place in. -/
def Engine.orderKey (e : Engine) : Nat :=
  match e.kind with
  | .send => e.rset + 256 * (2 + 2 * collPeer e.c)
  | .recv => e.rset + 256 * (3 + 2 * collPeer e.c)
  | _ => e.rset
/-- The state with an operation in its place. -/
def State.placeColl (s : State) (e : Engine) : State :=
  let e := { e with rset := collRset e.c }
  let r := s.takePlace e.part e.orderKey
  r.1.putEng { e with place := r.2 }
/-- R279: a bucket armed: its range is counted from now on. -/
def State.armBucket (s : State) (e : Engine) : State :=
  let coll := bucketKind (e.word 5).toNat
  let t := s.canon e.asid (addrVa (e.word 0))
  let e := { e with kind := coll, a := e.word 0, b := e.word 4, c := e.word 3 }
  let s := s.placeColl e
  match s.ctx? t.1 with
  | none => s
  | some c => s.putCtx { c with buckets := c.buckets ++ [⟨e.id, t.2.1, (e.word 1).toNat, (e.word 2).toNat, 0⟩] }
/-- The bucket of an operation. -/
def State.bucket? (s : State) (id : Nat) : Option Bucket := s.ctxs.findSome? fun c => c.buckets.find? fun b => b.eng == id

/-- What an operation reads of its descriptors: address and bytes. -/
def Engine.descReads (e : Engine) : List (Nat × Nat) :=
  match e.kind with
  | .cvt | .quant => [(engAddr e.a, 32), (engAddr e.b, 32)]
  | .bucket => [(engAddr e.a, 48)]
  | _ => []
/-- The first fault of ranges an operation reads: code, DETAIL, address. -/
def State.readFault (s : State) (e : Engine) (l : List (Nat × Nat)) : Option (Nat × Nat × Nat) :=
  (l.flatMap fun r => linesOf r.1 r.2).findSome? fun p => (s.pieceFault e p.1 p.2 false).map fun x => (x.1, x.2, p.1)
/-- R375: whether a fault of an operation can be recovered: of a tender operation, or of a turntable operation that receives. -/
def State.recoverable (s : State) (e : Engine) (code detail a : Nat) : Bool :=
  let t := s.canon e.asid a
  (e.kind.tender || e.started) && code == codeXLATE && detail == 1 && decide (a < scratchBase) &&
    ((s.ctx? t.1).bind fun c => c.backed t.2.1).isSome
/-- The address a record shows. -/
def recVa (a : Nat) : Nat := if scratchBase ≤ a then a - scratchBase else a
/-- A fault of an operation at the chunk it has come to: it stalls, or fails with what is committed as PREFIX. -/
def State.engStop (s : State) (e : Engine) (code detail a : Nat) : State :=
  if s.recoverable e code detail a then s.putEng { e with stall := some (code, a) }
  else
    let s := if a < scratchBase then s.engConsume e.asid code detail a else s
    s.putEng { e with failed := some (code, recVa a, min e.total (chunkBytes * e.chunk)) }
/-- The global pieces of ranges an operation reads, each in its canonical place. -/
def State.piecesRead (s : State) (e : Engine) (l : List (Nat × Nat)) : List (Nat × Nat × Nat × Bool) :=
  (l.filter fun r => decide (r.1 < scratchBase)).flatMap fun r => s.globReads e.asid r.1 r.2
/-- What keeps an operation from reading a piece of its source: another operation is still to write it (R169), or a change of its bank is
under way. -/
def State.sourceHeld (s : State) (e : Engine) (a : Nat) : Bool :=
  s.readHeld e (s.engKey e a) ||
    (decide (scratchBase ≤ a) && ((s.pair (pairOf e.core)).bank (s.engBank e a).1).after e.id)
/-- The recoverable fault that a piece of a source meets (R375): its page is not there. -/
def State.sourceAbsent (s : State) (e : Engine) (p : Nat × Nat) : Option (Nat × Nat × Nat) :=
  match s.pieceFault e p.1 p.2 false with
  | some (code, detail) => if s.recoverable e code detail p.1 then some (code, detail, p.1) else none
  | none => none
/-- The bytes of an overlapping source kept as they are at issue (R272): each piece at once, or, where another operation is still to write
it, a change of its bank is under way, or its page is not there, as soon as it can be read. -/
def State.keepSource (s : State) (e : Engine) : State :=
  let ready := fun (p : Nat × Nat) => !s.sourceHeld e p.1 && (s.sourceAbsent e p).isNone
  let e := { e with snap := some (s.snapshot e (e.late.filter ready)), late := e.late.filter fun p => !ready p }
  let s := s.putEng e
  match (e.late.filter fun p => !s.sourceHeld e p.1).findSome? (s.sourceAbsent e) with
  | some (code, detail, a) => s.engStop e code detail a
  | none =>
    if !e.late.isEmpty then s
    else
      let d := s.reachAll e.id (s.piecesRead e e.sources)
      if d.2 then d.1.putEng { e with lag := false } else d.1
/-- An operation plans what it does: its descriptors are read and checked, its destination lines are owned (R121), and an
overlapping source is kept (R272). It waits while another operation owns a line of a descriptor. DEDUCED (log entry 153): lines are owned from
the issue (R121, R169, R270), so that no run shows outcome a = 0 of LT-20 (R9), which is marked allowed. -/
def State.planEng (s : State) (e : Engine) : State :=
  let d := s.reachAll e.id (s.piecesRead e e.descReads)
  if !d.2 || (s.keysOf e e.descReads).any fun k => s.readHeld e k then d.1
  else
    match s.readFault e e.descReads with
    | some (code, detail, a) => s.engStop e code detail a
    | none =>
      let s := d.1
      let words := e.descReads.flatMap fun r => (List.range (r.2 / 8)).map fun i => BitVec.ofNat 64 (s.engNum e (r.1 + 8 * i) 8)
      let e := { e with plan := some words }
      if !e.planOk || (e.kind == .bucket && !s.bucketOk e) then
        s.putEng { e with failed := some (codeOPERAND, recVa (engAddr e.a), 0) }
      else if e.kind == .bucket then s.armBucket e
      else
        let st := s.streamOf e
        let lag := e.kind.tender && s.engOverlap e
        let late := if lag then e.sources.flatMap fun r => linesOf r.1 r.2 else []
        let e := { e with total := total st (·.2.1), owned := s.linesIn e st, lag := lag, late := late }
        if e.lag then (s.putEng e).keepSource e else s.putEng e

/-- How a failure names a transfer between two ranks. -/
def pairKey (sender receiver place : Nat) : Nat := 2 ^ 48 * (1 + receiver) + 2 ^ 32 * (1 + sender) + place
/-- How a failure names an operation to its peers: a place in a rank set, or one between two ranks. -/
def Engine.failKey (e : Engine) (own : Nat) : Nat :=
  match e.kind with
  | .send => pairKey own (collPeer e.c) e.place
  | .recv => pairKey (collPeer e.c) own e.place
  | _ => e.place
/-- Whether the operation that a failure names has not been issued at rank `own` yet. -/
def Partition.unissued (p : Partition) (rset own key : Nat) : Bool :=
  let order :=
    if key < 2 ^ 32 then rset
    else
      let sender := key / 2 ^ 32 % 2 ^ 16 - 1
      let receiver := key / 2 ^ 48 - 1
      if sender = own then rset + 256 * (2 + 2 * receiver) else rset + 256 * (3 + 2 * sender)
  decide ((assoc order p.collectives).getD 0 ≤ key % 2 ^ 32)
/-! ## Flits received (R313) -/

/-- The partition and rank set that a port serves under a number, for a peer rank where one is named. -/
def State.portSet (s : State) (port rset : Nat) (rank : Option Nat) : Option (Nat × RankSet) :=
  s.parts.zipIdx.findSome? fun p =>
    match assoc rset p.1.rankSets with
    | none => none
    | some rs =>
      let named := match rank with
        | some r => rs.ports.contains (r, port)
        | none => rs.ports.any fun x => x.2 == port
      if named then some (p.2, rs) else none
/-- Elements added to what a rank has sent an operation. -/
def Engine.take (e : Engine) (rank : Nat) (l : List W32) : Engine :=
  { e with peers := assocSet rank (((assoc rank e.peers).getD []) ++ l) e.peers }
/-- A flit's payload delivered; `none` while it must be kept back. -/
def State.deliver (s : State) (port : Nat) (b : FlitBody) : Option State :=
  match b with
  | .management => some s
  | .reduce rset idx rank l =>
    match s.portSet port rset (some rank) with
    | none => some s
    | some (part, _) =>
      if (((s.part? part).bind fun p => assoc rset p.collectives).getD 0) ≤ idx then none
      else
        match s.engs.find? fun e => e.part == part && e.kind.toAll && e.rset == rset && e.place == idx with
        | none => some s
        | some e => some (s.putEng (e.take rank l))
  | .send rset rank idx ty count l =>
    match s.portSet port rset (some rank) with
    | none => some s
    | some (part, _) =>
      if (((s.part? part).bind fun p => assoc (rset + 256 * (3 + 2 * rank)) p.collectives).getD 0) ≤ idx then none
      else
        match s.engs.find? fun e =>
            e.part == part && e.kind == .recv && e.rset == rset && collPeer e.c == rank && e.place == idx with
        | none => some s
        | some e =>
          if collTy e.c != ty || collCount e.c != count then none else some (s.putEng (e.take rank l))
  | .failed rset idx code =>
    match s.portSet port rset none with
    | none => some s
    | some (part, rs) =>
      if ((s.part? part).map fun p => p.unissued rset rs.own idx).getD false then none
      else
      match s.engs.find? fun e => e.part == part && !e.kind.tender && e.rset == rset && e.failKey rs.own == idx with
      | none => some s
      | some e => some (if e.failed.isSome then s else s.putEng { e with failed := some (code, 0, 0) })
/-- A flit in sequence is taken in; its acknowledgement, pause and resume take effect; what is out of sequence is replayed. -/
def Port.receive (p : Port) (f : Flit) : Port :=
  let kept := match f.ack with
    | none => p.unacked
    | some a => p.unacked.filter fun x => decide (a ≤ x.seq)
  let paused := match f.pause with
    | none => p.paused
    | some vc => if p.paused.contains vc then p.paused else p.paused ++ [vc]
  let paused := match f.resume with
    | none => paused
    | some vc => paused.filter fun x => x != vc
  let q : Port := { p with expect := p.expect + 1, unacked := kept, paused := paused, inbox := p.inbox ++ [f] }
  q.flush
/-- The flits a port has taken in, delivered in order on each channel; a channel whose first flit must be kept back keeps the
rest. -/
def State.deliverAll (s : State) (port : Nat) (l : List Flit) (stuck : List Nat) (kept : List Flit) : State × List Flit :=
  match l with
  | [] => (s, kept)
  | f :: rest =>
    match if stuck.contains f.vc then none else s.deliver port f.body with
    | some s => s.deliverAll port rest stuck kept
    | none => s.deliverAll port rest (f.vc :: stuck) (kept ++ [f])
/-- R313: a port stops its peer on a channel whose flits it must keep back, and releases it once none is left. DESIGN CHOICE (log
entry 142): when a receiver stops a sender. -/
def Port.regulate (p : Port) (kept : List Flit) : Port :=
  [0, 1, 2, 3].foldl (fun p vc =>
    let full := kept.any fun f => f.vc == vc
    let header : Flit := ⟨3, 0, if full then some vc else none, if full then none else some vc, none, .management⟩
    if full == p.stopped.contains vc then p
    else
      let q : Port := { p with
        stopped := if full then p.stopped ++ [vc] else p.stopped.filter fun x => x != vc, toSend := p.toSend ++ [header] }
      q.flush) { p with inbox := kept }
/-- What a port has taken in delivered as far as it goes. -/
def State.drainPort (s : State) (port : Nat) : State :=
  match s.ports[port]? with
  | none => s
  | some p =>
    if p.inbox.isEmpty then s
    else
      let r := s.deliverAll port p.inbox [] []
      match r.1.ports[port]? with
      | none => r.1
      | some p => { r.1 with ports := r.1.ports.set port (p.regulate r.2) }
def State.receiveFlit (s : State) (port : Nat) (f : Flit) : State :=
  match s.ports[port]? with
  | none => s
  | some p =>
    if !p.up || !p.enabled || f.seq != p.expect then s
    else { s with ports := s.ports.set port (p.receive f) }.drainPort port
/-! ## Issue (R270, R356, R390) -/

/-- Sources of an operation's word, by nibble. -/
def engSources (k : EngKind) (f : E) : List (Code × Nat) :=
  match k with
  | .send => [(f.a, 2), (f.c, 4)]
  | .recv => [(f.b, 3), (f.c, 4)]
  | .bucket => [(f.a, 2)]
  | _ => [(f.a, 2), (f.b, 3), (f.c, 4)]
/-- A global address that is a multiple of `n`. -/
def globalAt (w : W64) (n : Nat) : Bool := addrSpace w == 0 && addrVa w % n == 0
/-- A length that is a multiple of `n`, at most 1 MiB. -/
def lengthOk (w : W64) (n : Nat) : Bool := w != 0 && w.toNat % n == 0 && decide (w.toNat ≤ 2 ^ 20)
/-- A conversion word. -/
def cvtOk (c : W64) : Bool :=
  let ty := bitsOf c.toNat 0 4
  decide (c.toNat < 256) && decide (bitsOf c.toNat 4 3 ≤ 4) && decide (3 ≤ ty) && decide (ty < 14)
/-- R356 for operand values. -/
def State.engVals (s : State) (part : Nat) (k : EngKind) (a b c : W64) : List (Bool × Nat) :=
  match k with
  | .cp => [(spaceOk a, 0x12), (spaceOk b, 0x13), (lengthOk c 1, 0x14)]
  | .cvt => [(spaceOk a, 0x12), (spaceOk b, 0x13), (cvtOk c, 0x14)]
  | .quant => [(spaceOk a, 0x12), (spaceOk b, 0x13)]
  | .row => [(globalAt a platBytes, 0x12), (globalAt b lineBytes, 0x13), (lengthOk c platBytes, 0x14)]
  | .dup => [(globalAt a lineBytes, 0x12), (globalAt b lineBytes, 0x13), (lengthOk c lineBytes, 0x14)]
  | .send => [(globalAt a 1, 0x12), (s.ctlOk part k c, 0x14)]
  | .recv => [(globalAt b 1, 0x13), (s.ctlOk part k c, 0x14)]
  | .norm => [(globalAt a 1, 0x12), (decide (b.toNat ≤ 7), 0x13), (s.ctlOk part k c, 0x14)]
  | .bucket => [(globalAt a 1, 0x12)]
  | _ => [(globalAt a 1, 0x12), (globalAt b 1, 0x13), (s.ctlOk part k c, 0x14)]
/-- Checks of tender and turntable operations. -/
def gateEng (k : EngKind) (f : E) (s : State) (v : View) : Gate :=
  { gateE (engSources k f) v with
    vals := s.engVals v.g.id.team.grid.part k (v.uni f.a) (v.uni f.b) (v.uni f.c)
    late := handleOk (v.g.handle f.h.toNat) }
/-- R390: the token that a turntable operation of a relaunched team replays. -/
def State.replayed (s : State) (v : View) (launch : Bool) : Option W64 :=
  match s.team? v.g.id.team, s.grid? v.g.id.team.grid with
  | some t, some g =>
    let k := g.keptOf t.id.team
    if !g.relaunch then none else if launch then k.launches[t.launches]? else k.engines[t.engineOps]?
  | _, _ => none
/-- The count of a team's turntable operations or launches raised. -/
def State.countOp (s : State) (v : View) (launch : Bool) : State :=
  match s.team? v.g.id.team with
  | none => s
  | some t =>
    s.putTeam (if launch then { t with launches := t.launches + 1 } else { t with engineOps := t.engineOps + 1 })
/-- What a team index keeps of a first issue (R390). -/
def State.keepOp (s : State) (v : View) (launch : Bool) (tok : W64) : State :=
  match s.grid? v.g.id.team.grid with
  | none => s
  | some g =>
    if !g.relaunch then s
    else s.putGrid (g.keep v.g.id.team.team fun k =>
      if launch then { k with launches := k.launches ++ [tok] } else { k with engines := k.engines ++ [tok] })
/-- A handle of the group takes a token, as `h.bind` does. -/
def State.takeToken (s : State) (v : View) (h : Nat) (tok : W64) : State :=
  match s.groupPart v.g, s.group? v.g.id with
  | some p, some g => s.putGroup (g.putHandle h (boundHandle p tok))
  | _, _ => s
/-- Bucket operations of a context that have not completed. -/
def State.armed (s : State) (asid : Nat) : Nat :=
  (s.engs.filter fun e => e.asid == asid && (e.kind == .bucket || (s.bucket? e.id).isSome)).length
/-- An operation as it issues under a token. -/
def View.newEng (v : View) (s : State) (k : EngKind) (f : E) (tok : W64) : Engine :=
  { id := s.nextId, kind := k, gid := v.g.id, asid := v.g.asid, part := v.g.id.team.grid.part, core := v.g.core, tok := tok
    a := v.uni f.a, b := v.uni f.b, c := v.uni f.c, total := 0, chunk := 0, snap := none, lag := false, late := [], owned := [], granted := []
    stall := none, cancel := false, failed := none, plan := none, rset := 0, place := 0, peers := [], started := false
    shot := none }
/-- The operation is under way under handle H: planned, and started where it is a collective. -/
def State.issueEng (s : State) (v : View) (k : EngKind) (f : E) : State :=
  let part := v.g.id.team.grid.part
  let r := s.newToken part (if k.tender then 1 else 2) 0 v.g.core
  let e := v.newEng s k f r.2
  let s := { (r.1.pend v.g.id f.h.toNat r.2) with engs := r.1.engs ++ [e], nextId := r.1.nextId + 1 }
  let s := if k.tender then s else (s.countOp v false).keepOp v false r.2
  let s := if k.tender || k == .bucket then s else s.placeColl e
  let s := match s.eng? e.id with
    | none => s
    | some e => s.planEng e
  match s.eng? e.id with
  | none => s
  | some e =>
    let s := if k.tender || k == .bucket || e.plan.isNone then s else s.startColl e
    if k.tender then s else (List.range 16).foldl State.drainPort s
/-- Whether the descriptors that an instruction names can be read now, and the state in which a bank that keeps them out has it noted. An
instruction whose descriptors an earlier operation is still to write, or whose vault does not let it in yet, issues once it can read
them: it then owns its destination lines from its issue (R121, R270), and takes its place (R314). -/
def State.descReach (s : State) (v : View) (k : EngKind) (f : E) : State × Bool :=
  let e := v.newEng s k f 0
  if (s.keysOf e e.descReads).any fun key => (s.owner? key).isSome then (s, false)
  else s.reachAll (accessId v.g.id v.c.cid true) (s.piecesRead e e.descReads)
/-- The home of each line that an operation owns. -/
def State.ownedHomes (s : State) (e : Engine) : List Nat :=
  e.owned.map fun k => s.home (k * lineBytes / 2 ^ 56) (k * lineBytes % 2 ^ 56)
/-- R121: whether an operation's lines do not fit a slice's directory of 4,096 beside those of the others. DESIGN CHOICE (log entry 154): an
operation that needs more by itself goes once no other owns a line of that slice. -/
def State.crowded (s : State) (id : Nat) : Bool :=
  match s.eng? id with
  | none => false
  | some e =>
    let mine := s.ownedHomes e
    let others := (s.engs.filter fun x => x.id != id).flatMap s.ownedHomes
    decide (4096 < mine.length + others.length) &&
      mine.any fun h => others.contains h && decide (4096 < mine.count h + others.count h)
/-- An instruction that waits once its release is complete: the reads by which it would go on try their vaults (R128 to R130). -/
def whileReleased (s : State) (v : View) (reads : State → State × Bool) (x : Except Stop State) : Except Stop State :=
  match x with
  | .error .wait => if v.c.prog == .released then .ok (reads s).1 else x
  | _ => x
/-- R270: a release on all tracks; a pending H is waited for; then the operation is under way and the group goes on. -/
def goEng (k : EngKind) (f : E) (s : State) (v : View) : Except Stop State :=
  whileReleased s v (fun s => s.descReach v k f) <| afterRelease s v allTracks fun s =>
    if (v.g.handle f.h.toNat).st == .pending || s.spillFull v.g.asid then .error .wait
    else
      let s := s.markAll v.g.id
      match if k.tender then none else s.replayed v false with
      | some tok => .ok (((s.takeToken v f.h.toNat tok).countOp v false).pass v 1)
      | none =>
        let d := s.descReach v k f
        let t := (d.1.unheld (accessId v.g.id v.c.cid true)).issueEng v k f
        if (k == .bucket && decide (32 ≤ s.armed v.g.asid)) || !d.2 || (k.tender && t.crowded s.nextId) then .error .wait
        else .ok (t.pass v 1)
def execCp (f : E) (s : State) : Out := runFull 0 (gateEng .cp f) (goEng .cp f) s
def execCpCvt (f : E) (s : State) : Out := runFull 0 (gateEng .cvt f) (goEng .cvt f) s
def execCpQ (f : E) (s : State) : Out := runFull 0 (gateEng .quant f) (goEng .quant f) s
def execCpRow (f : E) (s : State) : Out := runFull 0 (gateEng .row f) (goEng .row f) s
def execCpDup (f : E) (s : State) : Out := runFull 0 (gateEng .dup f) (goEng .dup f) s
def execCollAr (f : E) (s : State) : Out := runFull 0 (gateEng .ar f) (goEng .ar f) s
def execCollRs (f : E) (s : State) : Out := runFull 0 (gateEng .rs f) (goEng .rs f) s
def execCollAg (f : E) (s : State) : Out := runFull 0 (gateEng .ag f) (goEng .ag f) s
def execCollSend (f : E) (s : State) : Out := runFull 0 (gateEng .send f) (goEng .send f) s
def execCollRecv (f : E) (s : State) : Out := runFull 0 (gateEng .recv f) (goEng .recv f) s
def execCollNorm (f : E) (s : State) : Out := runFull 0 (gateEng .norm f) (goEng .norm f) s
def execBucketArm (f : E) (s : State) : Out := runFull 0 (gateEng .bucket f) (goEng .bucket f) s

/-! ## Chunks (R272, R376) -/

/-- A piece of a destination within a line: address, length, content and place in its region. -/
structure Piece where
  a : Nat
  n : Nat
  what : Content
  off : Nat
  deriving DecidableEq, Repr

/-- The pieces of the bytes `lo` to `hi − 1` of a stream whose first byte has number `at_`. -/
def piecesOf (l : List (Nat × Nat × Content)) (at_ lo hi : Nat) : List Piece :=
  match l with
  | [] => []
  | (a, n, c) :: rest =>
    let x := max lo at_ - at_
    let y := min hi (at_ + n) - at_
    ((linesOf (a + x) (y - x)).map fun p => ⟨p.1, p.2, c, p.1 - a⟩) ++ piecesOf rest (at_ + n) lo hi
/-- A stream without its first `n` bytes. -/
def streamDrop (l : List (Nat × Nat × Content)) (n : Nat) : List (Nat × Nat × Content) :=
  match l with
  | [] => []
  | (a, k, c) :: rest => if n < k then (a + n, k - n, c) :: rest else streamDrop rest (n - k)
/-- The ranges a piece reads. -/
def Engine.pieceReads (e : Engine) (p : Piece) : List (Nat × Nat) :=
  match p.what with
  | .copy => [(engAddr e.b + p.off, p.n)]
  | _ => (List.range p.n).flatMap fun i => e.reads p.what (p.off + i)
/-- The bytes of a piece, as one number. -/
def State.pieceData (s : State) (e : Engine) (p : Piece) : Nat :=
  (List.range p.n).foldr (fun i acc => s.contentByte e p.what (p.off + i) + 256 * acc) 0

/-- The reservations a chunk holds given back (R376). -/
def State.ungrant (s : State) (e : Engine) : State :=
  e.granted.foldl (fun s g =>
    match s.ctx? g.1 with
    | none => s
    | some c => s.putCtx (c.unhold g.2.2)) s
/-- The block a piece writes, where it takes a reservation: not in scratch, not on a row page. -/
def State.pieceBlock (s : State) (e : Engine) (p : Piece) : Option (Nat × Nat) :=
  if scratchBase ≤ p.a || e.kind == .row then none
  else
    let t := s.canon e.asid p.a
    some (t.1, t.2.1 / lineBytes)
/-- Whether a block's POISON is 1. -/
def State.poisoned (s : State) (asid b : Nat) : Bool := ((s.ctx? asid).map fun c => (c.entry b).poison).getD false
/-- Sectors a block must reserve: for one that is released first, by `cp.dup` (R139) or as its POISON is 1 (R385), what its release leaves of 8, else those of
R142; and the state the next block of the chunk is judged in. -/
def State.grantNeed (s : State) (e : Engine) (whole : Bool) (b : Nat × Nat) : Nat × State :=
  if e.kind == .dup || (whole && s.poisoned b.1 b.2) then
    let t := s.release b.1 b.2 (s.home b.1 (b.2 * lineBytes))
    let free := fun (s : State) => ((s.ctx? b.1).map (·.free)).getD 0
    (8 - (free t - free s), t)
  else
    match (s.ctx? b.1).bind fun c => c.dirty? b.2 with
    | some _ => (0, s)
    | none => (s.need b.1 b.2 (s.home b.1 (b.2 * lineBytes)), s)
/-- The blocks that pieces write, each once, with what they must reserve and the place of the first piece. -/
def State.grantNeeds (s : State) (e : Engine) (l : List Piece) (seen : List (Nat × Nat)) : List (Nat × Nat × Nat × Nat) :=
  match l with
  | [] => []
  | p :: rest =>
    match s.pieceBlock e p with
    | none => s.grantNeeds e rest seen
    | some b =>
      if seen.contains b || (s.ctx? b.1).isNone then s.grantNeeds e rest seen
      else
        let r := s.grantNeed e (p.n == lineBytes) b
        (b.1, b.2, r.1, p.a) :: r.2.grantNeeds e rest (b :: seen)
/-- Reservations for the blocks of a chunk, one line after another: those granted, and the first place FREE cannot supply. -/
def State.grantAll (s : State) (l : List (Nat × Nat × Nat × Nat)) (got : List (Nat × Nat × Nat)) :
    State × List (Nat × Nat × Nat) × Option Nat :=
  match l with
  | [] => (s, got, none)
  | (asid, b, n, a) :: rest =>
    match s.ctx? asid with
    | none => s.grantAll rest got
    | some c => if c.free < n then (s, got, some a) else (s.putCtx (c.hold n)).grantAll rest (got ++ [(asid, b, n)])
/-- R385: before a write of a whole block, one whose POISON is 1 is released, which clears it; the errors of another are overwritten. -/
def State.clearBad (s : State) (asid b : Nat) : State :=
  if s.poisoned asid b then s.release asid b (s.home asid (b * lineBytes))
  else
    match s.ctx? asid with
    | none => s
    | some c => s.putCtx { c with dramBad := c.dramBad.filter fun x => x / 8 != b, l2Bad := c.l2Bad.filter fun x => x != b }
/-- The state with a block dirty, as a write that has its reservation makes it. -/
def State.dirtied (s : State) (asid b : Nat) : State :=
  match (s.ctx? asid).bind fun c => c.dirty? b with
  | some _ => s
  | none =>
    let home := s.home asid (b * lineBytes)
    s.makeDirty asid b home (s.need asid b home)
/-- A piece written at its home, or its bank: every L1 loses its sectors (R272). -/
def State.engWrite (s : State) (e : Engine) (a n v : Nat) : State :=
  if scratchBase ≤ a then
    let b := s.engBank e a
    let k := pairOf e.core
    s.putPair k ((s.pair k).putBank b.1 (((s.pair k).bank b.1).store b.2 n v))
  else
    let t := s.canon e.asid a
    let b := t.2.1 / lineBytes
    let s := if n = lineBytes then s.clearBad t.1 b else s
    let s := if e.kind == .row then s else s.dirtied t.1 b
    let s := if e.kind == .row then s.addL2 (s.home t.1 t.2.1) t.1 b (touched t.2.1 n) 0 else s.wroteL2 t.1 t.2.1 n
    ((s.store t.1 t.2.1 n v).wrote t.1 t.2.1 n).dropAllL1 t.1 t.2.1 (t.2.1 + n)

/-- How a chunk ends for now. -/
inductive ChunkEnd where
  | wait
  | stop (code detail a : Nat)
  | done
  deriving DecidableEq, Repr

/-- What keeps the pieces of a chunk from being tried: lines held, or a reservation on its way. -/
def State.piecesHeld (s : State) (e : Engine) (l : List Piece) : Bool :=
  ((s.keysOf e (l.flatMap e.pieceReads)).any fun k => s.readHeld e k) ||
  (l.any fun p => s.writeHeld e (s.engKey e p.a) || s.lineReserving (s.engKey e p.a)) ||
  (e.kind == .dup && (s.keysOf e (l.flatMap e.pieceReads)).any s.lineReserving) ||
  (l.flatMap fun p => (p.a, p.n) :: e.pieceReads p).any fun r => decide (scratchBase ≤ r.1) &&
    ((s.pair (pairOf e.core)).bank (s.engBank e r.1).1).after e.id
/-- The first fault of the places a chunk writes. -/
def State.destFault (s : State) (e : Engine) (l : List Piece) : Option (Nat × Nat × Nat) :=
  l.findSome? fun p => (s.pieceFault e p.a p.n true).map fun x => (x.1, x.2, p.a)

/-- A free share entry of a vault; entry 0 is never used (R137). -/
def Vault.freeShare (v : Vault) : Nat := ((List.range (v.shares.length + 2)).find? fun i => i != 0 && (v.share? i).isNone).getD 1
/-- R139 steps 3 and 4: the destination takes the source's entry, counted in a share where it has a run. -/
def State.dupShare (s : State) (td ts : Nat × Nat × Bool) : State :=
  let b := ts.2.1 / lineBytes
  let home := s.home ts.1 ts.2.1
  match s.ctx? ts.1 with
  | none => s
  | some c =>
    let m := c.entry b
    let v := s.vault home
    let r : State × MapEntry :=
      if m.code ≤ 1 then (s, { m with shared := false, sidx := 0 })
      else if m.shared then
        (s.putVault home { v with shares := v.shares.map fun x =>
          if x.sidx == m.sidx then { x with refs := x.refs + 1 } else x }, m)
      else
        let m' := { m with shared := true, sidx := v.freeShare }
        ((s.putVault home { v with shares := v.shares ++ [⟨v.freeShare, 2, m.code, m.loc⟩] }).putCtx (c.setEntry b m'), m')
    match r.1.ctx? td.1 with
    | none => r.1
    | some d =>
      let d := d.setEntry (td.2.1 / lineBytes) r.2
      r.1.putCtx { d with dramBad := d.dramBad ++
        (c.dramBad.filter fun x => x / 8 == b).map fun x => td.2.1 / lineBytes * 8 + x % 8 }
/-- R139 for the entry of one block, in the state that the blocks before it leave: whether the block is copied, and the state after it. `done` are
the lines the operation has replaced by then: a source among them, or one that has been written since the issue of an operation whose
source and destination overlap, is copied from what the source held at issue (R272). -/
def State.dupNext (s : State) (e : Engine) (p : Piece) (done : List Nat) : Bool × State :=
  let src := engAddr e.b + p.off
  let td := s.canon e.asid p.a
  let ts := s.canon e.asid src
  let b := ts.2.1 / lineBytes
  let home := s.home ts.1 ts.2.1
  let s := s.settleLine ts.1 b
  match s.ctx? ts.1 with
  | none => (true, s)
  | some c =>
    let m := c.entry b
    let row := ((c.page? ts.2.1).map fun x => descRow x.desc).getD false
    let changed := e.snap.isSome &&
      (done.contains (s.engKey e src) || s.engNum e src lineBytes != s.engNum { e with snap := none } src lineBytes)
    let t := s.release td.1 (td.2.1 / lineBytes) (s.home td.1 td.2.1)
    let copy :=
      if changed then true
      else if m.code ≤ 1 then false
      else if row || s.home td.1 td.2.1 != home then true
      else !m.shared && decide (shareEntries ≤ (t.vault home).shares.length + 1)
    (copy, if copy then t else t.dupShare td ts)
/-- The blocks of a chunk of `cp.dup` with whether each is copied. -/
def State.dupPlan (s : State) (e : Engine) (l : List Piece) (done : List Nat) : List (Piece × Bool) :=
  match l with
  | [] => []
  | p :: rest =>
    let done := s.engKey e p.a :: done
    let r := s.dupNext e p done
    (p, r.1) :: r.2.dupPlan e rest done
/-- The lines that an overlapping `cp.dup` has replaced before its present chunk. -/
def State.dupDone (s : State) (e : Engine) : List Nat :=
  if e.snap.isNone then [] else (linesOf (engAddr e.a) (min e.total (chunkBytes * e.chunk))).map fun p => s.engKey e p.1
/-- R139 for one block. -/
def State.dupBlock (s : State) (e : Engine) (p : Piece) (copy : Bool) : State :=
  let src := engAddr e.b + p.off
  let td := s.canon e.asid p.a
  let ts := s.canon e.asid src
  let s := s.settleLine ts.1 (ts.2.1 / lineBytes)
  let data := s.engNum e src lineBytes
  let b := td.2.1 / lineBytes
  let s := (s.release td.1 b (s.home td.1 td.2.1)).zeroBlock td.1 b
  if copy then s.engWrite e p.a lineBytes data
  else
    let s := (s.dupShare td ts).store td.1 td.2.1 lineBytes data
    (s.wrote td.1 td.2.1 lineBytes).dropAllL1 td.1 td.2.1 (td.2.1 + lineBytes)

/-- The faults of what a chunk reads; a block of `cp.dup` that is not copied meets no error in its source. -/
def State.sourceFault (s : State) (e : Engine) (l : List (Piece × Bool)) : Option (Nat × Nat × Nat) :=
  l.findSome? fun x =>
    match s.readFault e (e.pieceReads x.1) with
    | some (code, detail, a) => if code == codeUE && !x.2 then none else some (code, detail, a)
    | none => none
/-- The accesses to global memory that the pieces of a chunk make, each within a line. -/
def State.piecesReach (s : State) (e : Engine) (plan : List (Piece × Bool)) : List (Nat × Nat × Nat × Bool) :=
  (s.piecesRead e ((plan.filter fun x => x.2 && e.snap.isNone).flatMap fun x => e.pieceReads x.1)) ++
  ((plan.filter fun x => decide (x.1.a < scratchBase)).map fun x =>
    ((s.canon e.asid x.1.a).1, (s.canon e.asid x.1.a).2.1, x.1.n, true))
/-- The context and block of the source of a piece of `cp.dup`. -/
def State.sourceBlock (s : State) (e : Engine) (p : Piece) : Nat × Nat :=
  let t := s.canon e.asid (engAddr e.b + p.off)
  (t.1, t.2.1 / lineBytes)
/-- A chunk tried: everything is checked and reserved before any byte is written; it waits until the vaults let its accesses, and the
write-backs of R139, in. -/
def State.tryChunk (s : State) (e : Engine) (l : List Piece) : State × ChunkEnd :=
  let plan := if e.kind == .dup then s.dupPlan e l (s.dupDone e) else l.map fun p => (p, true)
  let d := s.reachAll e.id (s.piecesReach e plan)
  let d := if e.kind == .dup && d.2 then d.1.settleAll e.id (l.map fun p => s.sourceBlock e p) else d
  if s.piecesHeld e l then (s, .wait)
  else if !d.2 then (d.1, .wait)
  else
    match s.sourceFault e plan with
    | some (code, detail, a) => (s, .stop code detail a)
    | none =>
      match s.destFault e l with
      | some (code, detail, a) => (s, .stop code detail a)
      | none =>
        let writes := (plan.filter fun x => x.2).map fun x => x.1
        let base := d.1.ungrant e
        let r := base.grantAll (base.grantNeeds e writes []) []
        let e := { e with granted := r.2.1 }
        match r.2.2 with
        | some a => (r.1.putEng e, .stop codeCAPACITY 1 a)
        | none =>
          let s := (r.1.ungrant e).putEng { e with granted := [] }
          let e := { e with granted := [] }
          if e.kind == .dup then (plan.foldl (fun s x => s.dupBlock e x.1 x.2) s, .done)
          else
            let data := l.map fun p => (p, s.pieceData e p)
            (data.foldl (fun s x => s.engWrite e x.1.a x.1.n x.2) s, .done)
/-- A chunk that stops: it stalls on a fault that can be recovered, capacity always. -/
def State.chunkStop (s : State) (id code detail a : Nat) : State :=
  match s.eng? id with
  | none => s
  | some e => if code == codeCAPACITY then s.putEng { e with stall := some (code, a) } else s.engStop e code detail a
/-- Whether every earlier operation of its group on its engine is over. -/
def State.headOp (s : State) (e : Engine) : Bool :=
  !(s.engs.takeWhile fun x => x.id != e.id).any fun x => x.gid == e.gid && x.sameEngine e
/-- R272: the next chunk of a tender operation. -/
def State.commitChunk (s : State) (id : Nat) : State :=
  match s.eng? id with
  | none => s
  | some e =>
    if !e.kind.tender || !s.headOp e || e.cancel || e.failed.isSome || e.stall.isSome then s
    else
      let s := if e.plan.isNone then s.planEng e else if e.lag then s.keepSource e else s
      match s.eng? id with
      | none => s
      | some e =>
        let lo := chunkBytes * e.chunk
        if e.plan.isNone || e.lag || e.failed.isSome || e.stall.isSome || e.total ≤ lo then s
        else
          let st := s.streamOf e
          let r := s.tryChunk e (piecesOf st 0 lo (lo + chunkBytes))
          match r.2 with
          | .wait => r.1
          | .stop code detail a => r.1.chunkStop id code detail a
          | .done =>
            match r.1.eng? id with
            | none => r.1
            | some e => r.1.putEng { e with chunk := e.chunk + 1, owned := s.linesIn e (streamDrop st (lo + chunkBytes)) }
def execTenderChunkCommit (eng : Nat) (s : State) : Out := .next (s.commitChunk eng)

/-! ## Completion and failure (R270, R337, R376 to R378) -/

/-- The state without an operation and its bucket. -/
def State.dropEng (s : State) (id : Nat) : State :=
  { s with engs := s.engs.filter (fun e => e.id != id)
           ctxs := s.ctxs.map fun (c : Context) => { c with buckets := c.buckets.filter fun b => b.eng != id } }
/-- R278: the result of `coll.norm` in its mailbox. -/
def State.normResult (s : State) (e : Engine) : State :=
  if e.kind != .norm then s
  else
    let x := fsqrt (e.reduced (s.rankSet e.part e.rset) fadd 0)
    match s.ctx? e.asid with
    | none => s
    | some c =>
      let m := (c.mboxes[e.b.toNat]?).getD ⟨0, 0, false⟩
      s.putCtx { c with mboxes := c.mboxes.set e.b.toNat ⟨x, (m.seq + 1) % 2 ^ 31, true⟩ }
/-- An operation over: its handles are full. -/
def State.engDone (s : State) (e : Engine) : State := ((s.normResult e).dropEng e.id).complete e.part e.tok e.total
/-- Whether a collective may start: at once, or once its bucket has counted enough. -/
def State.mayStart (s : State) (e : Engine) : Bool :=
  match s.bucket? e.id with
  | some b => decide (b.expect ≤ b.count)
  | none => e.kind != .bucket
/-- A turntable operation carried as far as it goes: planned, started, written, complete. -/
def State.collStep (s : State) (id : Nat) : State :=
  let s := match s.eng? id with
    | none => s
    | some e => if e.plan.isNone then s.planEng e else s
  let s := match s.eng? id with
    | none => s
    | some e => if e.plan.isNone || e.started || e.failed.isSome || !s.mayStart e then s else s.startColl e
  match s.eng? id with
  | none => s
  | some e =>
    if !e.started || e.failed.isSome || !s.headOp e || !e.arrived (s.rankSet e.part e.rset) then s
    else
      let e := { e with total := collBytes e.c * e.destCount (s.rankSet e.part e.rset).ranks }
      let r := s.tryChunk e (piecesOf (s.streamOf e) 0 0 e.total)
      match r.2 with
      | .wait => r.1
      | .stop code detail a => r.1.chunkStop id code detail a
      | .done => r.1.engDone e
/-- R270: an operation whose reads and writes are performed fills its handle. -/
def State.engComplete (s : State) (id : Nat) : State :=
  match s.eng? id with
  | none => s
  | some e =>
    if e.failed.isSome || e.stall.isSome then s
    else if e.kind.tender then
      if s.headOp e && !e.cancel && e.plan.isSome && decide (e.total ≤ chunkBytes * e.chunk) then s.engDone e else s
    else s.collStep id
def execEngineOperationComplete (eng : Nat) (s : State) : Out := .next (s.engComplete eng)

/-- R377: the news of a failure sent to the ranks it concerns. -/
def State.tellFailure (s : State) (e : Engine) (code : Nat) : State :=
  if e.kind.tender || e.kind == .bucket then s
  else
    let rs := s.rankSet e.part e.rset
    rs.ports.foldl (fun s p =>
      if p.1 != rs.own && (e.kind.toAll || p.1 == collPeer e.c) then s.sendFlit p.2 2 (.failed e.rset (e.failKey rs.own) code)
      else s) s
/-- R339, R376 to R378: a failed or cancelled operation is over: its handles are errored, its lines are owned no more, and a
failure leaves an ENGINE record. -/
def State.engFail (s : State) (id : Nat) : State :=
  match s.eng? id with
  | none => s
  | some e =>
    if !s.headOp e then s
    else
      match e.failed with
      | some (code, va, pfx) =>
        let s := ((s.ungrant e).tellFailure e code).dropEng id
        (s.failOp e.part e.tok code pfx).post e.asid (s.engineRec e.gid code va)
      | none =>
        if e.cancel && e.kind.tender then
          ((s.ungrant e).dropEng id).failOp e.part e.tok 0xFF (min e.total (chunkBytes * e.chunk))
        else s
def execEngineFailure (eng : Nat) (s : State) : Out := .next (s.engFail eng)

/-! ## Flits received (R313) -/

def execFlitReceive (port : Nat) (f : Flit) (s : State) : Out := .next (s.receiveFlit port f)

end Sys2Proof.Machine
end

