-- ==== Sys2Proof/Machine/System.lean ====
section
/-! DEFINITION. Machine/System.lean: class K: state registers (03_encoding R79, 12_engines_system R283, R284), traps (R285), bank
modes (R287, 05_memory R119), event queues (R288, 17_system R311, R312). -/

namespace Sys2Proof.Machine

/-! ## State registers (R79) -/

/-- Whether an SRN is listed. -/
def srnListed (n : Nat) : Bool :=
  decide (n ≤ 6) || (decide (0x10 ≤ n) && decide (n ≤ 0x15)) || (decide (0x20 ≤ n) && decide (n ≤ 0x27)) ||
    (decide (0x30 ≤ n) && decide (n ≤ 0x32)) || (decide (0x40 ≤ n) && decide (n ≤ 0x42)) || n == 0x50 || n == 0x60
/-- A mailbox as a 64-bit word (R278). -/
def Mbox.word (m : Mbox) : Nat := m.val.toNat + m.seq % 2 ^ 31 * 2 ^ 32 + (if m.valid then 2 ^ 63 else 0)
/-- PARTITION (R308). -/
def Partition.word (p : Partition) (k : Nat) : Nat := k % 8 + p.first % 8 * 2 ^ 8 + p.tiles % 16 * 2 ^ 16
/-- ROWTAB (R264). -/
def Core.rowtab (c : Core) : Nat :=
  total c.rows fun r => 2 ^ r.e + (match r.st with | .expired _ => 2 ^ (16 + r.e) | _ => 0)
/-- VAULT.RETRAIN (R131) of the vault above a core. -/
def State.retrainWord (s : State) (core : Nat) : Nat :=
  match (s.vault core).window with
  | none => 0
  | some w =>
    let cc := s.ccOf core ((if w.active then w.start + w.len else w.start) - s.time)
    cc % 2 ^ 32 + s.ccOf core w.len % 2 ^ 16 * 2 ^ 32 + (if w.active then 2 ^ 48 else 0)
/-- The pair with the least first number, the earliest of equals. -/
def earliestOf (l : List (Nat × Nat)) : Option (Nat × Nat) :=
  l.foldl (fun best p =>
    match best with
    | none => some p
    | some b => if p.1 < b.1 then some p else some b) none
/-- The start of a bank's next refresh slot, at or after a time in sevenths of a nanosecond, that has not begun, given the number of
its slots that have. -/
def nextSlot (b t begun : Nat) : Nat := slotStart b (max begun ((t - slotStart b 0 + 27299) / 27300))
/-- VAULT.REFRESH (R131): the slot in progress that ends first, else the slot that begins next. -/
def State.refreshWord (s : State) (core : Nat) : Nat :=
  let v := s.vault core
  let running := (List.range 192).filterMap fun b =>
    match v.bankState b with
    | .refreshing t => some (t + s.dramCc core 200 - s.now core, b)
    | _ => none
  let mhz := (s.tiles[tileOf core]?.map (·.mhz)).getD nominalMHz
  match earliestOf running with
  | some (cc, b) => cc % 2 ^ 16 + b * 2 ^ 16 + 2 ^ 24
  | none =>
    match earliestOf ((List.range 192).map fun b => (nextSlot b (7 * s.time) (v.dbank b).slots, b)) with
    | some (t, b) => ((t - 7 * s.time) * mhz + 6999) / 7000 % 2 ^ 16 + b * 2 ^ 16
    | none => 0
/-- What a state register of a group reads; PANTRY.FREE and PANTRY.HELD are read at the pantry home. -/
def State.sreg (s : State) (g : Group) (n : Nat) : Nat :=
  let c := s.ctx? g.asid
  let part := g.id.team.grid.part
  let grid := s.grid? g.id.team.grid
  match n with
  | 0x000 => s.now g.core % 2 ^ 64
  | 0x001 => s.time % 2 ^ 64
  | 0x002 => g.id.team.grid.tok % 2 ^ 40
  | 0x003 => (grid.map fun x => x.q.teams).getD 0
  | 0x004 => g.core + g.quad * 2 ^ 8
  | 0x005 => ((s.part? part).map fun p => p.word part).getD 0
  | 0x006 => g.asid % 2 ^ 16
  | 0x012 => ((c.map (·.watermark)).getD 0) % 2 ^ 40
  | 0x013 => ((c.map (·.balloonReq)).getD 0) % 2 ^ 40
  | 0x014 => ((c.map (·.balloonList)).getD 0) % 2 ^ 56
  | 0x015 => ((s.part? part).map (·.ratio)).getD 0 % 2 ^ 10
  | 0x030 => (s.core g.core).rowtab
  | 0x031 => s.retrainWord g.core
  | 0x032 => s.refreshWord g.core
  | 0x040 => g.why.toNat
  | 0x041 => g.randkey.toNat
  | 0x042 => quadFrames - s.usedFrames g
  | 0x050 => g.stamp
  | 0x060 => total (List.range 16) fun t => if g.count t = 0 then 0 else 2 ^ t
  | _ => ((c.bind fun c => c.mboxes[n - 0x20]?).map Mbox.word).getD 0
/-- Checks of `sr.rd`. -/
def gateSrRd (f : K) (_s : State) (v : View) : Gate :=
  { chk := [(v.dDst f.d, 1), (srnListed f.srn.toNat, 8)], src := [], dst := [(f.d, 1)], masks := [], vals := [], late := []
    helps := false, unit := 0 }
/-- R145: a reading sent to the pantry home; its destination is empty until it returns. -/
def State.readPantry (s : State) (v : View) (f : K) : State :=
  let dest : Dest := match opd f.d with
    | .v r => .v r 1 v.whole
    | .s r => .s r
    | _ => .none
  match s.ctx? v.g.asid with
  | none => s
  | some c =>
    let r : PantryRead := ⟨s.nextId, v.g.id, f.srn == 0x011, v.c.lanes, dest⟩
    let s := (s.putCtx { c with reads := c.reads ++ [r] }).putGroup (v.g.emptyDest dest)
    { s with nextId := s.nextId + 1 }
/-- R284: a reading of STAMP.NEXT advances it. -/
def goSrRd (f : K) (s : State) (v : View) : Except Stop State :=
  let n := f.srn.toNat
  if n = 0x010 || n = 0x011 then .ok ((s.readPantry v f).pass v 1)
  else
    let g := v.writeD v.g f.d (BitVec.ofNat 64 (s.sreg v.g n))
    let g := if n = 0x050 then { g with stamp := (v.g.stamp + 1) % 512 } else g
    .ok ((s.putGroup g).pass v 1)
def execSrRd (f : K) (s : State) : Out := runFull 0 (gateSrRd f) (goSrRd f) s
/-- Checks of `sr.wr`. DEDUCED (log entry 159): D is a source of one value: a v code must be tagged U, and m, special and inline codes are
accepted. -/
def gateSrWr (f : K) (_s : State) (v : View) : Gate :=
  { chk := [(v.uniOk f.d, 1), (srnListed f.srn.toNat, 8)], src := [arg f.d 0 0], dst := [], masks := [], vals := [], late := []
    helps := false, unit := 0 }
/-- A context's register written: RW fields only, and ACK of BALLOON.REQ (R150). -/
def Context.writeSr (c : Context) (n : Nat) (x : W64) : Context :=
  match n with
  | 0x012 => { c with watermark := x.toNat % 2 ^ 40 }
  | 0x013 => if bitAt x.toNat 63 then { c with balloonReq := 0, owed := [] } else c
  | 0x014 => { c with balloonList := x.toNat % 2 ^ 56 }
  | n =>
    if 0x20 ≤ n && n ≤ 0x27 then
      let m := (c.mboxes[n - 0x20]?).getD ⟨0, 0, false⟩
      { c with mboxes := c.mboxes.set (n - 0x20) { m with val := x.setWidth 32 } }
    else c
/-- R149, R150: an ACK clears the rest of a target; what stands to other contexts' credit of it falls with it. -/
def goSrWr (f : K) (s : State) (v : View) : Except Stop State :=
  let n := f.srn.toNat
  let x := v.uni f.d
  let s := if n = 0x041 then s.putGroup { v.g with randkey := x }
    else match s.ctx? v.g.asid with
      | none => s
      | some c => s.putCtx (c.writeSr n x)
  .ok (s.pass v 1)
def execSrWr (f : K) (s : State) : Out := runFull 0 (gateSrWr f) (goSrWr f) s

/-! ## Traps (R285) -/

def execTrap (_f : K) (s : State) : Out :=
  runFull 0 (fun _ _ => ⟨[], [], [], [], [], [], false, 0⟩) (fun _ _ => .error (.fault codeTRAP 0 0)) s
def execBrk (_f : K) (s : State) : Out :=
  runFull 0 (fun _ _ => ⟨[], [], [], [], [], [], false, 0⟩) (fun _ _ => .error (.fault codeBRK 0 0)) s

/-! ## `bank.mode` (R287, R119) -/

/-- Checks of `bank.mode`. -/
def gateBankMode (f : K) (_s : State) (v : View) : Gate :=
  { chk := [(isS f.d, 1)], src := [arg f.d 0 0], dst := [], masks := []
    vals := [(decide ((v.uni f.d).toNat < v.g.banks), 0x11)], late := [], helps := false, unit := 0 }
/-- The mode IMM6 names. -/
def modeOf (n : Nat) : BankMode := match n with | 0 => .way | 1 => .scratch | _ => .fifo
/-- The change is under way from now on; a second one of a bank waits. -/
def goBankMode (f : K) (s : State) (v : View) : Except Stop State :=
  let k := pairOf v.g.core
  let b := s.bankOf v.g.id.team ((v.uni f.d).toNat * bankBytes)
  let x := (s.pair k).bank b
  if x.switch.isSome then .error .wait
  else
    let s := s.putPair k ((s.pair k).putBank b { x with switch := some (modeOf f.imm.toNat, s.nextId) })
    .ok (s.pass v 1)
def execBankMode (f : K) (s : State) : Out := runFull 0 (gateBankMode f) (goBankMode f) s
/-- A bank in a new mode (R119). -/
def CBank.enter (b : CBank) (m : BankMode) : CBank := { b with mode := m, bytes := [], fifo := [], bad := [], switch := none }
/-- Whether an access of the pair to a bank that precedes a mode change is still under way. -/
def State.bankBusy (s : State) (pair b at_ : Nat) : Bool :=
  (s.ops.any fun o => decide (o.id < at_) && s.opPair o == pair && o.parts.any fun p =>
    p.st != .done && match p.loc with
      | .bank n _ => n == b
      | .glob _ => false) ||
  (s.engs.any fun e => decide (e.id < at_) && pairOf e.core == pair &&
    ((s.streamOf e).map (fun r => (r.1, r.2.1)) ++ e.sources).any fun r => decide (scratchBase ≤ r.1) &&
      (linesOf r.1 r.2).any fun p => (s.engBank e p.1).1 == b) ||
  (s.groups.any fun g => pairOf g.core == pair && g.cohorts.any fun c =>
    match c.prog with
    | .fifo _ _ _ bank _ _ => bank == b
    | _ => false)
/-- R119: the bank changes mode once every earlier access to it has completed; a bank that leaves way mode takes its lines. -/
def State.switchBank (s : State) (pair b : Nat) : State :=
  let pr := s.pair pair
  let x := pr.bank b
  match x.switch with
  | none => s
  | some (m, at_) =>
    if s.bankBusy pair b at_ then s
    else
      let pr := { pr with l1 := pr.l1.filter fun l => l.bank != b }
      s.putPair pair (pr.putBank b (x.enter m))
def execBankModeSwitch (pair bank : Nat) (s : State) : Out := .next (s.switchBank pair bank)

/-! ## Event queues (R288, R311, R312) -/

/-- HEAD of an event queue. -/
def State.queueHead (s : State) (asid : Nat) (q : EventQueue) : Nat :=
  match q.base with
  | .va a => s.engLoad asid (a + 0x10000) 8 % eventEntries
  | .iova a => cellsRead s.hostMem (a + 0x10000) 8 % eventEntries
/-- Whether a queue has room beyond `n` entries. -/
def State.queueRoom (s : State) (asid : Nat) (q : EventQueue) (n : Nat) : Bool :=
  let head := s.queueHead asid q
  decide ((q.next % eventEntries + eventEntries - head) % eventEntries + n + 1 < eventEntries)
/-- An event of the signal box or the timetable to be appended to a queue of a context. -/
def Context.postEvent (c : Context) (q kind core : Nat) (payload : W64) : Context :=
  match c.queues[q]? with
  | none => c
  | some x => { c with queues := c.queues.set q { x with waiting := x.waiting ++ [(kind, core, payload)] } }
def State.postEvent (s : State) (asid q kind core : Nat) (payload : W64) : State :=
  match s.ctx? asid with
  | none => s
  | some c => s.putCtx (c.postEvent q kind core payload)
/-- Checks of `evt.post`. -/
def gateEvtPost (f : K) (_s : State) (_v : View) : Gate :=
  { chk := [(isS f.d, 1), (decide (f.imm.toNat ≤ 15), 6)], src := [arg f.d 0 0], dst := [], masks := [], vals := [], late := []
    helps := false, unit := 0 }
/-- R288: a release on all tracks, then the event; the instruction waits while its queue has no room. -/
def goEvtPost (f : K) (s : State) (v : View) : Except Stop State :=
  afterRelease s v allTracks fun s =>
    let q := f.imm.toNat
    match (s.ctx? v.g.asid).bind fun c => c.queues[q]? with
    | none => .error .wait
    | some x =>
      if s.queueRoom v.g.asid x x.waiting.length then
        .ok (((s.markAll v.g.id).postEvent v.g.asid q 0 v.g.core (v.uni f.d)).pass v 1)
      else .error .wait
def execEvtPost (f : K) (s : State) : Out := runFull 0 (gateEvtPost f) (goEvtPost f) s

/-- Bytes 8 to 15 of the entry of index `i` (R311). -/
def entryTail (kind core i : Nat) : Nat :=
  kind % 2 ^ 8 + core % 2 ^ 8 * 2 ^ 8 + (if i / eventEntries % 2 = 0 then 2 ^ 63 else 0)
/-- Whether the device can write 16 bytes of a queue in a context's memory now. -/
def State.entryOk (s : State) (asid va : Nat) : Bool :=
  let t := s.canon asid va
  let b := t.2.1 / lineBytes
  (s.engFault asid va 16 true false).isNone && !s.lineReserving (s.lineKey asid va) &&
    (s.owner? (s.lineKey asid va)).isNone &&
    match s.ctx? t.1 with
    | none => false
    | some c => (c.dirty? b).isSome || decide (s.need t.1 b (s.home t.1 t.2.1) ≤ c.free)
/-- A device write of `n` bytes to a context's memory, within a line, whose reservation can be met. -/
def State.deviceWrite (s : State) (asid va n x : Nat) : State :=
  let t := s.canon asid va
  ((((s.bring t.1 t.2.1 n true).dirtied t.1 (t.2.1 / lineBytes)).store t.1 t.2.1 n x).wrote t.1 t.2.1 n).wroteL2 t.1 t.2.1 n
/-- A queue of a context written back. -/
def State.putQueue (s : State) (asid q : Nat) (x : EventQueue) : State :=
  match s.ctx? asid with
  | none => s
  | some c => s.putCtx { c with queues := c.queues.set q x }
/-- R312: the oldest waiting event of a queue appended, once the vault lets the write in (R128 to R130). -/
def State.appendEvent (s : State) (asid q : Nat) : State :=
  match s.ctx? asid with
  | none => s
  | some c =>
    match c.queues[q]? with
    | none => s
    | some x =>
      match x.waiting with
      | [] => s
      | (kind, core, payload) :: rest =>
        let done : EventQueue := { x with next := x.next + 1, waiting := rest }
        let off := 16 * (x.next % eventEntries)
        if !s.queueRoom asid x 0 then s
        else
          match x.base with
          | .iova a =>
            let h := cellsWrite (cellsWrite s.hostMem (a + off) 8 payload.toNat) (a + off + 8) 8 (entryTail kind core x.next)
            let s : State := { s with hostMem := h, reports := s.reports ++ [.msix c.part q] }
            s.putQueue asid q done
          | .va a =>
            let t := s.canon asid (a + off)
            let d := s.reach t.1 t.2.1 16 true (eventAccess asid q)
            if !s.entryOk asid (a + off) then s
            else if !d.2 then d.1
            else
              let s := (d.1.unheld (eventAccess asid q)).putQueue asid q done
              (s.deviceWrite asid (a + off) 8 payload.toNat).deviceWrite asid (a + off + 8) 8 (entryTail kind core x.next)
def execEventAppend (asid q : Nat) (s : State) : Out := .next (s.appendEvent asid q)

end Sys2Proof.Machine
end

