-- ==== Sys2Proof/Machine/Supply.lean ====
section
/-! DEFINITION. Machine/Supply.lean: where the signal box finds sectors and maps pages (06_compression R147 to R151, 05_memory
R111, R126, 20_faults_memory R368, R371). -/

namespace Sys2Proof.Machine

/-! ## Free pool and balloon requests (R147 to R149) -/

/-- R147: the free pool of a partition. -/
def State.freePool (s : State) (part : Nat) : Nat :=
  match s.part? part with
  | none => 0
  | some p => p.pool - total (s.ctxs.filter fun c => c.part == part) fun c => c.budget + c.saveReserve
/-- `n` sectors more in a context's budget. -/
def Context.raise (c : Context) (n : Nat) : Context := { c with budget := c.budget + n, free := c.free + n }
def State.raiseBudget (s : State) (asid n : Nat) : State :=
  match s.ctx? asid with
  | none => s
  | some c => s.putCtx (c.raise n)
/-- R149: what is still outstanding of the targets posted on a context's behalf. -/
def State.outstanding (s : State) (asid : Nat) : Nat :=
  total s.ctxs fun c => total (c.owed.filter fun p => p.1 == asid) (·.2)
/-- A target posted to a context, with its event. DESIGN CHOICE (log entry 140): a target of 0 is none. -/
def Context.ask (c : Context) (short n : Nat) : Context :=
  if n = 0 then c
  else
    let c := { c with balloonReq := c.balloonReq + n, owed := c.owed ++ [(short, n)] }
    c.postEvent c.notify 2 0xFF (BitVec.ofNat 64 n)
/-- Targets posted to contexts in turn until they cover `n` sectors. -/
def State.askAll (s : State) (short n : Nat) (l : List Context) : State :=
  match l with
  | [] => s
  | c :: rest => (s.putCtx (c.ask short (min n (s.used c)))).askAll short (n - min n (s.used c)) rest
/-- The other contexts of a partition, in descending order of used sectors, ties in ascending ASID. DESIGN CHOICE (log entry 141):
but for those being torn down. -/
def State.donors (s : State) (part asid : Nat) : List Context :=
  let l := s.ctxs.filter fun c => c.part == part && c.asid != asid && !c.ending
  sortBy (fun c => vaultSectors * 128 - s.used c) (sortBy (·.asid) l)
/-- R149: requests for what a context's shortfall of `n` sectors exceeds those outstanding for it by. -/
def State.request (s : State) (asid n : Nat) : State :=
  match s.ctx? asid with
  | none => s
  | some c =>
    let n := n - s.outstanding asid
    match s.donors c.part asid with
    | [] => s.putCtx (c.ask asid n)
    | l => s.askAll asid n l
/-- R148. -/
def State.topUp (s : State) (asid : Nat) : State :=
  match s.ctx? asid with
  | none => s
  | some c =>
    if c.ending || decide (c.watermark ≤ c.free) then s
    else
      let want := 2 * c.watermark - c.free
      let n := min want (s.freePool c.part)
      (s.raiseBudget asid n).request asid (want - n)
def execTopUp (asid : Nat) (s : State) : Out := .next (s.topUp asid)

/-! ## Writes of the signal box in settled form (R151, R368) -/

/-- Sectors a block grows by when it is settled with `n` bytes of it at `va` replaced. -/
def State.growth (s : State) (asid va n x : Nat) : Nat :=
  let b := va / lineBytes
  let own := ((s.ctx? asid).map fun c => ownedSize (s.vault (s.home asid va)) (c.entry b)).getD 0
  codeSize ((s.store asid va n x).blockCode asid b).1 - own
/-- `n` bytes of a clean block written and settled at once; growth comes from FREE, and POISON stays. -/
def State.writeSettled (s : State) (asid va n x : Nat) : State :=
  match s.ctx? asid with
  | none => s
  | some c =>
    let b := va / lineBytes
    let bad := (c.entry b).poison
    let s := (((s.putCtx (c.raise 8)).dirtied asid b).store asid va n x).wrote asid va n
    let s := (s.settle asid b).1
    let s := s.dropL2 (s.home asid va) asid b
    match s.ctx? asid with
    | none => s
    | some c =>
      let c := { c with budget := c.budget - 8, free := c.free - 8 }
      s.putCtx (if bad then c.setEntry b { c.entry b with poison := true } else c)
/-- Whether an address of a context lies on a row page, whose blocks are never encoded (R134). -/
def State.onRow (s : State) (asid va : Nat) : Bool :=
  (((s.ctx? asid).bind fun c => c.page? va).map fun p => descRow p.desc).getD false
/-- Such a write, or nothing where FREE cannot supply its growth; on a row page the bytes are written in their row slot. -/
def State.tryWrite (s : State) (asid va n x : Nat) : State :=
  let t := s.canon asid va
  if s.onRow t.1 t.2.1 then (s.store t.1 t.2.1 n x).wrote t.1 t.2.1 n
  else
    let s := s.settleLine t.1 (t.2.1 / lineBytes)
    match s.ctx? t.1 with
    | none => s
    | some c => if c.free < s.growth t.1 t.2.1 n x then s else s.writeSettled t.1 t.2.1 n x

/-! ## The balloon list (R151) -/

/-- R146 for the blocks of a region: those of mapped pages that are not row pages. -/
def State.discardRegion (s : State) (asid va len : Nat) : State :=
  (List.range (len / lineBytes)).foldl (fun s i =>
    let t := s.canon asid (va + lineBytes * i)
    match (s.ctx? t.1).bind fun c => c.page? t.2.1 with
    | none => s
    | some p =>
      if descRow p.desc then s
      else (s.replaceBlock t.1 (t.2.1 / lineBytes) 0).wrote t.1 (t.2.1 / lineBytes * lineBytes) lineBytes) s
/-- The entries of a context's list: place of LENGTH, VA, LENGTH; those of length 0 have been used. -/
def State.balloonEntries (s : State) (c : Context) : List (Nat × Nat × Nat) :=
  if c.balloonList = 0 then []
  else
    let n := min 4096 (s.engLoad c.asid c.balloonList 4)
    ((List.range n).map fun k =>
      let a := c.balloonList + 16 + 16 * k
      (a + 8, s.engLoad c.asid a 8 % 2 ^ 56, s.engLoad c.asid (a + 8) 8)).filter fun e => e.2.2 != 0
/-- Entries discarded whole, in order, until FREE reaches `need`. -/
def State.useBalloon (s : State) (asid need : Nat) (l : List (Nat × Nat × Nat)) : State :=
  match l with
  | [] => s
  | (at_, va, len) :: rest =>
    match s.ctx? asid with
    | none => s
    | some c =>
      if need ≤ c.free then s
      else ((s.discardRegion asid va (min len (2 ^ 56 - va))).tryWrite asid at_ 8 0).useBalloon asid need rest

/-! ## Seeking sectors (R371) -/

/-- How a search for sectors stands. -/
inductive Seek where
  | got | waiting | failed
  deriving DecidableEq, Repr

/-- A context's wait under a key begun, or over. -/
def Context.waitOn (c : Context) (key now : Nat) : Context := { c with waitSince := assocSet key now c.waitSince }
def Context.waitOff (c : Context) (key : Nat) : Context := { c with waitSince := c.waitSince.filter fun p => p.1 != key }
/-- The free pool gives what FREE lacks of `need`, as far as it goes. -/
def State.fromPool (s : State) (asid need : Nat) : State :=
  match s.ctx? asid with
  | none => s
  | some c => s.raiseBudget asid (min (need - c.free) (s.freePool c.part))
/-- Milliseconds of R371 and R306 in nanoseconds. -/
def balloonWait : Nat := 10000000
/-- R371 steps 1 to 4 for `need` sectors, under a key: the list, the free pool, balloon requests and at most 10 ms of waiting
for them; `expire` where the end of the wait is what happens now. -/
def State.seek (s : State) (asid key need : Nat) (expire : Bool) : State × Seek :=
  match s.ctx? asid with
  | none => (s, .failed)
  | some c =>
    let since := assoc key c.waitSince
    let s := if since.isSome then s else s.useBalloon asid need (s.balloonEntries c)
    let s := s.fromPool asid need
    match s.ctx? asid with
    | none => (s, .failed)
    | some c =>
      if need ≤ c.free then (s.putCtx (c.waitOff key), .got)
      else
        match since with
        | none => ((s.putCtx (c.waitOn key s.time)).request asid (need - c.free), .waiting)
        | some t =>
          if expire && decide (t + balloonWait ≤ s.time) then (s.putCtx (c.waitOff key), .failed) else (s, .waiting)

/-! ## Mapping pages (R111, R126, R147) -/

/-- Sectors of a table whose entries are of a level, and of the map segment of a page of a level. -/
def tableSectors (level : Nat) : Nat :=
  match level with
  | 0 => 512 | 1 => 512 | 2 => 256 | _ => 4
def segmentSectors (level : Nat) : Nat :=
  match level with
  | 1 => 1048576 | 2 => 512 | _ => 16
/-- The level whose pages have a KIND. -/
def kindLevel (kind : Nat) : Option Nat :=
  match kind with
  | 0 => some 3 | 1 => some 2 | 2 => some 1 | _ => none
/-- A descriptor of the next table; where the signal box places tables no program sees. -/
def tableDesc : W64 := 7
/-- The context with a descriptor written; 0 is not listed. -/
def Context.setDesc (c : Context) (level pre : Nat) (d : W64) : Context :=
  if d = 0 then { c with descs := c.descs.filter fun p => p.1 != (level, pre) }
  else { c with descs := assocSet (level, pre) d c.descs }
/-- Whether a page of a level may stand at an address: every level above has a table or nothing. -/
def Context.pathFree (c : Context) (level va : Nat) : Bool :=
  (List.range level).all fun l => !descV (c.desc l va) || descKind (c.desc l va) == 3
/-- The context with the tables above a page of a level, and the sectors of those created. -/
def Context.addTables (c : Context) (level va : Nat) : Context × Nat :=
  (List.range level).foldl (fun acc l =>
    if descV (acc.1.desc l va) then acc
    else (acc.1.setDesc l (va / 2 ^ levelShift l) tableDesc, acc.2 + tableSectors (l + 1))) (c, 0)
/-- R126: the row of its bank that the signal box picks for a row slot: its own choice where that row holds nothing, else the
first that holds nothing. -/
def Vault.pickRow (v : Vault) (tick slot bank : Nat) : Option Nat :=
  let free := fun r => decide (r < 9216) && v.runFree (bank * bankSectors + 32 * r) 32
  let c := Config.rowChoice tick slot
  if free c then some c else (List.range 9216).find? free
/-- Row slots of a page of `n` bytes given their rows; none where a bank has no free row left. -/
def State.placeRows (s : State) (asid va slots : Nat) (p : PageOf) : Option State :=
  match slots with
  | 0 => some s
  | j + 1 =>
    match s.placeRows asid va j p with
    | none => none
    | some s =>
      let n := descPidx p.desc
      let v := s.vault n
      let slot := va + platBytes * j
      let bank := 32 * descBg p.desc + j % 32
      match v.pickRow s.tick slot bank, s.ctx? asid with
      | some r, some c =>
        let first := bank * bankSectors + 32 * r
        let c := (List.range 4).foldl (fun (c : Context) b => c.setEntry (slot / lineBytes + b) ⟨7, false, false, 0, first + 8 * b⟩) c
        some ((s.putCtx c).putVault n { v with rows := v.rows ++ [(first, 32)] })
      | _, _ => none
/-- Whether a placement lies in a partition, and is one the page may have. -/
def Partition.places (p : Partition) (d : W64) : Bool :=
  match descPlc d with
  | 0 => true
  | 1 => decide (p.first ≤ descPidx d) && decide (descPidx d < p.first + p.tiles)
  | 2 => decide (16 * p.first ≤ descPidx d) && decide (descPidx d < 16 * (p.first + p.tiles))
  | _ => false
/-- R126: a row page is 64 KiB or 2 MiB, placed in a vault, in bank group 0 to 5. -/
def rowPageOk (d : W64) (level : Nat) : Bool := descPlc d == 2 && decide (descBg d ≤ 5) && level != 1
/-- R147: a page mapped at `va` under a valid descriptor: its tables and its segment are created; a row page takes its rows, any
other counts against the promise. None where that cannot be. DESIGN CHOICE (log entry 161): the promise is tested against the pool before the
page's own tables and segment leave it. -/
def State.mapPage (s : State) (asid va : Nat) (d : W64) : Option State :=
  match s.ctx? asid, kindLevel (descKind d) with
  | some c, some level =>
    match s.part? c.part with
    | none => none
    | some p =>
      let size := 2 ^ levelShift level
      let n := size / 64
      let row := bitAt d.toNat 7
      let ok := descV d && decide (va < 2 ^ 56) && va % size == 0 && !descV (c.desc level va) && c.pathFree level va &&
        p.places d && (if row then rowPageOk d level else decide (p.mapped + n ≤ p.pool * p.ratio / 256))
      if !ok then none
      else
        let r := c.addTables level va
        let cost := r.2 + segmentSectors level + (if row then n else 0)
        let s := s.putCtx (r.1.setDesc level (va / size) d)
        let s := s.putPart c.part { p with pool := p.pool - cost, mapped := p.mapped + (if row then 0 else n) }
        if row then s.placeRows asid va (size / platBytes) ⟨d, va, size⟩ else some s
  | _, _ => none

/-! ## Backing regions (R368) -/

/-- The page that holds an address, and its source in host memory. -/
def backingPage (r : BackingRegion) (va : Nat) : Nat × Nat := (va / 65536 * 65536, r.src + (va / 65536 * 65536 - r.va))
/-- Words of a block in host memory, and the sectors the block takes. -/
def State.hostWord (s : State) (a i : Nat) : Nat := cellsRead s.hostMem (a + 4 * i) 4
def State.hostBlockSize (s : State) (a : Nat) : Nat := codeSize (codeOfWords ((List.range 128).map (s.hostWord a))).1
/-- The sectors a backing page takes in settled form. -/
def State.backingSize (s : State) (src : Nat) : Nat := total (List.range 128) fun i => s.hostBlockSize (src + lineBytes * i)
/-- A backing page mapped, and filled from its source in settled form. -/
def State.fillBacking (s : State) (asid : Nat) (r : BackingRegion) (va : Nat) : Option State :=
  let p := backingPage r va
  match s.mapPage asid p.1 ((r.rights &&& 0x38) ||| 1) with
  | none => none
  | some s =>
    some ((List.range 128).foldl (fun s i =>
      s.writeSettled asid (p.1 + lineBytes * i) lineBytes (cellsRead s.hostMem (p.2 + lineBytes * i) lineBytes)) s)
/-- The distinct pages not yet mapped that hold these addresses, with their regions. -/
def State.backingPages (s : State) (asid : Nat) (l : List Nat) : List (BackingRegion × Nat) :=
  match s.ctx? asid with
  | none => []
  | some c =>
    l.foldl (fun acc a =>
      match c.backed a with
      | none => acc
      | some r =>
        let va := a / 65536 * 65536
        if (c.page? va).isSome || acc.any fun x => x.2 == va then acc else acc ++ [(r, va)]) []
/-- Pages filled one after another; none where one cannot be mapped. -/
def State.fillAll (s : State) (asid : Nat) (l : List (BackingRegion × Nat)) : Option State :=
  match l with
  | [] => some s
  | (r, va) :: rest =>
    match s.fillBacking asid r va with
    | none => none
    | some s => s.fillAll asid rest
/-- R368 steps 1 and 2 for these addresses, under a key: sectors are sought first, then the pages are mapped and filled. -/
def State.recoverBacking (s : State) (asid key : Nat) (l : List Nat) (expire : Bool) : State × Seek :=
  let pages := s.backingPages asid l
  let r := s.seek asid key (total pages fun p => s.backingSize (backingPage p.1 p.2).2) expire
  match r.2 with
  | .got =>
    match r.1.fillAll asid pages with
    | none => (r.1, .failed)
    | some s => (s, .got)
  | x => (r.1, x)
def execPageMap (asid va : Nat) (desc : W64) (s : State) : Out := .next ((s.mapPage asid va desc).getD s)

end Sys2Proof.Machine
end

