-- ==== Sys2Proof/Machine/Schedule.lean ====
section
/-! DEFINITION. Machine/Schedule.lean: the timetable and the dispatcher (13_scheduling R289 to R307, 12_engines_system R281,
17_system R309, R310, 18_faults R340, 21_faults_containment R382 to R384, R388, R390, 05_memory R405, R406), and the loader
(23_prog_capacity R397, 13 R292). -/

namespace Sys2Proof.Machine

/-! ## Launch records (R289, R294, R340) -/

/-- The words of a record from its bytes. -/
def recordOf (word : Nat → Nat) : LaunchWords :=
  let w := fun i => BitVec.ofNat 64 (word i)
  ⟨w 0, w 1, w 2, w 3, w 4, w 5, w 6, w 7⟩
/-- Reserved fields of a record that are zero. -/
def reservedZero (q : LaunchWords) : Bool :=
  bitsOf q.q0.toNat 59 5 == 0 && bitsOf q.q1.toNat 56 8 == 0 && bitsOf q.q2.toNat 56 8 == 0 && bitsOf q.q3.toNat 56 8 == 0 &&
    bitsOf q.q5.toNat 56 8 == 0 && bitsOf q.q6.toNat 56 8 == 0 && bitsOf q.q7.toNat 45 19 == 0
/-- Whether a team of a record fits an empty core, or pair. -/
def fitsEmpty (q : LaunchWords) : Bool := (q.cores 0).all fun c => State.reset.coreFits q 0 c
/-- R340, but for DEP: whether a record is accepted; DEDUCED (log entry 132): a team of more than 64 groups is not one (R21,
R289). -/
def recordOk (q : LaunchWords) : Bool :=
  q.widthCode != 3 && q.lendCode != 3 && decide (q.acc ≤ 8) && decide (q.plat ≤ 8) && decide (q.banks ≤ pairTeamBanks) &&
    decide (q.rdv ≤ 24) && (q.lendCode == 0 || decide (q.lend + 8 ≤ q.vregs)) && q.entry % 4 == 0 && q.trape % 4 == 0 &&
    bitsOf q.q4.toNat 0 32 % 4 == 0 && reservedZero q && decide (q.groups ≤ 64) && fitsEmpty q
/-- R294: whether a DEP token is one the partition has issued a launch under. -/
def Partition.depOk (p : Partition) (q : LaunchWords) : Bool :=
  q.dep == 0 || (tokKind (BitVec.ofNat 64 q.dep) == 3 && p.issued (BitVec.ofNat 64 q.dep))
/-- Whether the grid a record depends on has completed; has failed. -/
def Partition.depMet (p : Partition) (q : LaunchWords) : Bool :=
  let t := BitVec.ofNat 64 q.dep
  q.dep == 0 || (!p.isLive t && (p.failure? t).isNone)
def Partition.depFailed (p : Partition) (q : LaunchWords) : Bool := q.dep != 0 && (p.failure? (BitVec.ofNat 64 q.dep)).isSome
/-- The completion event of a grid, where its record asks for one (R297). -/
def State.completionEvent (s : State) (asid : Nat) (q : LaunchWords) (tok : W64) : State :=
  if q.cev then s.postEvent asid q.cq 1 0xFF (tok &&& 0xFFFFFFFFFF) else s
/-- A grid as it is submitted. -/
def newGrid (s : State) (id : GridId) (asid : Nat) (q : LaunchWords) (queue core : Nat) : Grid :=
  { id := id, asid := asid, q := q, queue := queue, core := core, next := 0, ended := [], again := [], failed := none
    bars := List.replicate 8 ⟨0⟩, kept := [], tick := s.tick, waitSince := none }
/-- A record reaches the timetable under a new token: rejected (R340), or at the end of its queue. `old` is the partition
before the token was issued. -/
def State.submit (s : State) (part asid queue core : Nat) (q : LaunchWords) (tok : W64) (old : Partition) : State :=
  if !recordOk q || !old.depOk q then (s.failOp part tok codeOPERAND 0).completionEvent asid q tok
  else
    let id : GridId := ⟨part, tok.toNat⟩
    match s.part? part with
    | none => s
    | some p =>
      let l := ((p.queues[queue]?).getD []) ++ [⟨id, old.depMet q⟩]
      { s.putPart part { p with queues := p.queues.set queue l } with
        grids := s.grids ++ [newGrid s id asid q queue core] }
/-- Whether a launch queue has room (R295). -/
def State.queueOpen (s : State) (part queue : Nat) : Bool :=
  ((s.part? part).map fun p => decide (((p.queues[queue]?).getD []).length < 256)).getD false

/-! ## `launch` (R281, R295, R390) -/

/-- Checks of `launch`: A global, B a queue. -/
def gateLaunch (f : E) (_s : State) (v : View) : Gate :=
  { gateE [(f.a, 2), (f.b, 3)] v with
    vals := [(globalAt (v.uni f.a) 1, 0x12), (decide ((v.uni f.b).toNat < 64), 0x13)]
    late := handleOk (v.g.handle f.h.toNat) }
/-- The launch issued: its record is read now, and submitted, or its read fails it with what it found. -/
def State.launchNow (s : State) (v : View) (f : E) (old : Partition) (bad : Option (Nat × Nat × Nat)) : State :=
  let part := v.g.id.team.grid.part
  let a := addrVa (v.uni f.a)
  let r := s.newToken part 3 0 v.g.core
  let s := ((r.1.pend v.g.id f.h.toNat r.2).countOp v true).keepOp v true r.2
  match bad with
  | some (code, detail, va) =>
    ((s.engConsume v.g.asid code detail va).failOp part r.2 code 0).post v.g.asid (s.engineRec v.g.id code va)
  | none =>
    let q := recordOf fun i => s.engLoad v.g.asid (a + 8 * i) 8
    s.submit part v.g.asid (v.uni f.b).toNat v.g.core q r.2 old
/-- Whether the vaults let the reads of a `launch`'s record in. -/
def State.recordReach (s : State) (v : View) (f : E) : State × Bool :=
  s.reachAll (accessId v.g.id v.c.cid true) (s.globReads v.g.asid (addrVa (v.uni f.a)) 64)
/-- R281, R295; a record whose line an engine owns is read once the engine has written it (05_memory R121), and once the vault
lets the read in (R128 to R130). -/
def goLaunch (f : E) (s : State) (v : View) : Except Stop State :=
  whileReleased s v (fun s => s.recordReach v f) <| afterRelease s v allTracks fun s =>
    match s.groupPart v.g with
    | none => .error .wait
    | some p =>
      let owned := (linesOf (addrVa (v.uni f.a)) 64).any fun x => (s.owner? (s.lineKey v.g.asid x.1)).isSome
      let bad := s.rangeFault v.g.asid (addrVa (v.uni f.a)) 64
      let d := s.recordReach v f
      if (v.g.handle f.h.toNat).st == .pending || s.spillFull v.g.asid || owned || !d.2 then .error .wait
      else
        match s.replayed v true with
        | some tok => .ok ((((s.markAll v.g.id).takeToken v f.h.toNat tok).countOp v true).pass v 1)
        | none =>
          if s.queueOpen v.g.id.team.grid.part (v.uni f.b).toNat then .ok ((((d.1.unheld (accessId v.g.id v.c.cid true)).markAll v.g.id).launchNow v f p bad).pass v 1)
          else .error .wait
def execLaunch (f : E) (s : State) : Out := runFull 0 (gateLaunch f) (goLaunch f) s

/-! ## Host rings (R309, R310) and the loader (R292, R397) -/

/-- Fields of RING.CFG. -/
def ringBase (cfg : W64) : Nat := bitsOf cfg.toNat 12 44 * 4096
def ringEntries (cfg : W64) : Nat := 2 ^ bitsOf cfg.toNat 56 4
def ringOn (cfg : W64) : Bool := bitAt cfg.toNat 63
def Partition.ring (p : Partition) (q : Nat) : Ring := (p.rings[q]?).getD ⟨0, 0, 0⟩
/-- The state with a change to a host ring. -/
def State.mapRing (s : State) (part q : Nat) (h : Ring → Ring) : State :=
  match s.part? part with
  | none => s
  | some p => s.putPart part { p with rings := p.rings.set q (h (p.ring q)) }
def execRingDoorbell (part q tail : Nat) (s : State) : Out :=
  .next (s.mapRing part q fun r => { r with tail := tail % 2 ^ 15 })
/-- SCRUB.PROGRESS (R320). -/
def Partition.scrubWord (p : Partition) : W64 :=
  BitVec.ofNat 64 (p.scrubDone % 2 ^ 40 + (if p.scrub.isEmpty then 0 else 2 ^ 63))
/-- R309, R310, R320: what a read in the control window of a partition's virtual function answers; offsets not listed read 0. -/
def Partition.controlWord (p : Partition) (off : Nat) : W64 :=
  let r := p.ring (off / 32)
  if off = 0x800 then p.scrubWord
  else if 0x800 ≤ off then 0
  else
    match off % 32 with
    | 0 => r.cfg
    | 8 => BitVec.ofNat 64 r.tail
    | 16 => BitVec.ofNat 64 r.head
    | _ => 0
/-- R309, R310: a write in the control window: RING.CFG keeps its RW fields; a doorbell is one; others are ignored. -/
def State.writeControl (s : State) (part off : Nat) (x : W64) : State :=
  if 0x800 ≤ off then s
  else if off % 32 = 0 then s.mapRing part (off / 32) fun r => { r with cfg := x &&& 0x8FFFFFFFFFFFF000 }
  else if off % 32 = 8 then s.mapRing part (off / 32) fun r => { r with tail := x.toNat % 2 ^ 15 }
  else s
def execControlRegisterWrite (part off : Nat) (v : W64) (s : State) : Out := .next (s.writeControl part off v)
/-- DESIGN CHOICE (log entry 21): the context that the grids of a partition's host rings belong to, the oldest. -/
def State.hostCtx (s : State) (part : Nat) : Option Context := s.ctxs.find? fun c => c.part == part && !c.ending
/-- R310, R295: the next unread record of a ring appended to its queue, once the queue has room. -/
def State.readRing (s : State) (part q : Nat) : State :=
  match s.part? part, s.hostCtx part with
  | some p, some c =>
    let r := p.ring q
    let n := ringEntries r.cfg
    if !ringOn r.cfg || r.head % n == r.tail % n || !s.queueOpen part q then s
    else
      let a := ringBase r.cfg + 64 * (r.head % n)
      let words := recordOf fun i => cellsRead s.hostMem (a + 8 * i) 8
      let t := s.newToken part 3 0 0
      (t.1.submit part c.asid q 0 words t.2 p).mapRing part q fun r => { r with head := (r.head + 1) % n }
  | _, _ => s
def execHostRingRead (part q : Nat) (s : State) : Out := .next (s.readRing part q)

/-- R403: a record as the loader fills it: CQ, CEV and the reserved fields, which no token sets, are 0. -/
def recordLoaded (q : LaunchWords) : LaunchWords :=
  let low := fun (x : W64) (n : Nat) => BitVec.ofNat 64 (x.toNat % 2 ^ n)
  { q0 := low q.q0 59, q1 := low q.q1 56, q2 := low q.q2 56, q3 := low q.q3 56, q4 := q.q4, q5 := low q.q5 56, q6 := low q.q6 56,
    q7 := low q.q7 40 }
/-- The 64 bytes of a record as a number. -/
def recordNumber (q : LaunchWords) : Nat :=
  [q.q0, q.q1, q.q2, q.q3, q.q4, q.q5, q.q6, q.q7].foldr (fun x n => x.toNat + 2 ^ 64 * n) 0
/-- A number as `n` bytes of a page. -/
def pageBytes (n x : Nat) : List Byte := (bytesLE n x).map (BitVec.ofNat 8)
/-- Bytes of the page under a descriptor. -/
def pageSize (d : W64) : Nat := 2 ^ levelShift ((kindLevel (descKind d)).getD 3)
/-- The loader's work on a source (R402): the pages declared, the runs of bytes written, the end of the page of the data position and the
position, the launch records, and whether a directive is rejected. -/
structure LoadScan where
  pages : List (Nat × W64)
  runs : List (Nat × List Byte)
  place : Option (Nat × Nat)
  launches : List (Nat × LaunchWords)
  bad : Bool
  deriving DecidableEq, Repr
/-- Bytes written at the data position: rejected before any page, past the end of the page, or over a byte written before. -/
def LoadScan.write (x : LoadScan) (l : List Byte) : LoadScan :=
  match x.place with
  | none => { x with bad := true }
  | some (e, p) =>
    if l.isEmpty then x
    else if decide (e < p + l.length) || x.runs.any fun r => overlaps r.1 r.2.length p l.length then { x with bad := true }
    else { x with runs := x.runs ++ [(p, l)], place := some (e, p + l.length) }
/-- R402, R403: a directive. -/
def LoadScan.item (x : LoadScan) (i : LoadItem) : LoadScan :=
  match i with
  | .page va d =>
    if x.pages.any fun (p : Nat × W64) => overlaps p.1 (pageSize p.2) va (pageSize d) then { x with bad := true }
    else { x with pages := x.pages ++ [(va, d)], place := some (va + pageSize d, va) }
  | .data a =>
    match x.pages.find? fun (p : Nat × W64) => decide (p.1 ≤ a) && decide (a < p.1 + pageSize p.2) with
    | none => { x with bad := true }
    | some p => { x with place := some (p.1 + pageSize p.2, a) }
  | .values n l => x.write (l.flatMap (pageBytes n))
  | .fill n v => if 2 ^ 24 < n then { x with bad := true } else x.write (List.replicate n (pageBytes 4 v.toNat)).flatten
  | .zero n => x.write (List.replicate n 0)
  | .align n =>
    if n = 0 || 65536 < n || n != 2 ^ Nat.log2 n then { x with bad := true }
    else x.write (List.replicate (((x.place.map fun p => roundUp p.2 n - p.2)).getD 0) 0)
  | .launch prio q =>
    let q := recordLoaded q
    let y : LoadScan := { x with place := x.place.map fun (p : Nat × Nat) => (p.1, roundUp p.2 64) }
    if 4 ≤ prio then { x with bad := true }
    else { y.write (pageBytes 64 (recordNumber q)) with launches := x.launches ++ [(prio, q)] }
/-- A source as the loader reads it. -/
def scanItems (l : List LoadItem) : LoadScan := l.foldl LoadScan.item ⟨[], [], none, [], false⟩
/-- The blocks of a page that data directives write. -/
def LoadScan.blocks (x : LoadScan) (page : Nat × W64) : List Nat :=
  ((x.runs.flatMap fun r => if decide (page.1 ≤ r.1) && decide (r.1 < page.1 + pageSize page.2) then
    (linesOf r.1 r.2.length).map fun p => p.1 / lineBytes else []).eraseDups)
/-- Bytes of a block, as one number. -/
def LoadScan.blockData (x : LoadScan) (b : Nat) : Nat :=
  total x.runs fun r =>
    let lo := max r.1 (b * lineBytes)
    let hi := min (r.1 + r.2.length) ((b + 1) * lineBytes)
    if hi ≤ lo then 0
    else ((r.2.drop (lo - r.1)).take (hi - lo)).foldr (fun (c : Byte) n => c.toNat + 256 * n) 0 * 256 ^ (lo - b * lineBytes)
/-- One block written: settled, its sectors from the free pool; a block of a row page stands in its row. None where the free pool
is short. -/
def State.loadBlock (s : State) (asid part : Nat) (row : Bool) (b x : Nat) : Option State :=
  if row then some (s.store asid (b * lineBytes) lineBytes x)
  else
    let n := s.growth asid (b * lineBytes) lineBytes x
    if s.freePool part < n then none else some ((s.raiseBudget asid n).writeSettled asid (b * lineBytes) lineBytes x)
/-- Blocks written in order, as far as the free pool supplies them; answers whether all were. -/
def State.loadBlocks (s : State) (asid part : Nat) (row : Bool) (l : List (Nat × Nat)) : State × Bool :=
  match l with
  | [] => (s, true)
  | b :: rest =>
    match s.loadBlock asid part row b.1 b.2 with
    | none => (s, false)
    | some s => s.loadBlocks asid part row rest
/-- Loading stops with an error reported to the host (R397). -/
def State.stopLoad (s : State) (asid : Nat) : State :=
  match s.ctx? asid with
  | none => s
  | some c => { s.putCtx { c with loadStopped := true } with reports := s.reports ++ [.load asid] }
/-- R397: pages mapped and their data settled, in order; answers whether all were. Where one cannot be, what has been settled stays. -/
def State.loadPages (s : State) (asid part : Nat) (x : LoadScan) (l : List (Nat × W64)) : State × Bool :=
  match l with
  | [] => (s, true)
  | page :: rest =>
    match s.mapPage asid page.1 page.2 with
    | none => (s, false)
    | some s =>
      let r := s.loadBlocks asid part (descRow page.2) ((x.blocks page).map fun b => (b, x.blockData b))
      if r.2 then r.1.loadPages asid part x rest else r
/-- Records written by the loader, to be submitted in their order (R403). -/
def State.queueLaunches (s : State) (asid : Nat) (l : List (Nat × LaunchWords)) : State :=
  match s.ctx? asid with
  | none => s
  | some c => if l.isEmpty then s else s.putCtx { c with toSubmit := c.toSubmit ++ l }
/-- R397, R402, R403: a source loaded: rejected whole where a directive is; else every page, and every record in it, is settled. A short
pool stops the loading with an error to the host. -/
def State.loadItems (s : State) (asid : Nat) (l : List LoadItem) : State :=
  let x : LoadScan := scanItems l
  let r := if x.bad then (s, false) else s.loadPages asid (s.partOf asid) x x.pages
  if r.2 then r.1.queueLaunches asid x.launches else r.1.stopLoad asid
/-- DESIGN CHOICE (log entry 143): a directive the loader rejects (R402) stops the loading as a short pool does; no later load goes
on. -/
def execLoaderLoad (asid : Nat) (items : List LoadItem) (s : State) : Out :=
  .next (if ((s.ctx? asid).map (·.loadStopped)).getD true then s else s.loadItems asid items)
/-- R292, R403: the loader submits record `rec`, once that is the next of those it has written, to queue 16 × prio, once that has room;
none after an error (R397), and none before every page of its source is settled. -/
def State.loaderSubmit (s : State) (asid prio : Nat) (rec : LaunchWords) : State :=
  match s.ctx? asid with
  | none => s
  | some c =>
    match c.toSubmit, s.part? c.part with
    | x :: rest, some p =>
      if x != (prio, rec) || c.ending || c.loadStopped || !s.queueOpen c.part (16 * prio) then s
      else
        let t := (s.putCtx { c with toSubmit := rest }).newToken c.part 3 0 0
        t.1.submit c.part asid (16 * prio) 0 rec t.2 p
    | _, _ => s
def execLoaderSubmit (asid prio : Nat) (rec : LaunchWords) (s : State) : Out := .next (s.loaderSubmit asid prio rec)

/-! ## Queues (R293, R294) -/

/-- The state without a grid and its record. -/
def State.dropGrid (s : State) (id : GridId) : State :=
  let s : State := { s with grids := s.grids.filter fun g => g.id != id }
  match s.part? id.part with
  | none => s
  | some p => s.putPart id.part { p with queues := p.queues.map fun l => l.filter fun x => x.grid != id }
/-- R293: a queue's head becomes eligible. -/
def State.recordEligible (s : State) (part q : Nat) : State :=
  match s.part? part with
  | none => s
  | some p =>
    match (p.queues[q]?).getD [] with
    | [] => s
    | x :: rest =>
      match s.grid? x.grid with
      | none => s
      | some g => if p.depMet g.q then s.putPart part { p with queues := p.queues.set q ({ x with eligible := true } :: rest) } else s
def execRecordEligible (part q : Nat) (s : State) : Out := .next (s.recordEligible part q)
/-- R294: the first record of a queue whose DEP grid has failed leaves it. -/
def State.dropDependent (s : State) (part q : Nat) : State :=
  match s.part? part with
  | none => s
  | some p =>
    let due := fun (x : Launch) => ((s.grid? x.grid).map fun g => p.depFailed g.q && g.next == 0).getD false
    match ((p.queues[q]?).getD []).find? due with
    | none => s
    | some x =>
      match s.grid? x.grid with
      | none => s
      | some g =>
        let tok := BitVec.ofNat 64 x.grid.tok
        ((s.dropGrid x.grid).failOp part tok codeHANDLE 0).completionEvent g.asid g.q tok
def execDependentRecordDrop (part q : Nat) (s : State) : Out := .next (s.dropDependent part q)

/-! ## Placement (R296, R297, R303, R306, R388) -/

/-- The priority of a grid (R293), and of a team. -/
def Grid.prio (g : Grid) : Nat := g.queue / 16
def State.prioOf (s : State) (t : Team) : Nat := ((s.grid? t.id.grid).map Grid.prio).getD 0
/-- A team that the dispatcher may place next: its grid and index, and whether it replaces a failed one. -/
structure NextTeam where
  grid : Grid
  team : Nat
  again : Bool
  deriving DecidableEq, Repr

/-- The grids at the heads of a partition's queues with teams left to place, behind records of failed grids. -/
def State.heads (s : State) (part : Nat) : List Grid :=
  ((s.part? part).map (·.queues)).getD [] |>.filterMap fun l =>
    match (l.find? fun x => (s.gridFailed x.grid).isNone) with
    | none => none
    | some x => if x.eligible then (s.grid? x.grid).bind fun g => if g.next < g.q.teams then some g else none else none
/-- R296, R388: the team that is next: of the highest priority, a replacement, the latest of its grid first; else one that has fitted nowhere;
else of the next queue after the last served. -/
def State.nextTeam (s : State) (part : Nat) : Option NextTeam :=
  let last := ((s.part? part).map (·.lastQueue)).getD 0
  let again : List (Nat × NextTeam) := s.grids.filterMap fun g =>
    if g.id.part == part && g.failed.isNone then g.again.getLast?.map fun t => ((3 - g.prio) * 256, ⟨g, t, true⟩) else none
  let fresh : List (Nat × NextTeam) := (s.heads part).map fun g => ((3 - g.prio) * 256 + 1 + (g.queue + 63 - last) % 64, ⟨g, g.next, false⟩)
  match ((sortBy (·.1) (again ++ fresh)).head?).map (·.2) with
  | none => none
  | some n =>
    let stuck := fun (x : Nat × NextTeam) => x.2.grid.prio == n.grid.prio &&
      (((s.part? part).map (·.blocked)).getD []).contains (x.2.grid.id, x.2.team)
    if n.again then some n else some (((fresh.find? stuck).map (·.2)).getD n)

/-- Bytes rounded up to a multiple of 8. -/
def pad8 (n : Nat) : Nat := (n + 7) / 8 * 8
/-- R305, R306: the sectors a team's save area is charged. -/
def saveSectors (q : LaunchWords) : Nat :=
  let n := (q.cores 0).length
  let here := fun core => total [0, 1, 2, 3] fun k => (q.here 0 core k).length
  let quads := total (q.cores 0) fun c => ([0, 1, 2, 3].filter fun k => !(q.here 0 c k).isEmpty).length
  let consists := total (q.cores 0) fun c => min 8 (here c / 2)
  let team := 64 + 128 + 72 * q.rdv + 16 * consists + 256 * n + 256 * (16 + 12 * 16) * quads + 2048 * q.plat * n + 65544 * q.banks
  let group := 960 + pad8 ((q.vregs + 3) / 4) + 4 * q.vregs * q.width + pad8 (17 * q.width * 4) + q.acc * (8 + 200 * q.width) +
    96 * q.width
  (team + q.groups * group + 63) / 64

/-- R406: the banks a team takes. -/
def State.pickBanks (s : State) (q : LaunchWords) (base : Nat) : List Nat :=
  let free := (List.range 32).filter fun b => !(s.usedBanks (pairOf base)).contains b
  let own := fun b => b / 16 == base % 2
  (if q.pair then free else free.filter own ++ free.filter fun b => !own b).take q.banks
/-- R405: a bank given to a team, with these contents. -/
def State.giveBank (s : State) (pair b : Nat) (x : CBank) : State :=
  let p := s.pair pair
  s.putPair pair ({ p with l1 := p.l1.filter fun l => l.bank != b }.putBank b x)
/-- R60: bytes of a vector register's values in a save area, by its tag. -/
def Tag.saved (t : Tag) (width : Nat) : Nat :=
  match t with
  | .u => 4
  | .a => 8
  | .g => 4 * width
/-- R305: the parts of a group's block in order, with their bytes, each padded to 8. -/
def Group.savedParts (g : Group) : List (SavePart × Nat) :=
  let i := g.id.grp
  [(.groupHeader i, 64), (.sregs i, 256), (.masks i, 64), (.handles i, 256), (.witnesses i, 320), (.tags i, pad8 ((g.vregs + 3) / 4)),
   (.values i, pad8 (total g.v fun r => r.tag.saved g.width)), (.latch i, ((g.latch.map fun l => pad8 (4 * l.count * g.width)).getD 0)),
   (.tiles i, total g.c fun _ => 8 + 200 * g.width), (.threads i, 96 * g.width)]
/-- R305: the layout of a team's save area: the team block, then a group block per group in ascending index. `mine` are its groups,
`open_` its open-row entries. -/
def Team.savedParts (t : Team) (mine : List Group) (open_ : Nat) : List (SavePart × Nat) :=
  [(.teamHeader, 64), (.gens, 128), (.points, 72 * t.points.length), (.consists, 16 * t.consists.length), (.rows, 16 * open_),
   (.entries, total (mine.flatMap (·.pot)) fun e => pad8 e.size), (.plats, 2048 * t.plats.length),
   (.banks, pad8 (65544 * t.banks.length))] ++
  (sortBy (fun g => g.id.grp) mine).flatMap Group.savedParts
/-- A thread at launch (R19). -/
def Thread.start : Thread := ⟨⟨0, 0⟩, [], 0, none, false⟩
/-- A group at its start (R51, R290). -/
def newGroup (id : GroupId) (asid core : Nat) (slots : List Nat) (q : LaunchWords) : Group :=
  let w := q.width
  { id := id, asid := asid, core := core, quad := q.groupQuad id.grp, slots := slots, width := w, vregs := q.vregs, acc := q.acc
    plat := q.plat, banks := q.banks, rdv := q.rdv, lendCount := q.lend
    v := List.replicate q.vregs (VReg.zero w)
    s := ⟨BitVec.ofNat 64 q.params, true, false⟩ :: List.replicate 31 ⟨0, true, false⟩
    m := ⟨allLanes w, false⟩ :: List.replicate 7 ⟨0, false⟩
    h := List.replicate 16 ⟨.idle, 0, 0, 0, false, false⟩
    w := List.replicate 4 ⟨.empty, 0, 0, 0, 0, [], false⟩
    c := List.replicate q.acc (Tile.zero w), latch := none, randkey := 0, stamp := 0, why := 0
    pc := List.replicate 16 0, pot := [], monitor := none
    lastArr := List.replicate q.rdv none, barArr := List.replicate 8 none, barWait := List.replicate 8 none
    threads := List.replicate w Thread.start
    cohorts := [⟨0, allLanes w, q.entry, 1, false, 0, .s, false, .none, false, none, false, 0⟩]
    recruits := [], nextCid := 1, held := [], records := 0, nacked := false, closed := [], copies := [], xt := 0, allAt := 0
    active := false, placed := 0, yielded := false, ready := true, readySince := none, lastIssue := 0 }
/-- A group given the lowest free slots of its quadrant. -/
def State.seat (s : State) (q : LaunchWords) (base : Nat) (g : Group) : State :=
  let core := q.groupCore base g.id.grp
  { s with groups := s.groups ++ [{ g with core := core, slots := (s.freeSlots core g.quad).take (q.width / 16) }] }
/-- R297: a team placed at a base. -/
def State.placeTeam (s : State) (n : NextTeam) (base : Nat) : State :=
  let q := n.grid.q
  let id : TeamId := ⟨n.grid.id, n.team⟩
  match s.part? n.grid.id.part, s.ctx? n.grid.asid with
  | some p, some c =>
    let banks := s.pickBanks q base
    let t : Team :=
      { id := id, asid := n.grid.asid, st := .running, core := base, pairTeam := q.pair, ident := p.nextIdent, ae := 0
        gens := List.replicate 16 0, points := List.replicate q.rdv ⟨q.groups, 0, 0, none⟩
        plats := (q.cores base).flatMap fun c => (List.range q.plat).map fun k => ⟨c, k, [], [], false⟩
        banks := banks, savedBanks := [], consists := [], latched := [], deferred := [], deferredRoom := 0, wants := false
        rows := [], area := [], reserve := saveSectors q, placedAt := s.tick, stop := false, halted := [], ending := false
        arrivalsDone := [], engineOps := 0, launches := 0 }
    let s := (s.putPart n.grid.id.part { p with nextIdent := p.nextIdent + 1 }).putCtx
      { c with saveReserve := c.saveReserve + saveSectors q }
    let s := banks.foldl (fun s b => s.giveBank (pairOf base) b ⟨.scratch, some id, [], [], [], none⟩) s
    let s := (List.range q.groups).foldl (fun s g => s.seat q base (newGroup ⟨id, g⟩ n.grid.asid base [] q)) s
    { s with teams := s.teams ++ [t] }.acquireOn (pairOf base) id
  | _, _ => s
/-- A grid after one of its teams is placed; its record leaves its queue with the last. -/
def State.noted (s : State) (n : NextTeam) : State :=
  let g := { n.grid with waitSince := none }
  let g := if n.again then { g with again := g.again.filter fun t => t != n.team } else { g with next := g.next + 1 }
  let s := s.putGrid g
  match s.part? g.id.part with
  | none => s
  | some p =>
    let p : Partition := { p with blocked := p.blocked.filter fun x => x != (n.grid.id, n.team) }
    let p := if n.again then p else { p with lastQueue := g.queue }
    s.putPart g.id.part (if g.next < g.q.teams then p
      else { p with queues := p.queues.map fun l => l.filter fun x => x.grid != g.id })
/-- R307: whether a pre-empted team of at least this priority resumes first. -/
def State.savedFirst (s : State) (part prio : Nat) : Bool :=
  s.teams.any fun t => t.st == .saved && t.id.grid.part == part && decide (prio ≤ s.prioOf t)
/-- R296: a team that fits nowhere is blocked, and of its priority it alone may be placed until it is. -/
def State.noteBlocked (s : State) (part : Nat) (n : NextTeam) : State :=
  match s.part? part with
  | none => s
  | some p =>
    let key := (n.grid.id, n.team)
    if p.blocked.contains key then s else s.putPart part { p with blocked := p.blocked ++ [key] }
/-- R296, R306: the next team of a partition placed, where it fits and the free pool covers its save area. -/
def State.placeNext (s : State) (part : Nat) : State :=
  match s.nextTeam part, s.part? part with
  | some n, some p =>
    let q := n.grid.q
    if s.savedFirst part n.grid.prio then s
    else
      match s.leastLoaded q ((p.bases q).filter fun b => s.fitsAt q b) with
      | none => s.noteBlocked part n
      | some base =>
        let free := s.freePool part
        if saveSectors q ≤ free then (s.placeTeam n base).noted n
        else if n.grid.waitSince.isSome then s
        else ((s.noteBlocked part n).putGrid { n.grid with waitSince := some s.time }).request n.grid.asid (saveSectors q - free)
  | _, _ => s
def execTeamPlacement (part : Nat) (s : State) : Out := .next (s.placeNext part)
/-- R306: a save area that the free pool has not covered 10 ms after the requests fails its grid. -/
def State.reserveTimeout (s : State) (part : Nat) : State :=
  let due := fun (g : Grid) => g.id.part == part && g.failed.isNone && decide (s.freePool part < saveSectors g.q) &&
    (match g.waitSince with
     | none => false
     | some t => decide (t + balloonWait ≤ s.time))
  match s.grids.find? due with
  | none => s
  | some g => s.failGrid g.id codeCAPACITY
def execSaveReserveTimeout (part : Nat) (s : State) : Out := .next (s.reserveTimeout part)

/-! ## Completion (R297, R335) -/

/-- Whether a grid is over: every team has ended and every deferred round is acknowledged; a failed grid places no more teams. -/
def State.gridOver (s : State) (g : Grid) : Bool :=
  !(s.teams.any fun t => t.id.grid == g.id) && !(s.ops.any fun o => o.gid.team.grid == g.id && o.round.isSome) &&
    (g.failed.isSome || (decide (g.q.teams ≤ g.next) && g.again.isEmpty))
def State.gridDone (s : State) (id : GridId) : State :=
  match s.grid? id with
  | none => s
  | some g =>
    if !s.gridOver g then s
    else
      let tok := BitVec.ofNat 64 id.tok
      let s := s.dropGrid id
      let s := match g.failed with
        | some code => s.failOp id.part tok code 0
        | none => s.complete id.part tok 0
      s.completionEvent g.asid g.q tok
def execGridCompletion (g : GridId) (s : State) : Out := .next (s.gridDone g)

/-! ## The active set (R299, R300) -/

/-- Whether a group stands in the siding, or was last found held by an empty source, HWAIT or a waiting instruction (R300). -/
def Group.blocked (g : Group) : Bool := g.parked || !g.ready
/-- The groups that share a quadrant with one, itself among them. -/
def State.quadGroups (s : State) (g : Group) : List Group := (s.residents g.core).filter fun x => x.quad == g.quad
/-- R300: a pending ready group takes a free place, or that of an active group that is blocked or has given way. -/
def State.enterActive (s : State) (gid : GroupId) : State :=
  match s.resident? gid with
  | none => s
  | some g =>
    let act := (s.quadGroups g).filter (·.active)
    let enter := fun (s : State) => s.putGroup { g with active := true, placed := s.now g.core, yielded := false }
    if g.active || g.blocked then s
    else if act.length < 8 then enter s
    else
      match act.find? fun x => x.blocked || x.yielded with
      | none => s
      | some x => enter (s.putGroup { x with active := false, yielded := false })
def execActiveSetEntry (g : GroupId) (s : State) : Out := .next (s.enterActive g)
/-- R300: an active group of 4,096 cc that stands at a clause boundary gives way to a ready pending group. -/
def State.placeTimeout (s : State) (gid : GroupId) : State :=
  match s.resident? gid with
  | none => s
  | some g =>
    let waits := (s.quadGroups g).any fun x => !x.active && !x.blocked
    if g.active && waits && decide (g.placed + 4096 ≤ s.now g.core) && g.cohorts.any fun c => !c.entered then
      s.putGroup { g with active := false, yielded := false }
    else s
def execActivePlaceTimeout (g : GroupId) (s : State) : Out := .next (s.placeTimeout g)

/-! ## Pre-emption (R303 to R305, R382, R383) -/

/-- What the dispatcher has to find room for: priority, record, and the bases it may take. -/
def State.wanted (s : State) (part : Nat) : Option (Nat × LaunchWords × List Nat) :=
  match s.part? part with
  | none => none
  | some p =>
    let saved := (s.teams.filter fun t => t.st == .saved && t.id.grid.part == part).filterMap fun t =>
      (s.grid? t.id.grid).map fun g => (g.prio, g.q, if t.rows.isEmpty then p.bases g.q else [t.core])
    let fresh := ((s.nextTeam part).map fun n => (n.grid.prio, n.grid.q, p.bases n.grid.q)).toList
    ((sortBy (fun x => 3 - x.1) (saved ++ fresh)).head?)
/-- The machine without some teams. -/
def State.without (s : State) (l : List Team) : State :=
  { s with teams := s.teams.filter (fun t => !l.any fun x => x.id == t.id)
           groups := s.groups.filter fun g => !l.any fun x => x.id == g.id.team }
/-- R303: the fewest teams of lower priority whose leaving lets a record fit a base: ascending priority, the latest first. -/
def State.victims (s : State) (prio : Nat) (q : LaunchWords) (base : Nat) : Option (List Team) :=
  let l := s.teams.filter fun t => (q.cores base).any t.uses && decide (s.prioOf t < prio)
  let l := sortBy (fun t => s.prioOf t) (sortBy (·.placedAt) l).reverse
  ((List.range (l.length + 1)).find? fun k => (s.without (l.take k)).fitsAt q base).map l.take
/-- R303: the teams the dispatcher pre-empts for a blocked team. -/
def State.preemptable (s : State) (part : Nat) : List Team :=
  match s.wanted part with
  | none => []
  | some (prio, q, bases) =>
    if bases.any fun b => s.fitsAt q b then []
    else ((sortBy List.length (bases.filterMap (s.victims prio q))).head?).getD []

/-- Whether a cohort rests: at a clause boundary, at an instruction that waits, or stopped. -/
def Team.rests (t : Team) (g : Group) (c : Cohort) : Bool :=
  g.parked || c.stopped || !c.entered || t.halted.contains (g.id.grp, c.cid) ||
    match c.prog with
    | .none | .hjoin | .image _ => false
    | _ => true
/-- Whether an operation may outlive the save: a load held, or refused, on a closed track of a parked group. -/
def State.saveable (s : State) (g : Group) (o : MemOp) : Bool :=
  o.kind.isRead && o.kind != .pld && (o.parts.any fun p => p.st != .done) && o.parts.all fun p => p.st == .done || p.st.isNack ||
    g.closed.any fun x => x.trk == o.trk && x.slice == s.locHome o.asid p.loc && !x.replaying
/-- Steps 1 to 4 of R304: the team is at rest, and nothing of it is under way but turntable and launch operations. -/
def State.atRest (s : State) (t : Team) : Bool :=
  let mine := s.groupsOf t.id
  (mine.all fun g => !g.nacked && g.recruits.isEmpty && g.quiet allTracks && (g.cohorts.all (t.rests g)) &&
    s.ops.all fun o => o.gid != g.id || s.saveable g o) &&
  (s.ops.all fun o => o.gid.team != t.id || mine.any fun g => g.id == o.gid) &&
  (s.engs.all fun e => e.gid.team != t.id || !e.kind.tender) &&
  (s.ctxs.all fun c => c.reads.all fun r => r.gid.team != t.id) &&
  ((s.coresOf t.id).all fun core =>
    let c := s.core core
    (c.takes.all fun x => x.gid.team != t.id) && (c.runs.all fun r => r.team != t.id) &&
      (c.rows ++ c.gone).all fun r => r.gid.team != t.id || r.st != .opening) &&
  t.banks.all fun b => ((s.pair (pairOf t.core)).bank b).switch.isNone
/-- A cohort as it is saved: an instruction that has not taken effect is issued again. -/
def Cohort.saved (c : Cohort) : Cohort :=
  match c.prog with
  | .release _ | .released | .acquire _ | .watch | .latch => { c with prog := .none }
  | _ => c
/-- Step 5: an entry as it is recorded. -/
def saveRow (core : Nat) (r : RowEntry) : SavedRow :=
  ⟨r.slot, core, r.h, r.gid.grp, r.tok, match r.st with | .expired why => some why | _ => none⟩
/-- A team's rows on a core closed. -/
def State.closeRows (s : State) (core : Nat) (t : TeamId) : State :=
  let mine := (s.core core).rows.filter fun r => r.gid.team == t
  let s := mine.foldl (fun s r => if r.st == .opened then s.setBank core r.bank (.shutting (s.earliest core r) r.row) else s) s
  s.putCore core { s.core core with rows := (s.core core).rows.filter fun r => r.gid.team != t }
/-- A place of a team's bank by its number in the team, and back to the physical bank; a slice that has closed a track likewise
(R383). -/
def Loc.mapBank (l : Loc) (h : Nat → Nat) : Loc :=
  match l with
  | .bank b off => .bank (h b) off
  | l => l
def Closed.mapBank (x : Closed) (h : Nat → Nat) : Closed := if x.slice < 256 then x else { x with slice := 256 + h (x.slice - 256) }
/-- The state with the banks of a team's held accesses and closed tracks renumbered. -/
def State.mapBanks (s : State) (t : TeamId) (h : Nat → Nat) : State :=
  { s with
    ops := s.ops.map fun (o : MemOp) => if o.gid.team == t then { o with parts := o.parts.map fun p => { p with loc := p.loc.mapBank h } } else o
    groups := s.groups.map fun (g : Group) => if g.id.team == t then { g with closed := g.closed.map fun x => x.mapBank h } else g }
/-- Steps 5 and 6 of R304: the team's state is written to its save area and its cores are freed. -/
def State.saveTeam (s : State) (t : Team) : State :=
  let pair := pairOf t.core
  let cores := s.coresOf t.id
  let rows := cores.flatMap fun c => ((s.core c).rows.filter fun r => r.gid.team == t.id).map (saveRow c)
  let kept := t.banks.map fun b => (s.pair pair).bank b
  let s := cores.foldl (fun s c => s.closeRows c t.id) s
  let s := t.banks.foldl (fun s b => s.freeBank pair b) s
  let put := fun (g : Group) => if g.id.team == t.id then
    { g with slots := [], active := false, yielded := false, monitor := none, cohorts := g.cohorts.map Cohort.saved } else g
  let s : State := { s with groups := s.groups.map put }
  let s := s.mapBanks t.id fun b => (t.banks.findIdx? fun x => x == b).getD 0
  s.putTeam { t with st := .saved, banks := [], savedBanks := kept, rows := rows, latched := [], stop := false, halted := []
                     area := t.savedParts (s.groupsOf t.id) rows.length }
/-- R304: a team asked to stop is saved once it rests; the dispatcher asks the teams that stand in a blocked team's way. -/
def State.preempt (s : State) (id : TeamId) : State :=
  match s.team? id with
  | none => s
  | some t =>
    if t.st != .running || t.ending then s
    else if t.stop then (if s.atRest t then s.saveTeam t else s)
    else if (s.preemptable id.grid.part).any fun x => x.id == id then s.putTeam { t with stop := true, halted := [] }
    else s
def execPreemption (t : TeamId) (s : State) : Out := .next (s.preempt t)

/-! ## Resumption (R307, R384) -/

/-- Whether the rows a team left open can be reopened on their cores now. -/
def State.rowsFit (s : State) (t : Team) : Bool :=
  (t.rows.map (·.core)).all fun c =>
    let mine := t.rows.filter fun r => r.core == c
    decide ((s.core c).rows.length + mine.length ≤ 16) && mine.all fun r =>
      let bank := s.slotBank t.asid r.slot
      ((s.core c).rows.all fun x => x.bank != bank || !(x.st == .opening || x.st == .opened)) &&
        (r.expired.isSome || ((s.vault c).bankState bank == .idle && !s.windowNear c))
/-- A row reopened, its handle full again; an expired entry is restored as it was. -/
def State.reopen (s : State) (t : Team) (r : SavedRow) : State :=
  let c := s.core r.core
  match c.freeEntry with
  | none => s
  | some e =>
    let bank := s.slotBank t.asid r.slot
    let row := (((s.ctx? t.asid).map fun x => x.entry (r.slot / lineBytes)).getD MapEntry.zero).loc % bankSectors / 32
    let now := s.now r.core
    let st : RowState := match r.expired with
      | some why => .expired why
      | none => .opened
    let ent : RowEntry := ⟨e, st, t.asid, r.slot, bank, row, r.tok, ⟨t.id, r.grp⟩, r.h, now, some now, 0⟩
    let s := s.putCore r.core { c with rows := c.rows ++ [ent] }
    if st == .opened then s.setBank r.core bank (.opened e) else s
/-- A core of a team that resumes at `base`, from the core it left. -/
def Team.moved (t : Team) (base core : Nat) : Nat := if t.pairTeam then base / 2 * 2 + core % 2 else base
/-- An entry at the place in a round that a group has now (R167). -/
def Entry.of (e : Entry) (g : Group) : Entry := if e.gid == g.id then { e with key := g.roundKey } else e
/-- The groups of a team given their slots on new cores; their entries drain in the places of their new slots (R165, R167). -/
def State.reseat (s : State) (q : LaunchWords) (base : Nat) (l : List Group) : State :=
  match l with
  | [] => s
  | g :: rest =>
    let core := q.groupCore base g.id.grp
    let g := { g with core := core, slots := (s.freeSlots core g.quad).take (q.width / 16) }
    let s := s.putGroup { g with pot := g.pot.map fun (e : Entry) => e.of g }
    let s := match s.team? g.id.team with
      | none => s
      | some t => s.putTeam { t with deferred := t.deferred.map fun (e : Entry) => e.of g }
    s.reseat q base rest
/-- The accesses of a restored team, which a refusal or a closed track has kept, are requested again at its new pair (R118). -/
def State.rebase (s : State) (t : TeamId) (pair : Nat) : State :=
  { s with ops := s.ops.map fun o => if o.gid.team == t then { o with ep := (s.pair pair).ep } else o }
/-- What waits of a resumed team are over: sleeps (reason 3), phases completed meanwhile. -/
def State.wakeTeam (s : State) (t : TeamId) : State :=
  (s.groupsOf t).foldl (fun s g => g.cohorts.foldl (fun s c =>
    match c.prog with
    | .sleep _ d =>
      match s.group? g.id with
      | none => s
      | some g => if c.stopped then s else s.putGroup (g.wake c d 3)
    | .phase grid n target _ =>
      match if grid then s.barResult t.grid n target else s.pointResult t n target with
      | some w => s.endWaitOf g.id c.cid w
      | none => s
    | _ => s) s) s
/-- R307: a team restored at a base. -/
def State.restore (s : State) (t : Team) (g : Grid) (base : Nat) : State :=
  let pair := pairOf base
  let banks := s.pickBanks g.q base
  let s := (banks.zip t.savedBanks).foldl (fun s p => s.giveBank pair p.1 p.2) s
  let s := t.rows.foldl (fun s r => s.reopen t r) s
  let s := s.mapBanks t.id fun i => (banks[i]?).getD 0
  let plats : List Platform := t.plats.map fun p => { p with core := t.moved base p.core }
  let consists : List Consist := t.consists.map fun c => { c with core := t.moved base c.core }
  let s := s.putTeam { t with st := .running, core := base, banks := banks, savedBanks := [], rows := [], area := [], plats := plats
                              consists := consists, placedAt := s.tick }
  let s := s.reseat g.q base (s.groupsOf t.id)
  ((s.rebase t.id pair).acquireOn pair t.id).wakeTeam t.id
/-- Whether the cores of a team that would resume at a base have room for its consists (R46). -/
def State.consistsFit (s : State) (t : Team) (base : Nat) : Bool :=
  t.consists.all fun c => decide (s.consistsOn (t.moved base c.core) +
    (t.consists.filter fun x => t.moved base x.core == t.moved base c.core).length ≤ 8)
/-- R307, R384: a pre-empted team resumes where it fits, before any new team of its priority. -/
def State.resumeTeam (s : State) (id : TeamId) : State :=
  match s.team? id, s.grid? id.grid, s.part? id.grid.part with
  | some t, some g, some p =>
    let above := (s.heads id.grid.part).any (fun x => decide (g.prio < x.prio)) || s.savedFirst id.grid.part (g.prio + 1)
    if t.st != .saved || above || !s.rowsFit t then s
    else
      let bases := (if t.rows.isEmpty then p.bases g.q else [t.core]).filter fun b => s.fitsAt g.q b && s.consistsFit t b
      match s.leastLoaded g.q bases with
      | none => s
      | some base => s.restore t g base
  | _, _, _ => s
def execTeamResume (t : TeamId) (s : State) : Out := .next (s.resumeTeam t)

end Sys2Proof.Machine
end

