-- ==== Sys2Proof/Machine/Service.lean ====
section
/-! DEFINITION. Machine/Service.lean: fault records written (18_faults R328 to R331, 20_faults_memory R363, R372) and serviced by
the signal box (18 R333 to R335, 20 R368 to R375, 21_faults_containment R388). -/

namespace Sys2Proof.Machine

/-! ## Records of refused accesses (R363, R369, R372) -/

/-- The address of a place as a record shows it: a scratch place by its offset in the team's window. -/
def State.placeVa (s : State) (o : MemOp) (l : Loc) : Nat :=
  match l with
  | .glob va => va
  | .bank b off => ((((s.team? o.gid.team).map (·.banks)).getD []).findIdx (· == b)) * bankBytes + off
/-- A part refused whose record is not written yet. -/
def Part.fresh (p : Part) : Bool := p.st.isNack && !p.noted
/-- When a part was refused. -/
def PSt.when_ (p : PSt) : Nat :=
  match p with
  | .nack _ _ t => t
  | _ => 0
/-- Code and DETAIL of a refused part. -/
def PSt.why (p : PSt) : Nat × Nat :=
  match p with
  | .nack code detail _ => (code, detail)
  | _ => (0, 0)
/-- The refused part of the lowest home lane, one that a closed track did not merely pass over first. -/
def firstNack (l : List Part) : Option Part :=
  let l := sortBy (·.lane) (l.filter fun p => p.st.isNack)
  match l.find? fun p => p.st.why.1 != 0x0F with
  | some p => some p
  | none => l.head?
/-- Home lanes of an access, and those that are performed whole. -/
def MemOp.allLanes (o : MemOp) : Lanes := lanesFrom (o.parts.map (·.lane))
def MemOp.doneLanes (o : MemOp) : Lanes :=
  lanesFrom ((o.parts.map (·.lane)).filter fun i => o.parts.all fun p => p.lane != i || p.st == .done)
/-- Whether an access takes effect once per cohort (R332). -/
def OpKind.once (k : OpKind) : Bool := k == .image || k == .unimage
/-- R331, R332, R369: DONE and PENDING. -/
def MemOp.account (o : MemOp) (code : Nat) : Lanes × Lanes :=
  if o.kind.isRange then (o.lanes, 0)
  else if o.kind.once then (0, o.lanes)
  else if o.kind.isRead && code == codeUE then (0, o.allLanes)
  else (o.doneLanes, o.allLanes &&& ~~~o.doneLanes)
/-- The record of a refused access; `ops` the accesses it covers. -/
def State.nackRec (s : State) (g : Group) (o : MemOp) (p : Part) (ops : List Nat) : FaultRec :=
  let w := p.st.why
  let a := o.account w.1
  ⟨w.1, w.2, some g.id, o.cid, g.core, o.trk, o.org, a.1, a.2, s.placeVa o p.loc, p.st.when_, ops, s.identOf g.id, o.tick⟩
/-- An item of the store replay list. -/
def State.replayItem (s : State) (o : MemOp) : Option ReplayItem :=
  match sortBy (·.lane) (o.parts.filter fun p => p.st.isNack) with
  | [] => none
  | p :: rest => some ⟨o.org, p.st.why.1 % 16, lanesFrom ((p :: rest).map (·.lane)), s.placeVa o p.loc, o.kind.replayKind⟩
/-- The store replay list of a record. -/
def State.replayList (s : State) (f : FaultRec) : List ReplayItem :=
  f.ops.filterMap fun id => (s.op? id).bind fun o => if o.kind.isWrite then s.replayItem o else none
/-- Whether a part is refused for a reason of its own, and not merely by a closed track. -/
def Part.faults (p : Part) : Bool := p.fresh && p.st.why.1 != 0x0F
/-- Operations whose refused parts a record now covers. -/
def State.noteParts (s : State) (ids : List Nat) : State :=
  { s with ops := s.ops.map fun o => if ids.contains o.id then
      { o with parts := o.parts.map fun p => if p.st.isNack then { p with noted := true } else p } else o }
/-- Whether a part of an access is still to be answered: not performed or refused, nor one that waits to be performed again (R396) or
that a closed track holds. -/
def State.unanswered (s : State) (o : MemOp) (p : Part) : Bool := p.st.isOpen && s.closure o p != some false
/-- The oldest access of a group with a refusal that no record covers, once all of it and every write of its track is answered (R331,
R363). DEDUCED (log entry 152): a write that a closed track refuses after the record is made gets none; it is tried again as the track
reopens. -/
def State.oldestNack (s : State) (gid : GroupId) : Option MemOp :=
  s.ops.find? fun o => o.gid == gid && o.kind != .pld && o.parts.any Part.faults && !o.parts.any (s.unanswered o) &&
    s.ops.all fun e => e.gid != gid || e.trk != o.trk || !e.kind.isWrite || !e.parts.any (s.unanswered e)
/-- Its record made, held at the core among the group's others in the order their instructions issued (R327). -/
def State.makeRecord (s : State) (g : Group) : State :=
  match s.oldestNack g.id with
  | none => s
  | some o =>
    match firstNack (o.parts.filter Part.faults) with
    | none => s
    | some p =>
      let writes := s.ops.filter fun e => e.gid == g.id && e.trk == o.trk && e.kind.isWrite && e.parts.any Part.fresh
      let ids := (o.id :: writes.map (·.id)).eraseDups
      let s' := s.noteParts ids
      let left := s'.ops.any fun e => e.gid == g.id && e.kind != .pld && e.parts.any Part.faults
      s'.putGroup { g with held := insertBy (·.tick) (s.nackRec g o p ids) g.held, records := g.records + 1, nacked := left }
/-- R389: a refused deferred access whose group has ended: its record goes to the queue by itself. -/
def State.orphanRecord (s : State) (gid : GroupId) : State :=
  match s.oldestNack gid with
  | none => s
  | some o =>
    match firstNack (o.parts.filter Part.faults), s.ctx? o.asid with
    | some p, some c =>
      let w := p.st.why
      let a := o.account w.1
      let f : FaultRec := ⟨w.1, w.2, some gid, o.cid, o.core, o.trk, o.org, a.1, a.2, s.placeVa o p.loc, p.st.when_, [o.id], 0, o.tick⟩
      match if c.spill.isEmpty then c.fqPut f (s.replayList f) else none with
      | none => s
      | some c => (s.noteParts [o.id]).putCtx c
    | _, _ => s
/-- R327: whether an access of a group issued before step `tick` may still be refused, or its record is not made: one that is not
merely held by a closed track. -/
def State.earlierOpen (s : State) (gid : GroupId) (tick : Nat) : Bool :=
  s.ops.any fun o => o.gid == gid && decide (o.tick < tick) && o.kind != .pld && o.parts.zipIdx.any fun x =>
    x.1.faults || (x.1.st.isOpen && s.closure o x.1 != some false && (x.1.st != .waiting || !s.blocked o x.2 x.1))
/-- R329: the first record a group holds goes to its context's fault queue, behind the spill area (R330), if there is room. -/
def State.flushRecord (s : State) (gid : GroupId) : State :=
  match s.group? gid with
  | none => s
  | some g =>
    match g.held, s.ctx? g.asid with
    | f :: rest, some c =>
      match if c.spill.isEmpty && !s.earlierOpen gid f.tick then c.fqPut f (s.replayList f) else none with
      | none => s
      | some c => (s.putCtx c).putGroup { g with held := rest }
    | _, _ => s
/-- R363: a group's next record is made, where one can be, and its first written. -/
def State.writeRecord (s : State) (gid : GroupId) : State :=
  match s.group? gid with
  | none => s.orphanRecord gid
  | some g => (if g.nacked then s.makeRecord g else s).flushRecord gid
def execFaultRecordWrite (g : GroupId) (s : State) : Out := .next (s.writeRecord g)
/-- R329: the oldest record held at a core of a context written once there is room. -/
def State.queueRoomFor (s : State) (asid : Nat) : State :=
  let l := (s.groups.filter fun g => g.asid == asid).filterMap fun g => g.held.head?.map fun f => (f.time, g.id)
  match (sortBy (·.1) l).head? with
  | none => s
  | some x => s.flushRecord x.2
def execFaultQueueRoom (asid : Nat) (s : State) : Out := .next (s.queueRoomFor asid)
/-- R330: the first record of a spill area appended to the fault queue. -/
def State.spillAppend (s : State) (asid : Nat) : State :=
  match s.ctx? asid with
  | none => s
  | some c =>
    match c.spill with
    | [] => s
    | f :: rest =>
      match c.fqPut f [] with
      | none => s
      | some c => s.putCtx { c with spill := rest }
def execSpillAreaAppend (asid : Nat) (s : State) : Out := .next (s.spillAppend asid)

/-! ## Actions (R334) -/

/-- Whether a record's grid may relaunch its teams. -/
def State.mayRelaunch (s : State) (f : FaultRec) : Bool :=
  ((f.gid.bind fun g => s.grid? g.team.grid).map Grid.relaunch).getD false
/-- Whether a fault lies in a backing region (R368). -/
def State.inBacking (s : State) (asid : Nat) (f : FaultRec) : Bool :=
  let t := s.canon asid f.va
  f.code == codeXLATE && f.detail == 1 && ((s.ctx? t.1).bind fun c => c.backed t.2.1).isSome
/-- The default action for a record; the ENGINE record of an uncorrectable error takes that of UE (R385). -/
def State.defaultAction (s : State) (asid : Nat) (f : FaultRec) : Action :=
  if f.code == codeTRAP then .resumeAt
  else if f.code == codeBRK then .hold
  else if f.code == codeCAPACITY || s.inBacking asid f then .recover
  else if f.code == codeUE || f.code == codeSHADOW || f.code == codeMIRROR || (f.code == codeENGINE && f.detail == codeUE) then
    (if s.mayRelaunch f then .relaunchTeam else .killTeam)
  else .killTeam
/-- The trap entry of a record's grid (R289). -/
def State.trapEntry (s : State) (f : FaultRec) : Nat :=
  ((f.gid.bind fun g => s.grid? g.team.grid).map fun g => Sys2Proof.LaunchWords.trape g.q).getD 0
/-- R333, R334: the action a record takes: its creator's, or the default; RESUME.AT without a trap entry and RELAUNCH.TEAM
without RELAUNCH are KILL.TEAM. -/
def State.actionOf (s : State) (c : Context) (f : FaultRec) : Action :=
  let a := (assoc f.code c.actions).getD (s.defaultAction c.asid f)
  match a with
  | .resumeAt => if s.trapEntry f == 0 then .killTeam else .resumeAt
  | .relaunchTeam => if s.mayRelaunch f then .relaunchTeam else .killTeam
  | .recover => if f.code == codeCAPACITY || s.inBacking c.asid f then .recover else s.defaultAction c.asid f
  | a => a
/-- Whether a record parks its group: its cohort stands, or an access of it is refused. -/
def FaultRec.parks (f : FaultRec) : Bool := f.code != codeENGINE && f.gid.isSome
/-- Whether a record's team is the one of its name that is there now: a relaunched team has another identity (R297, R388). -/
def State.sameTeam (s : State) (f : FaultRec) : Bool :=
  ((f.gid.bind fun g => s.team? g.team).map fun t => t.ident == f.ident).getD false
/-- The record of a context's queue that a service acts on, with its action. -/
def State.service? (s : State) (asid rec : Nat) : Option (Context × FaultRec × Action) :=
  (s.ctx? asid).bind fun c => (c.record? rec).map fun r => (c, r.fault, s.actionOf c r.fault)
/-- The service of a record has ended. -/
def State.served (s : State) (asid rec : Nat) : State :=
  match s.ctx? asid with
  | none => s
  | some c => s.putCtx (c.fqServe rec)

/-! ## RESUME and RESUME.AT (R333, R373) -/

/-- An operation's refused parts tried again, ahead of the replay marker; after an uncorrectable error a read is repeated
whole (R385). -/
def MemOp.retry (o : MemOp) (ue : Bool) : MemOp :=
  { o with parts := o.parts.map fun p =>
      if p.st.isNack || (ue && o.kind.isRead) then { p with st := .waiting, replay := true, noted := false } else p }
/-- The accesses of a record performed again; the slices reopen their track with the last (R362). -/
def State.replay (s : State) (gid : GroupId) (trk : Nat) (ids : List Nat) (ue : Bool) : State :=
  let s : State := { s with ops := s.ops.map fun o => if ids.contains o.id then o.retry ue else o }
  match s.group? gid with
  | none => s
  | some g => s.putGroup { g with closed := g.closed.map fun x => if x.trk == trk then { x with replaying := true } else x }
/-- The faulting cohort of a record, or the group's first where it is no more (a drained entry's). -/
def Group.faulting (g : Group) (cid : Nat) : Option Cohort :=
  match g.cohort? cid with
  | some c => some c
  | none => g.cohorts.head?
/-- The refused deferred accesses of a team that has ended, performed again (R389). -/
def State.retryOps (s : State) (ids : List Nat) : State :=
  { s with ops := s.ops.map fun o => if ids.contains o.id then o.retry false else o }
/-- RESUME: the instruction is performed for its pending threads, or issued again; TRAP and BRK go on at the next word. A record
whose team is no more resumes no group. -/
def State.resumeRec (s : State) (asid rec : Nat) (f : FaultRec) : State :=
  let s := s.served asid rec
  match f.gid with
  | none => s
  | some gid =>
    if !f.parks then s
    else if !s.sameTeam f then s.retryOps f.ops
    else
      let s := if f.ops.isEmpty then s else s.replay gid f.trk f.ops (f.code == codeUE)
      match s.group? gid with
      | none => s
      | some g =>
        match g.cohort? f.cid with
        | none => (s.putGroup { g with records := g.records - 1 }.freed).marker gid
        | some c =>
          let g := g.serviced c
          (s.putGroup (if f.code == codeTRAP || f.code == codeBRK then g.advance f.cid 1 else g)).marker gid
def execResume (asid rec : Nat) (s : State) : Out :=
  .next (match s.service? asid rec with
    | some (_, f, .resume) => s.resumeRec asid rec f
    | some (_, f, .hold) => s.resumeRec asid rec f
    | _ => s)

/-- R333: the destination of an access whose pending threads stay unperformed: the values of its performed threads, earlier
ones elsewhere, full, tagged G. -/
def Group.fillPart (g : Group) (o : MemOp) : Group :=
  let o' : MemOp := { o with lanes := o.doneLanes, dest := match o.dest with
    | .v r n _ => .v r n false
    | d => d }
  match o.dest with
  | .v r n _ => (List.range n).foldl (fun g j => g.putVreg (r + j) { g.vreg (r + j) with tag := .g, full := true }) (g.fillDest o')
  | .s r => if o.doneLanes = 0 then g.putSreg r { g.sreg r with full := true } else g.fillDest o'
  | .lend cid r n => if o.doneLanes = 0 then
      match g.cohort? cid with
      | none => g
      | some c =>
        let h' := c.helper.map fun (h : Helper) => { h with lend := (List.range n).foldl (fun (l : List Lend) j =>
          match l[r + j - g.lend0]? with
          | none => l
          | some x => l.set (r + j - g.lend0) { x with full := true, tag := .g }) h.lend }
        g.putCohort { c with helper := h' }
    else g.fillDest o'
  | _ => g.fillDest o'
/-- A read that consumed an uncorrectable error has performed no thread (R385). -/
def MemOp.unread (o : MemOp) (ue : Bool) : MemOp :=
  if ue && o.kind.isRead then { o with parts := o.parts.map fun p => { p with st := .waiting } } else o
/-- The faulting access given up: its pending threads count as acknowledged. -/
def State.giveUp (s : State) (id : Nat) (ue : Bool) : State :=
  match (s.op? id).map fun o => o.unread ue with
  | none => s
  | some o =>
    match s.group? o.gid with
    | none => s.dropOp id
    | some g => (s.dropOp id).putGroup ((g.fillPart o).acked o)
/-- RESUME.AT: the faulting cohort goes on at the trap entry with CLAUSE and WORD in s30 and Q0 in s31; the other items of the
replay list are performed. -/
def State.resumeAtRec (s : State) (asid rec : Nat) (f : FaultRec) : State :=
  let entry := s.trapEntry f
  let s := s.served asid rec
  match f.gid with
  | none => s
  | some gid =>
    if !f.parks then s
    else if !s.sameTeam f then
      match f.ops with
      | [] => s
      | id :: rest => (s.dropOp id).retryOps rest
    else
      let s := match f.ops with
        | [] => s
        | id :: rest => (s.giveUp id (f.code == codeUE)).replay gid f.trk rest false
      match s.group? gid with
      | none => s
      | some g =>
        match g.faulting f.cid with
        | none => (s.putGroup { g with records := g.records - 1 }.freed).marker gid
        | some c =>
          let g := (g.setS 30 (BitVec.ofNat 64 (f.org.clause + f.org.word * 2 ^ 56))).setS 31 (f.q0 asid)
          (s.putGroup (g.serviced (c.goto entry))).marker gid
def execResumeAt (asid rec : Nat) (s : State) : Out :=
  .next (match s.service? asid rec with
    | some (_, f, .resumeAt) => s.resumeAtRec asid rec f
    | some (_, f, .hold) => if s.trapEntry f == 0 then s else s.resumeAtRec asid rec f
    | _ => s)

/-! ## KILL.TEAM and RELAUNCH.TEAM (R335, R388) -/

/-- Whether every access of a team is performed or refused, reads that a closed track holds apart, and its engine operations
are complete. -/
def State.endable (s : State) (t : TeamId) : Bool :=
  (s.ops.all fun o => o.gid.team != t || (o.round.isSome && !o.pc) ||
    (o.kind != .pld && (o.kind.isRead || o.parts.all fun p => !p.st.isOpen))) &&
  s.engs.all fun e => e.gid.team != t
/-- The L1 of a team's pair without the sectors of stores that are never performed. -/
def State.dropUnstored (s : State) (t : Team) : State :=
  (s.ops.filter fun o => o.gid.team == t.id && o.kind.isWrite).foldl (fun s o =>
    o.parts.foldl (fun s p =>
      match p.loc with
      | .glob va => if p.st == .done then s else s.dropL1 (pairOf t.core) o.asid va
      | .bank _ _ => s) s) s
/-- A team's groups stop; once it can end it ends, its grid failing with a code, or its index to be placed again. Answers whether
the service has ended. -/
def State.endByService (s : State) (id : TeamId) (code : Nat) (again : Bool) : State × Bool :=
  match s.team? id with
  | none => (s, true)
  | some t =>
    if !s.endable id then (s.putTeam { t with ending := true }, false)
    else
      let s := (s.dropUnstored t).removeTeam t false
      if again then
        match s.grid? id.grid with
        | none => (s, true)
        | some g =>
          let g := g.keep id.team fun k => { k with relaunches := k.relaunches + 1 }
          (s.putGrid { g with again := g.again ++ [id.team] }, true)
      else (s.failGrid id.grid code, true)
/-- KILL.TEAM, or RELAUNCH.TEAM, for a record: one that names no team, or a team that is no more, has no effect; where the team has
ended its refused deferred accesses are discarded and its grid fails. -/
def State.killRec (s : State) (asid rec : Nat) (f : FaultRec) (again : Bool) : State :=
  match f.gid with
  | none => s.served asid rec
  | some gid =>
    if !s.sameTeam f && !(f.ops.any fun id => (s.op? id).isSome) then s.served asid rec
    else if !s.sameTeam f then
      let s : State := { s with ops := s.ops.filter fun o => !f.ops.contains o.id }
      (s.failGrid gid.team.grid f.code).served asid rec
    else
      let r := s.endByService gid.team f.code again
      if r.2 then r.1.served asid rec else r.1
/-- Whether a team has been relaunched as often as it may be, or its grid has failed. -/
def State.relaunchOver (s : State) (f : FaultRec) : Bool :=
  match f.gid.bind fun g => (s.grid? g.team.grid).map fun x => (x, g.team.team) with
  | none => true
  | some (g, team) => g.failed.isSome || decide (3 ≤ (g.keptOf team).relaunches)
/-- Whether the service of a record has begun to end its team. -/
def State.begun (s : State) (f : FaultRec) : Bool :=
  s.sameTeam f && ((f.gid.bind fun g => s.team? g.team).map (·.ending)).getD false
/-- How a wait for sectors is named: of a record, of a team's deferred area, of an engine operation or `p.ld`. -/
def recKey (asid rec : Nat) : Nat := 2 ^ 48 * asid + rec
def teamKey (ident : Nat) : Nat := 2 ^ 80 + ident
def stallKey (id : Nat) : Nat := 2 ^ 81 + id
/-- The first index past every record's: above it RESUME's events name the team of an identity whose deferred area waits (R389). -/
def deferBase : Nat := 2 ^ 40
/-- The team of a context that waits for its deferred area. -/
def State.wanting (s : State) (asid rec : Nat) : Option Team :=
  s.teams.find? fun t => t.asid == asid && rec == deferBase + t.ident
/-- KILL.TEAM: by a record's action, or the end of a recovery that failed. -/
def State.killTeam (s : State) (asid rec : Nat) : State :=
  match s.service? asid rec with
  | some (_, f, a) =>
    if a == .killTeam || a == .hold || (a == .relaunchTeam && s.relaunchOver f) || (a == .recover && s.begun f) then
      s.killRec asid rec f false
    else s
  | none =>
    match s.wanting asid rec with
    | none => s
    | some t => if t.ending then (s.endByService t.id codeCAPACITY false).1 else s
def execKillTeam (asid rec : Nat) (s : State) : Out := .next (s.killTeam asid rec)
def execRelaunchTeam (asid rec : Nat) (s : State) : Out :=
  .next (match s.service? asid rec with
    | some (_, f, .relaunchTeam) => if s.relaunchOver f then s else s.killRec asid rec f true
    | some (_, f, .hold) => if s.relaunchOver f || !s.mayRelaunch f then s else s.killRec asid rec f true
    | _ => s)

/-! ## Recoveries (R368, R371, R375, R389) -/

/-- The canonical places of a record's pending accesses that no page holds. -/
def State.unmapped (s : State) (asid : Nat) (f : FaultRec) : List (Nat × Nat) :=
  let l := if f.ops.isEmpty then [f.va]
    else f.ops.flatMap fun id => match s.op? id with
      | none => []
      | some o => (o.parts.filter fun p => p.st.why == (codeXLATE, 1)).filterMap fun p =>
          match p.loc with
          | .glob va => some va
          | .bank _ _ => none
  l.map fun va => let t := s.canon asid va; (t.1, t.2.1)
/-- R371: NEED for a record. -/
def State.needOf (s : State) (f : FaultRec) : Nat :=
  let lines := (f.ops.flatMap fun id => match s.op? id with
    | none => []
    | some o => if !o.kind.isWrite then [] else (o.parts.filter fun p => p.st.isNack).filterMap fun p =>
        match p.loc with
        | .glob va => let t := s.canon o.asid va; some (t.1, t.2.1 / lineBytes)
        | .bank _ _ => none).eraseDups
  total lines fun b =>
    match s.ctx? b.1 with
    | none => 0
    | some c =>
      8 - match c.dirty? b.2 with
        | some d => d.owned
        | none => ownedSize (s.vault (s.home b.1 (b.2 * lineBytes))) (c.entry b.2)
/-- A recovery of a record: RESUME once it is supplied, KILL.TEAM if it fails. -/
def State.recoverEnd (s : State) (asid rec : Nat) (f : FaultRec) (how : Seek) : State :=
  match how with
  | .got => s.resumeRec asid rec f
  | .waiting => s
  | .failed => s.killRec asid rec f false
/-- R368 for a record. -/
def State.backingRec (s : State) (asid rec : Nat) (f : FaultRec) (expire : Bool) : State :=
  let l := s.unmapped asid f
  match l with
  | [] => s.resumeRec asid rec f
  | p :: _ =>
    let r := s.recoverBacking p.1 (recKey asid rec) ((l.filter fun x => x.1 == p.1).map (·.2)) expire
    r.1.recoverEnd asid rec f r.2
/-- R371 for a record. -/
def State.capacityRec (s : State) (asid rec : Nat) (f : FaultRec) (expire : Bool) : State :=
  let r := s.seek asid (recKey asid rec) (s.needOf f) expire
  r.1.recoverEnd asid rec f r.2
/-- R389: a step of 64 KiB sought for a team's deferred area. -/
def State.deferRec (s : State) (t : Team) (expire : Bool) : State :=
  if !t.wants || t.ending then s
  else
    let r := s.seek t.asid (teamKey t.ident) 1024 expire
    match r.2, r.1.team? t.id with
    | .got, some t => r.1.putTeam { t with wants := false }
    | .failed, some t => (r.1.endByService t.id codeCAPACITY false).1
    | _, _ => r.1
def execBackingRegionRecovery (asid rec : Nat) (s : State) : Out :=
  .next (match s.service? asid rec with
    | some (_, f, .recover) => if s.begun f || !s.inBacking asid f then s else s.backingRec asid rec f false
    | _ => s)
def execCapacityRecovery (asid rec : Nat) (s : State) : Out :=
  .next (match s.service? asid rec with
    | some (_, f, .recover) => if s.begun f || f.code != codeCAPACITY then s else s.capacityRec asid rec f false
    | some _ => s
    | none => match s.wanting asid rec with
      | none => s
      | some t => s.deferRec t false)
/-- R371 step 4: the wait for balloon sectors is over. -/
def execBalloonWaitExpiry (asid rec : Nat) (s : State) : Out :=
  .next (match s.service? asid rec with
    | some (_, f, .recover) =>
      if s.begun f then s
      else if f.code == codeCAPACITY then s.capacityRec asid rec f true
      else s.backingRec asid rec f true
    | some _ => s
    | none => match s.wanting asid rec with
      | none => s
      | some t => s.deferRec t true)

/-- R375: NEED for a stalled line. -/
def State.stallNeed (s : State) (asid va : Nat) : Nat :=
  let t := s.canon asid va
  match s.ctx? t.1 with
  | none => 0
  | some c =>
    let b := t.2.1 / lineBytes
    8 - match c.dirty? b with
      | some d => d.owned
      | none => ownedSize (s.vault (s.home t.1 t.2.1)) (c.entry b)
/-- R375: the recovery of a stalled operation carried on; it goes on, waits, or fails. -/
def State.engRecover (s : State) (e : Engine) (code va : Nat) : State :=
  let t := s.canon e.asid va
  let r := if code == codeCAPACITY then s.seek t.1 (stallKey e.id) (s.stallNeed e.asid va) true
    else s.recoverBacking t.1 (stallKey e.id) [t.2.1] true
  match r.2, r.1.eng? e.id with
  | .got, some e => r.1.putEng { e with stall := none }
  | .failed, some e => r.1.putEng { e with stall := none, failed := some (code, recVa va, min e.total (chunkBytes * e.chunk)) }
  | _, _ => r.1
/-- The part of a `p.ld` that stalls: in its turn, in a backing region, on no page. -/
def State.stalledPart (s : State) (o : MemOp) : Option (Nat × Part × Nat × Nat) :=
  if o.kind != .pld then none
  else o.parts.zipIdx.findSome? fun x =>
    match x.1.loc with
    | .bank _ _ => none
    | .glob va =>
      let t := s.canon o.asid va
      match s.ctx? t.1 with
      | none => none
      | some c =>
        match c.walk t.2.1 with
        | .error (code, detail) =>
          if x.1.st == .waiting && code == codeXLATE && detail == 1 && (c.backed t.2.1).isSome then some (x.2, x.1, t.1, t.2.1)
          else none
        | .ok _ => none
def State.stallRecovery (s : State) (id : Nat) : State :=
  match s.eng? id with
  | some e =>
    match e.stall with
    | none => s
    | some (code, va) => s.engRecover e code va
  | none =>
    match s.op? id with
    | none => s
    | some o =>
      match s.stalledPart o with
      | none => s
      | some (k, p, asid, va) =>
        let r := s.recoverBacking asid (stallKey id) [va] true
        match r.2, r.1.op? id with
        | .failed, some o => r.1.nackPart o k p codeXLATE 1
        | _, _ => r.1
def execEngineStallRecovery (eng : Nat) (s : State) : Out := .next (s.stallRecovery eng)

end Sys2Proof.Machine
end

