-- ==== Sys2Proof/Machine/Host.lean ====
section
/-! DEFINITION. Machine/Host.lean: what the signal box, the host and the world around the device do: boot and start-up (17_system
R316, R317, R321, R322), contexts, scrubbing, descriptors, synonyms and rank sets (17 R308, R311, R314, R318 to R320, 05_memory
R116, 06_compression R147), stronger ECC and environmental failures (21_faults_containment R393 to R395), reset (05 R405); and
words that are no instruction (19_faults_isa R345 to R348). -/

namespace Sys2Proof.Machine

/-! ## Records of the environment (R394) -/

/-- The contexts of some teams. -/
def asidsOf (l : List Team) : List Nat := (l.map (·.asid)).eraseDups
/-- An ENV record to each of some contexts. -/
def State.envTo (s : State) (detail : Nat) (l : List Nat) : State := l.foldl (fun s a => s.post a (s.bareRec codeENV detail 0)) s
/-- A report over the management port. -/
def State.report (s : State) (r : Report) : State := { s with reports := s.reports ++ [r] }
/-- An environmental failure: records to the contexts concerned, or before stage 4, which none can be, a report with the stage. -/
def State.envNow (s : State) (detail : Nat) (l : List Nat) : State :=
  if s.stage < 4 then s.report (.env s.stage detail) else s.envTo detail l
/-- Running teams with a group on a tile. -/
def State.teamsOnTile (s : State) (tile : Nat) : List Team := s.teams.filter fun t => t.st == .running && tileOf t.core == tile
/-- R394 DETAIL 6: a team serviced as if it had raised UE with DETAIL 4. -/
def State.failTeam (s : State) (t : Team) : State :=
  match s.groups.find? fun g => g.id.team == t.id with
  | none => s
  | some g =>
    match g.cohorts.head? with
    | some c => s.raise g c (c.origin 0 0) codeUE 4 0 0 0 c.lanes []
    | none =>
      let f : FaultRec := ⟨codeUE, 4, some g.id, 0, g.core, 0, Origin.none, 0, allLanes g.width, 0, s.time, [],
        s.identOf g.id, s.tick⟩
      s.putGroup { g with held := g.held ++ [f], records := g.records + 1 }
/-- R394 DETAIL 6 for a tile. -/
def State.failTile (s : State) (tile : Nat) : State :=
  let l := s.teamsOnTile tile
  let s := (l.foldl State.failTeam s).envNow 6 (asidsOf l)
  { s with tiles := s.tiles.modify tile fun x => { x with closed := true } }

/-! ## Network boot (R316, R317) -/

/-- R308: partitions that the image may set up: every tile and every Iluros port lies in exactly one. -/
def partsOk (l : List PartConfig) : Bool :=
  decide (l.length ≤ 8) &&
  (l.all fun p => (p.tiles == 1 || p.tiles == 2 || p.tiles == 4 || p.tiles == 8) && p.first % p.tiles == 0 &&
    decide (256 ≤ p.ratio) && decide (p.ratio ≤ 512)) &&
  ((List.range numTiles).all fun t => (l.filter fun p => decide (p.first ≤ t) && decide (t < p.first + p.tiles)).length == 1) &&
  (l.all fun p => decide (p.first + p.tiles ≤ numTiles) && (p.ports.all fun n => decide (n < 16)) &&
    p.ports.eraseDups.length == p.ports.length) &&
  (List.range 16).all fun n => (l.filter fun p => p.ports.contains n).length == 1
/-- Whether every check of steps 2 to 5 passes; the owner key must be the one enrolled. -/
def BootOk (img : BootImage) (owner : Option (List Byte)) : Bool :=
  img.dhcpAnswered && img.fetched && img.vendorSigned && img.ownerSigned && owner == some img.ownerDigest &&
    (img.sections.all fun x => x.matchesManifest) && partsOk img.parts
/-- R147, R153: the pool of a partition: its vaults less the relocation reserve, the share tables and what stronger codes take. -/
def poolOf (c : PartConfig) (strong : List (Nat × Nat)) : Nat :=
  let mine := strong.filter fun x => decide (16 * c.first ≤ x.1) && decide (x.1 < 16 * (c.first + c.tiles))
  16 * c.tiles * (vaultSectors - 1024 - 131072) - strongLoss * mine.length
/-- A partition as step 7 sets it up, with what a scrub interrupted by reset has left (R320). -/
def newPart (c : PartConfig) (k : Nat) (f : Flash) : Partition :=
  { first := c.first, tiles := c.tiles, ratio := c.ratio, pool := poolOf c f.strong, mapped := 0
    queues := List.replicate 64 [], lastQueue := 63, blocked := [], rings := List.replicate 64 ⟨0, 0, 0⟩, seqs := List.replicate 8 0, live := []
    failed := [], rankSets := [], collectives := [], synonyms := [], nextIdent := 1
    scrub := (f.scrub.filter fun x => x.1 == k).map (·.2), scrubDone := 0, scrubbing := [], scrubBanks := [], returning := 0
    ports := c.ports }
/-- R393: a bank that flash keeps on the stronger code. -/
def State.strongBank (s : State) (p : Nat × Nat) : State :=
  let v := s.vault p.1
  s.putVault p.1 (v.putDBank { v.dbank p.2 with strong := true })
/-- The partition of an image that scrubs a sector which a reset has left queued (R320): the one whose vaults hold it; else, as for a sector
of a save area, the one of its old number, or the first. -/
def scrubPart (l : List PartConfig) (x : Nat × Nat × Nat) : Nat :=
  (l.findIdx? fun c => decide (16 * c.first ≤ x.2.1) && decide (x.2.1 < 16 * (c.first + c.tiles))).getD (if x.1 < l.length then x.1 else 0)
/-- A boot attempt of stage 3, with the straps of step 1 and from step 2 on; one that fails is retried after 10 s, unless the
flash cannot be unsealed. -/
def State.boot (s : State) (img : BootImage) : State :=
  if s.stage != 3 || s.bootStep != 2 then s
  else
    let ports := s.ports.zipIdx.map fun p => { p.1 with enabled := img.ports.contains p.2 }
    let s : State := { s with ports := ports, slot := img.slotNumber, macOffset := img.macOffset }
    if !img.flashUnsealed then { s with bootStep := 9 }.report (.env 3 3)
    else if !BootOk img s.flash.owner then { s with bootStep := 0, bootTime := s.time }.report (.env 3 3)
    else
      let flash := { s.flash with scrub := s.flash.scrub.map fun x => (scrubPart img.parts x, x.2) }
      let s : State := { s with
        bootStep := 8, measurements := img.sections.map (·.digest), flash := flash
        parts := img.parts.zipIdx.map fun p => newPart p.1 p.2 flash }
      s.flash.strong.foldl State.strongBank s
def execPowerOnBoot (img : BootImage) (s : State) : Out := .next (s.boot img)
/-- R394 DETAIL 3: a failed boot starts again at step 2, 10 s later. -/
def execBootRetry (s : State) : Out :=
  .next (if s.stage = 3 ∧ s.bootStep = 0 ∧ s.bootTime + 10000000000 ≤ s.time then { s with bootStep := 2 } else s)
/-- R316: the owner key enrolled; a boot that could not unseal the flash begins again. -/
def execOwnerKeyEnrolment (digest : List Byte) (s : State) : Out :=
  .next { s with flash := { s.flash with owner := some digest }, bootStep := if s.bootStep = 9 then 2 else s.bootStep }
/-- R317: the measurement registers, signed. -/
def execGetMeasurements (s : State) : Out := .next (s.report (.measurements s.measurements (Config.signature s.measurements)))
def execSpdmSecureSession (s : State) : Out := .next { s with spdm := true }
/-- R318: a virtual function's device interface locked. -/
def execDeviceInterfaceLock (vf : Nat) (s : State) : Out :=
  .next (if 8 ≤ vf || s.locked.contains vf then s else { s with locked := s.locked ++ [vf] })

/-! ## Cold start and clocks (R321, R322, R394) -/

/-- The highest clock a tile may have in MHz. -/
def State.clockCap (s : State) : Nat := if s.hot then minMHz else if s.stage < 5 then stage4MHz else nominalMHz
/-- Stage 1 begins, with 30 min until its first report. -/
def State.warm (s : State) : State := { s with stage := 1, bootStep := 2, bootTime := s.time + 1800000000000 }
/-- R321: a stage ends: `coldest` is the coldest stack sensor's reading. -/
def State.advanceStage (s : State) (coldest : Int) : State :=
  match s.stage with
  | 0 => if -20 ≤ coldest then { s with stage := 2, bootStep := 2 } else s.warm
  | 1 => if -20 ≤ coldest then { s with stage := 2 } else s
  | 2 => { (List.range numCores).foldl (fun s v => s.putVault v { s.vault v with trained := true }) s with stage := 3 }
  | 3 => if s.bootStep = 8 then { s with stage := 4 } else s
  | 4 => if -10 ≤ coldest then { s with stage := 5 } else s
  | _ => s
def execStartStageAdvance (coldest : Int) (s : State) : Out := .next (s.advanceStage coldest)
/-- R394 DETAIL 1: reported every 60 s while stage 1 goes on. -/
def execStage1Timeout (s : State) : Out :=
  .next (if s.stage = 1 ∧ s.bootTime ≤ s.time then { s with bootTime := s.time + 60000000000 }.report (.env 1 1) else s)
/-- R394 DETAIL 2: a vault that has failed training three times is degraded. -/
def State.trainFail (s : State) (n : Nat) : State :=
  let v := s.vault n
  if s.stage != 2 || decide (numCores ≤ n) || v.degraded then s
  else (s.putVault n { v with trainFails := v.trainFails + 1, degraded := decide (3 ≤ v.trainFails + 1) }).report (.env 2 2)
def execVaultTrainingFailure (vault : Nat) (s : State) : Out := .next (s.trainFail vault)
/-- R18, R322: a step of 25 MHz, at most one per µs, within the clock's bounds. Above an inlet temperature of +30 °C it goes down while the
module nears its power limit. DESIGN CHOICE (log entries 103, 144): when that is, is free; when the governor steps is the schedule's. -/
def State.governor (s : State) (tile : Nat) (up : Bool) : State :=
  match s.tiles[tile]? with
  | none => s
  | some x =>
    let up := up && !(s.above30 && Config.nearLimit s.tick)
    let mhz := if up then x.mhz + stepMHz else x.mhz - stepMHz
    if s.time < x.lastStep + 1000 || mhz < minMHz || (up && s.clockCap < mhz) then s
    else { s with tiles := s.tiles.set tile { x with mhz := mhz, lastStep := s.time } }
def execClockGovernorStep (tile : Nat) (up : Bool) (s : State) : Out := .next (s.governor tile up)
/-- R394 DETAIL 4 and 6: the tile is stepped down by 100 MHz; more than 16 misses within 1 ms at 800 MHz fail it. -/
def State.edgeMiss (s : State) (tile : Nat) : State :=
  match s.tiles[tile]? with
  | none => s
  | some x =>
    if minMHz < x.mhz then { s with tiles := s.tiles.set tile { x with mhz := max minMHz (x.mhz - 100), lastStep := s.time } }
    else
      let l := (x.misses.filter fun t => decide (s.time < t + 1000000)) ++ [s.time]
      let s : State := { s with tiles := s.tiles.set tile { x with misses := l } }
      if 16 < l.length && !x.closed then s.failTile tile else s
def execTimingEdgeMiss (tile : Nat) (s : State) : Out := .next (s.edgeMiss tile)
/-- R322, R394 DETAIL 7: the inlet's temperature in °C. -/
def State.inlet (s : State) (deg : Int) : State :=
  let l := s.teams.filter fun t => t.st == .running
  let s : State := { s with above30 := decide (30 < deg) }
  if deg ≤ 45 then { s with hot := false }
  else
    let s : State := { s with hot := true, tiles := s.tiles.map fun x => { x with mhz := min x.mhz minMHz } }
    let s := s.envNow 7 (asidsOf l)
    if 55 < deg then { l.foldl State.failTeam s with dead := true } else s
def execOvertemperature (deg : Int) (s : State) : Out := .next (s.inlet deg)
/-- R394 DETAIL 5: a live window fails; twice in a row degrades the vault. -/
def State.retrainFail (s : State) (n : Nat) : State :=
  let v := s.vault n
  match v.window with
  | none => s
  | some w =>
    if !w.active then s
    else
      let k := v.windowFails + 1
      let s := s.putVault n { v.leaveWindow (s.now n) with windowFails := k, degraded := v.degraded || decide (2 ≤ k) }
      if k = 2 then s.envNow 5 (asidsOf (s.teamsOn n)) else s
def execRetrainingFailure (vault : Nat) (s : State) : Out := .next (s.retrainFail vault)

/-! ## Contexts (R311, R318) -/

/-- The base of event queue `q` of a request. -/
def queueBase (req : ContextRequest) (q : Nat) : QueueBase := (req.queues[q]?).getD (.va 0)
/-- Whether a scrub that a reset interrupted is still under way in a partition (R320). -/
def State.interrupted (s : State) (k : Nat) (p : Partition) : Bool := !p.scrub.isEmpty && !s.ctxs.any fun c => c.part == k && c.ending
/-- Whether a request can be met. -/
def State.requestOk (s : State) (r : ContextRequest) : Bool :=
  match s.part? r.part with
  | none => false
  | some p =>
    decide (4 ≤ s.stage) && decide (r.asid < 2 ^ 16) && (s.ctx? r.asid).isNone &&
    decide (16 * p.first ≤ r.pantryHome) && decide (r.pantryHome < 16 * (p.first + p.tiles)) &&
    decide (r.budget + tableSectors 0 ≤ s.freePool r.part) && decide (r.queues.length ≤ 16) && decide (r.notify.getD 0 < 16) &&
    decide (r.backing.length ≤ 16) &&
    (r.backing.all fun b => b.va % 65536 == 0 && b.len % 65536 == 0 && decide (b.va + b.len ≤ 2 ^ 56)) &&
    !s.parts.zipIdx.any fun x => s.interrupted x.2 x.1
/-- A context as its creation sets it up. -/
def newContext (r : ContextRequest) (key : Option Nat) : Context :=
  { asid := r.asid, part := r.part, descs := [], entries := [], dirty := [], dramBad := [], l2Bad := [], tags := []
    budget := r.budget, free := r.budget, held := 0, watermark := 0, balloonReq := 0, balloonList := 0, pantryHome := r.pantryHome
    reserves := [], reads := [], mboxes := List.replicate 8 ⟨0, 0, false⟩
    queues := (List.range 16).map fun q => ⟨queueBase r q, 0, []⟩, notify := r.notify.getD 0, fq := [], fqNext := 0, spill := []
    backing := r.backing, actions := r.actions, saveReserve := 0, owed := [], waitSince := [], buckets := [], key := key
    loadStopped := false, toSubmit := [], ending := false }
/-- A context created: its zero-filled root table comes out of the pool. -/
def State.createCtx (s : State) (r : ContextRequest) (key : Option Nat) : State :=
  match s.part? r.part with
  | none => s
  | some p => { s.putPart r.part { p with pool := p.pool - tableSectors 0 } with ctxs := s.ctxs ++ [newContext r key] }
def execContextCreate (req : ContextRequest) (s : State) : Out :=
  .next (if s.requestOk req then s.createCtx req none else s)
/-- R318: within a secure session, on a locked interface, with a free key slot filled from the random source. -/
def State.createProtected (s : State) (r : ContextRequest) : State :=
  match s.keys.findIdx? fun k => k.owner.isNone with
  | none => s
  | some n =>
    if s.spdm && s.locked.contains r.part && s.requestOk r then
      { s.createCtx r (some n) with keys := s.keys.set n ⟨some r.asid, Config.keyMaterial s.tick⟩ }
    else s
def execProtectedContextCreate (req : ContextRequest) (s : State) : Out := .next (s.createProtected req)

/-! ## Teardown and scrubbing (R320, R395) -/

/-- An operation of the device given up with its context. -/
def State.cancelEngines (s : State) (asid : Nat) : State :=
  (s.engs.filter fun e => e.asid == asid).foldl (fun s e => ((s.ungrant e).dropEng e.id).failOp e.part e.tok 0xFF 0) s
def State.cancelGrids (s : State) (asid : Nat) : State :=
  (s.grids.filter fun g => g.asid == asid).foldl (fun s g =>
    (s.dropGrid g.id).failOp g.id.part (BitVec.ofNat 64 g.id.tok) 0xFF 0) s
/-- The sectors of a run. -/
def runSectors (vault first n : Nat) : List (Nat × Nat) := (List.range n).map fun i => (vault, first + i)
/-- A map entry set to Z: the sectors its block owned. -/
def State.shedEntry (s : State) (c : Context) (block : Nat) (e : MapEntry) : State × List (Nat × Nat) :=
  let home := s.home c.asid (block * lineBytes)
  let owns := ((c.dirty? block).map (·.ownsRun)).getD true
  if codeSize e.code = 0 || !owns then (s, [])
  else if !e.shared then (s, runSectors home e.loc (codeSize e.code))
  else
    let v := s.vault home
    match v.share? e.sidx with
    | none => (s, [])
    | some x =>
      if 2 ≤ x.refs then
        (s.putVault home { v with shares := v.shares.map fun y => if y.sidx == e.sidx then { y with refs := y.refs - 1 } else y }, [])
      else (s.putVault home { v with shares := v.shares.filter fun y => y.sidx != e.sidx }, runSectors home x.sector (codeSize e.code))
/-- The flash with a partition's scrub queue as it stands. -/
def State.keepScrub (s : State) (part : Nat) : State :=
  let q := ((s.part? part).map (·.scrub)).getD []
  { s with flash := { s.flash with scrub := (s.flash.scrub.filter fun x => x.1 != part) ++ q.map fun x => (part, x) } }
/-- Sectors of a context's tables, segments and row pages, and those of its pages that count against the promise (R147). -/
def Context.mappedSectors (c : Context) : Nat × Nat :=
  c.descs.foldl (fun acc x =>
    let level := x.1.1
    let size := 2 ^ levelShift level / 64
    if !descV x.2 then acc
    else if kindLevel (descKind x.2) == some level then
      if descRow x.2 then (acc.1 + segmentSectors level + size, acc.2) else (acc.1 + segmentSectors level, acc.2 + size)
    else (acc.1 + tableSectors (level + 1), acc.2)) (tableSectors 0, 0)
/-- The sectors of a context's save areas and its teams' deferred areas (R305, R306, R389), whose places the signal box alone knows: they
are queued under a vault number that no vault has (log entry 155). -/
def State.areaSectors (s : State) (c : Context) : List (Nat × Nat) :=
  (List.range (c.saveReserve + s.deferredSectors c.asid)).map fun i => (numCores, i)
/-- R320 steps 1 and 2. -/
def State.teardown (s : State) (asid : Nat) : State :=
  match s.ctx? asid with
  | none => s
  | some c =>
    match c.key with
    | none => s
    | some slot =>
      if c.ending then s
      else
        let mine := s.teams.filter fun t => t.asid == asid
        let cores := mine.flatMap fun t => s.coresOf t.id
        let banks := (mine.filter fun t => t.st == .running).flatMap fun t => t.banks.map fun b => (pairOf t.core, b)
        let unmapped := c.mappedSectors
        let areas := s.areaSectors c
        let s := mine.foldl (fun s t => s.removeTeam t false) s
        let s := (s.cancelEngines asid).cancelGrids asid
        let s : State := { s with
          ops := s.ops.filter (fun o => o.asid != asid)
          pairs := s.pairs.map (fun p => (p.1, { p.2 with l1 := p.2.l1.filter fun l => l.asid != asid }))
          vaults := s.vaults.map fun v => (v.1, { v.2 with l2 := v.2.l2.filter fun l => l.asid != asid })
          keys := s.keys.set slot ⟨some asid, 0⟩ }
        let r : State × List (Nat × Nat) := c.entries.foldl (fun (acc : State × List (Nat × Nat)) e =>
          let x := acc.1.shedEntry c e.1 e.2
          (x.1, acc.2 ++ x.2)) (s, [])
        let s : State := { r.1 with mem := cellDrop r.1.mem (asid * 2 ^ 56) ((asid + 1) * 2 ^ 56) }
        let s := s.putCtx { c with
          ending := true, entries := [], dirty := [], descs := [], dramBad := [], l2Bad := [], tags := [], reserves := []
          reads := [], buckets := [], saveReserve := c.saveReserve, held := 0, free := 0, balloonReq := 0, owed := [] }
        match s.part? c.part with
        | none => s
        | some p =>
          let p := { p with
            scrub := p.scrub ++ r.2 ++ areas, scrubDone := if p.scrub.isEmpty then 0 else p.scrubDone, scrubbing := p.scrubbing ++ cores
            scrubBanks := p.scrubBanks ++ banks, returning := p.returning + unmapped.1, mapped := p.mapped - unmapped.2
            synonyms := p.synonyms.filter fun y => y.asid != asid && y.canonAsid != asid }
          (s.putPart c.part p).keepScrub c.part
/-- Whether a map entry or a share still holds the run at a sector of a vault. -/
def State.runHeld (s : State) (vault first : Nat) : Bool :=
  ((s.vault vault).shares.any fun x => x.sector == first) ||
  s.ctxs.any fun c => c.entries.any fun e =>
    codeSize e.2.code != 0 && e.2.loc / 32 * 32 ≤ first && first ≤ e.2.loc && s.home c.asid (e.1 * lineBytes) == vault
/-- R320 step 4: the scrub of a partition is complete: what its torn-down contexts held is free, and the pool has their tables,
segments and row pages back (R147). -/
def State.scrubOver (s : State) (part : Nat) : State :=
  let gone := (s.ctxs.filter fun c => c.part == part && c.ending).map (·.asid)
  let s : State := { s with
    ctxs := s.ctxs.filter (fun c => !gone.contains c.asid)
    keys := s.keys.map fun k => if (k.owner.map gone.contains).getD false then ⟨none, 0⟩ else k }
  match s.part? part with
  | none => s
  | some p =>
    let mine := fun (n : Nat) => decide (16 * p.first ≤ n) && decide (n < 16 * (p.first + p.tiles))
    let clean := fun (x : Nat × Vault) => if mine x.1 then
      (x.1, { x.2 with runs := x.2.runs.filter (fun r => s.runHeld x.1 r.1), rows := x.2.rows.filter fun r => s.runHeld x.1 r.1 }) else x
    { s.putPart part { p with scrubbing := [], scrubBanks := [], pool := p.pool + p.returning, returning := 0 } with
      vaults := s.vaults.map clean }
/-- A scrub that has no sector left is over. -/
def State.scrubEnd (s : State) (part : Nat) : State :=
  match s.part? part with
  | none => s
  | some p => if p.scrub.isEmpty then s.scrubOver part else s
def execContextTeardown (asid : Nat) (s : State) : Out := .next ((s.teardown asid).scrubEnd (s.partOf asid))
/-- R320 step 3, R394 DETAIL 8: the next queued sector is scrubbed; one that cannot be written leaves the pool and counts as
scrubbed. -/
def State.scrubNext (s : State) (part : Nat) : State :=
  match s.part? part with
  | none => s
  | some p =>
    match p.scrub with
    | [] => s
    | (vault, sector) :: rest =>
      let fails := decide (vault < numCores) && Config.scrubFails s.tick
      let p := { p with scrub := rest, scrubDone := p.scrubDone + 1, pool := if fails then p.pool - 1 else p.pool }
      let s := (s.putPart part p).keepScrub part
      let s := if fails then
          (s.putVault vault { s.vault vault with retired := sector :: (s.vault vault).retired }).envNow 8 (asidsOf (s.teamsOn vault))
        else s
      s.scrubEnd part
def execScrubSector (part : Nat) (s : State) : Out := .next (s.scrubNext part)

/-! ## Descriptors, synonyms, rank sets (R314, R319, R116) -/

/-- A row page's rows and map entries given up. -/
def State.dropRows (s : State) (asid va size : Nat) : State :=
  match s.ctx? asid with
  | none => s
  | some c =>
    let inPage := fun (b : Nat) => decide (va ≤ b * lineBytes) && decide (b * lineBytes < va + size)
    let l := c.entries.filter fun e => inPage e.1
    let s := l.foldl (fun s e =>
      let n := s.home asid (e.1 * lineBytes)
      let v := s.vault n
      s.putVault n { v with rows := v.rows.filter fun r => r.1 != e.2.loc / 32 * 32 }) s
    let s := s.putCtx { c with entries := c.entries.filter fun e => !inPage e.1 }
    { s with mem := cellDrop s.mem (memKey asid va) (memKey asid va + size) }
/-- A page unmapped: its blocks are released, and its segment returns to the pool. -/
def State.unmapPage (s : State) (asid level va : Nat) (d : W64) : State :=
  match s.ctx? asid with
  | none => s
  | some c =>
    let size := 2 ^ levelShift level
    let row := descRow d
    let blocks := (c.entries.map (·.1)) ++ c.dirty.map (·.block)
    let mine := blocks.eraseDups.filter fun b => decide (va ≤ b * lineBytes) && decide (b * lineBytes < va + size)
    let s := if row then s.dropRows asid va size
      else mine.foldl (fun s b => (s.release asid b (s.home asid (b * lineBytes))).zeroBlock asid b) s
    let s := match s.ctx? asid with
      | none => s
      | some c => s.putCtx (c.setDesc level (va / size) 0)
    match s.part? c.part with
    | none => s
    | some p => s.putPart c.part { p with
        pool := p.pool + segmentSectors level + (if row then size / 64 else 0)
        mapped := p.mapped - (if row then 0 else size / 64) }
/-- The valid descriptors of a context within a range, the lowest level first. -/
def Context.descsIn (c : Context) (level lo n : Nat) : List (Nat × Nat × W64) :=
  (sortBy (fun p => 3 - p.1) ((c.descs.map fun x => (x.1.1, x.1.2, x.2)).filter fun x =>
    decide (level ≤ x.1) && decide (lo ≤ x.2.1 * 2 ^ levelShift x.1) && decide (x.2.1 * 2 ^ levelShift x.1 < lo + n) && descV x.2.2))
/-- Every page and table beneath a descriptor, and what it names, given up. -/
def State.unmapUnder (s : State) (asid level va : Nat) : State :=
  match s.ctx? asid with
  | none => s
  | some c =>
    (c.descsIn level va (2 ^ levelShift level)).foldl (fun s x =>
      let a := x.2.1 * 2 ^ levelShift x.1
      if descKind x.2.2 == 3 && x.1 != 3 then
        match s.ctx? asid, s.part? c.part with
        | some c, some p => (s.putCtx (c.setDesc x.1 x.2.1 0)).putPart c.part { p with pool := p.pool + tableSectors (x.1 + 1) }
        | _, _ => s
      else s.unmapPage asid x.1 a x.2.2) s
/-- Whether a descriptor changes nothing but rights of a page: its kind and its placement stay. -/
def sameFrame (level : Nat) (a b : W64) : Bool :=
  descV b && some (descKind a) == pageKind level && descKind a == descKind b && descRow a == descRow b && descPlc a == descPlc b &&
    descPidx a == descPidx b && descBg a == descBg b
/-- A descriptor where none was valid: a page, or a table. -/
def State.newDesc (s : State) (asid level va : Nat) (d : W64) : State :=
  if !descV d then s
  else if kindLevel (descKind d) == some level then (s.mapPage asid va d).getD s
  else if descKind d == 3 && level != 3 then
    match s.ctx? asid with
    | none => s
    | some c =>
      match s.part? c.part with
      | none => s
      | some p =>
        if !c.pathFree level va then s
        else
          let r := c.addTables level va
          (s.putCtx (r.1.setDesc level (va / 2 ^ levelShift level) d)).putPart c.part
            { p with pool := p.pool - r.2 - tableSectors (level + 1) }
  else s
/-- R319: the lines beneath a descriptor settled, as the vaults let their write-backs in (R128 to R130), and dropped; answers whether that
is done. -/
def State.quench (s : State) (asid lo n : Nat) : State × Bool :=
  match s.ctx? asid with
  | none => (s, true)
  | some c =>
    let mine := (c.dirty.map (·.block)).filter fun b => decide (lo ≤ b * lineBytes) && decide (b * lineBytes < lo + n)
    let r := s.settleAll 0 (mine.map fun b => (asid, b))
    let s := r.1.dropAllL1 asid lo (lo + n)
    let keep := fun (l : L2Line) => l.asid != asid || decide (l.block * lineBytes < lo) || decide (lo + n ≤ l.block * lineBytes)
    if !r.2 then r
    else ({ s with vaults := s.vaults.map fun v => (v.1, { v.2 with l2 := v.2.l2.filter keep }) }, true)
/-- R319: a valid descriptor changes only while no team of its ASID is resident: those that are, are asked to stop; they resume
afterwards by R307. -/
def State.changeDesc (s : State) (asid level pre : Nat) (d : W64) : State :=
  match s.ctx? asid with
  | none => s
  | some c =>
    let n := 2 ^ levelShift level
    let va := pre * n
    if 4 ≤ level || 2 ^ 56 ≤ va || c.ending then s
    else
      let old := c.desc level va
      if !descV old then s.newDesc asid level va d
      else if s.teams.any fun t => t.asid == asid && t.st == .running then
        { s with teams := s.teams.map fun t =>
            if t.asid == asid && t.st == .running && !t.stop then { t with stop := true, halted := [] } else t }
      else
        let r := s.quench asid va n
        let s := r.1
        if !r.2 then s
        else if sameFrame level old d then
          match s.ctx? asid with
          | none => s
          | some c => s.putCtx (c.setDesc level pre d)
        else (s.unmapUnder asid level va).newDesc asid level va d
def execDescriptorChange (asid level pre : Nat) (desc : W64) (s : State) : Out := .next (s.changeDesc asid level pre desc)
/-- R116: an alias range registered in the remap filter. -/
def State.addSynonym (s : State) (part : Nat) (y : Synonym) : State :=
  match s.part? part with
  | none => s
  | some p =>
    let ok := decide (p.synonyms.length < 64) && y.va % 65536 == 0 && y.len % 65536 == 0 && y.canonVa % 65536 == 0 &&
      decide (y.va + y.len ≤ 2 ^ 56) && decide (y.canonVa + y.len ≤ 2 ^ 56) &&
      ((s.ctx? y.asid).map (·.part)) == some part && ((s.ctx? y.canonAsid).map (·.part)) == some part
    if ok then s.putPart part { p with synonyms := p.synonyms ++ [y] } else s
def execSynonymRegister (part : Nat) (syn : Synonym) (s : State) : Out := .next (s.addSynonym part syn)
/-- R314: an entry of the rank-set table, which names a port of the partition for each peer, changes while no collective of it is
pending; its places begin anew. -/
def State.writeRankSet (s : State) (part idx : Nat) (x : RankSet) : State :=
  match s.part? part with
  | none => s
  | some p =>
    let pending := s.engs.any fun e => e.part == part && !e.kind.tender && e.rset == idx
    let ok := decide (idx < 256) && decide (1 ≤ x.ranks) && decide (x.ranks ≤ 4096) && decide (x.own < x.ranks) &&
      (x.ports.all fun a => decide (a.1 < x.ranks) && a.1 != x.own && p.ports.contains a.2) &&
      (List.range x.ranks).all fun r => r == x.own || x.ports.any fun a => a.1 == r
    if pending || !ok then s
    else s.putPart part { p with
      rankSets := assocSet idx x p.rankSets
      collectives := p.collectives.filter fun c => c.1 % 256 != idx }
def execRankSetWrite (part idx : Nat) (entry : RankSet) (s : State) : Out := .next (s.writeRankSet part idx entry)

/-! ## Stronger ECC (R393, R153) -/

/-- Corrected errors of a bank within the last hour. -/
def DBank.recent (x : DBank) (now : Nat) : Nat := total (x.errs.filter fun e => decide (now < e.1 + 3600000000000)) (·.2)
/-- The scrubber has read a bank and corrected `errs` errors. -/
def State.scrubber (s : State) (vault b errs : Nat) : State :=
  if numCores ≤ vault || 192 ≤ b || errs = 0 then s
  else
    let v := s.vault vault
    let x := v.dbank b
    let kept := x.errs.filter fun e => decide (s.time < e.1 + 3600000000000)
    s.putVault vault (v.putDBank { x with errs := kept ++ [(s.time, errs)] })
def execScrubberPass (vault bank errs : Nat) (s : State) : Out := .next (s.scrubber vault bank errs)
/-- The partition of a vault. -/
def State.partOfVault (s : State) (vault : Nat) : Option (Nat × Partition) :=
  (s.parts.zipIdx.find? fun p => decide (16 * p.1.first ≤ vault) && decide (vault < 16 * (p.1.first + p.1.tiles))).map fun p => (p.2, p.1)
/-- Sectors in use in a vault, and those it can hold once one more bank is on the stronger code. -/
def Vault.inUse (v : Vault) : Nat := total (v.runs ++ v.rows) (·.2)
def Vault.roomWith (v : Vault) : Nat :=
  vaultSectors - 1024 - 131072 - strongLoss * ((v.banks.filter (·.strong)).length + 1)
/-- A run moved to free sectors of its vault; the entry and the share that name it follow. An error found poisons its block
(R387). -/
def State.moveRun (s : State) (vault : Nat) (run : Nat × Nat) : State :=
  let r := s.allocRun vault run.2
  let s := r.1.freeRun vault run.1
  let v := s.vault vault
  let s := s.putVault vault { v with shares := v.shares.map fun x => if x.sector == run.1 then { x with sector := r.2 } else x }
  s.ctxs.foldl (fun s c =>
    c.entries.foldl (fun s e =>
      if codeSize e.2.code != 0 && e.2.loc == run.1 && s.home c.asid (e.1 * lineBytes) == vault then
        match s.ctx? c.asid with
        | none => s
        | some x =>
          let bad := x.dramHit e.1
          let x := { x.setEntry e.1 { e.2 with loc := r.2, poison := e.2.poison || bad } with dramBad := x.dramBad.filter fun y => y / 8 != e.1 }
          let s := s.putCtx x
          if bad then s.post c.asid (s.bareRec codeUE 6 (e.1 * lineBytes)) else s
      else s) s) s
/-- Dirty lines of the vault whose runs lie in a bank's lost rows settled first. -/
def State.settleLost (s : State) (vault b : Nat) : State :=
  s.ctxs.foldl (fun s c => c.dirty.foldl (fun s d =>
    let e := c.entry d.block
    if d.ownsRun && codeSize e.code != 0 && overlaps e.loc (codeSize e.code) (lostStart b) strongLoss &&
        s.home c.asid (d.block * lineBytes) == vault then s.settleLine c.asid d.block else s) s) s
/-- R393: a bank with more than 16 corrections within an hour moves to the stronger code: its sectors leave the pool, runs in the
lost rows move, the rest is rewritten slot by slot; where the vault has too little room balloon requests are posted and the bank
stays as it is. -/
def State.upgrade (s : State) (vault b : Nat) : State :=
  let v := s.vault vault
  let x := v.dbank b
  match s.partOfVault vault with
  | none => s
  | some (k, p) =>
    if 192 ≤ b || x.strong || (x.recent s.time) ≤ 16 then s
    else if v.roomWith < v.inUse then
      let mark := 2 ^ 32 + vault
      s.askAll mark (v.inUse - v.roomWith - s.outstanding mark) (s.donors k (2 ^ 32))
    else
      let s := s.settleLost vault b
      let v := s.vault vault
      let s := s.putVault vault (v.putDBank { v.dbank b with strong := true, rewrite := 9216 })
      let s := s.putPart k { p with pool := p.pool - strongLoss }
      let s : State := { s with flash := { s.flash with strong := s.flash.strong ++ [(vault, b)] } }
      ((s.vault vault).runs.filter fun r => overlaps r.1 r.2 (lostStart b) strongLoss).foldl (fun s r => s.moveRun vault r) s
def execEccUpgrade (vault bank : Nat) (s : State) : Out := .next (s.upgrade vault bank)

/-! ## Iluros ports (R394 DETAIL 9) -/

/-- A port that has lost its link retrains it: it regains its footing, or has failed once more. -/
def execIlurosLinkRetraining (port : Nat) (regained : Bool) (s : State) : Out :=
  .next (match s.ports[port]? with
    | none => s
    | some p =>
      if regained then
        let q : Port := { p with up := true, fails := 0 }
        { s with ports := s.ports.set port q.flush }
      else { s with ports := s.ports.set port { p with up := false, fails := p.fails + 1 } })
/-- A port that has failed three times leaves every rank set; collectives pending over it fail with 0x48. -/
def State.portGone (s : State) (port : Nat) : State :=
  match s.ports[port]? with
  | none => s
  | some p =>
    if !p.enabled || p.fails < 3 then s
    else
      let uses := fun (rs : RankSet) => rs.ports.any fun a => a.2 == port
      let hit := fun (e : Engine) => e.failed.isNone && (s.rankSet e.part e.rset).ports.any fun a =>
        a.2 == port && (e.kind.toAll || ((e.kind == .send || e.kind == .recv) && a.1 == collPeer e.c))
      let served := fun (t : Team) => ((s.part? t.id.grid.part).map fun q => q.rankSets.any fun r => uses r.2).getD false
      let l := asidsOf (s.teams.filter fun t => t.st == .running && served t)
      let s : State := { s with
        engs := s.engs.map (fun e => if hit e then { e with failed := some (codeENV, 0, 0) } else e)
        ports := s.ports.set port { p with enabled := false }
        parts := s.parts.map fun q => { q with rankSets := q.rankSets.map fun r =>
          (r.1, { r.2 with ports := r.2.ports.filter fun a => a.2 != port }) } }
      s.envNow 9 l
def execPortRetrainFailure (port : Nat) (s : State) : Out := .next (s.portGone port)

/-! ## Reset (R405, R320, R393) -/

/-- A device reset: the machine right after reset, but for what the flash holds, the host's memory and what has been reported. -/
def execDeviceReset (s : State) : Out :=
  .next { State.reset with
    flash := s.flash, hostMem := s.hostMem, reports := s.reports, agenda := s.agenda, tick := s.tick }

/-! ## Words that are no instruction (R345 to R348) -/

/-- Code and DETAIL of a word's or a header's fault. -/
def wordWhy (e : WordFault) : Nat × Nat :=
  match e with
  | .hdr d => (codeHDR, d)
  | .enc d => (codeENC, d)
  | .cls d => (codeCLASS, d)
/-- Whether it is found in a header: then the record has WORD 0 and the word found as INSTR0. -/
def faultInHeader (e : WordFault) : Bool :=
  match e with
  | .hdr d => d != 5
  | _ => false
/-- R344, R345: the fault of the word the executing cohort stands at. -/
def execUndecodableWord (err : WordFault) (s : State) : Out :=
  match s.view with
  | none => .refused .noCohort
  | some v =>
    let org := v.c.origin v.iss.w0 v.iss.w1
    let org := if faultInHeader err then { org with word := 0, w1 := 0 } else org
    .next (s.raise v.g v.c org (wordWhy err).1 (wordWhy err).2 0 0 0 v.c.lanes [])

end Sys2Proof.Machine
end

