-- ==== Sys2Proof/Machine/Dispatch.lean ====
section
/-! DEFINITION. Machine/Dispatch.lean: one arm per constructor of Instr, each a call of its meaning. -/

namespace Sys2Proof.Machine

def exec (i : Instr) (s : State) : Host.Outcome State Fault Refusal :=
  match i with
  | .sAdd f => Sys2Proof.Machine.execSAdd f s
  | .sSub f => Sys2Proof.Machine.execSSub f s
  | .sMul f => Sys2Proof.Machine.execSMul f s
  | .sMulhI f => Sys2Proof.Machine.execSMulhI f s
  | .sMulhN f => Sys2Proof.Machine.execSMulhN f s
  | .sDivI f => Sys2Proof.Machine.execSDivI f s
  | .sDivN f => Sys2Proof.Machine.execSDivN f s
  | .sAnd f => Sys2Proof.Machine.execSAnd f s
  | .sOr f => Sys2Proof.Machine.execSOr f s
  | .sXor f => Sys2Proof.Machine.execSXor f s
  | .sShl f => Sys2Proof.Machine.execSShl f s
  | .sShrN f => Sys2Proof.Machine.execSShrN f s
  | .sShrI f => Sys2Proof.Machine.execSShrI f s
  | .sMinI f => Sys2Proof.Machine.execSMinI f s
  | .sMaxI f => Sys2Proof.Machine.execSMaxI f s
  | .sMinN f => Sys2Proof.Machine.execSMinN f s
  | .sMaxN f => Sys2Proof.Machine.execSMaxN f s
  | .sSeq f => Sys2Proof.Machine.execSSeq f s
  | .sSne f => Sys2Proof.Machine.execSSne f s
  | .sSltI f => Sys2Proof.Machine.execSSltI f s
  | .sSltN f => Sys2Proof.Machine.execSSltN f s
  | .sSleI f => Sys2Proof.Machine.execSSleI f s
  | .sSleN f => Sys2Proof.Machine.execSSleN f s
  | .sClz f => Sys2Proof.Machine.execSClz f s
  | .sPopc f => Sys2Proof.Machine.execSPopc f s
  | .sMov f => Sys2Proof.Machine.execSMov f s
  | .sRdlane f => Sys2Proof.Machine.execSRdlane f s
  | .sSel f => Sys2Proof.Machine.execSSel f s
  | .sAddsh f => Sys2Proof.Machine.execSAddsh f s
  | .sBfx f => Sys2Proof.Machine.execSBfx f s
  | .sAddi f => Sys2Proof.Machine.execSAddi f s
  | .sAndi f => Sys2Proof.Machine.execSAndi f s
  | .sOri f => Sys2Proof.Machine.execSOri f s
  | .sXori f => Sys2Proof.Machine.execSXori f s
  | .sShli f => Sys2Proof.Machine.execSShli f s
  | .sShriN f => Sys2Proof.Machine.execSShriN f s
  | .sShriI f => Sys2Proof.Machine.execSShriI f s
  | .sLi f => Sys2Proof.Machine.execSLi f s
  | .sLih f => Sys2Proof.Machine.execSLih f s
  | .br f => Sys2Proof.Machine.execBr f s
  | .brZ f => Sys2Proof.Machine.execBrZ f s
  | .brNz f => Sys2Proof.Machine.execBrNz f s
  | .brFar f => Sys2Proof.Machine.execBrFar f s
  | .call f => Sys2Proof.Machine.execCall f s
  | .ret f => Sys2Proof.Machine.execRet f s
  | .jmpV f => Sys2Proof.Machine.execJmpV f s
  | .split f => Sys2Proof.Machine.execSplit f s
  | .meet f => Sys2Proof.Machine.execMeet f s
  | .join f => Sys2Proof.Machine.execJoin f s
  | .exit f => Sys2Proof.Machine.execExit f s
  | .mBallot f => Sys2Proof.Machine.execMBallot f s
  | .mAnd f => Sys2Proof.Machine.execMAnd f s
  | .mOr f => Sys2Proof.Machine.execMOr f s
  | .mAndn f => Sys2Proof.Machine.execMAndn f s
  | .mXor f => Sys2Proof.Machine.execMXor f s
  | .mCnt f => Sys2Proof.Machine.execMCnt f s
  | .mFirst f => Sys2Proof.Machine.execMFirst f s
  | .mSet f => Sys2Proof.Machine.execMSet f s
  | .mGet f => Sys2Proof.Machine.execMGet f s
  | .nop f => Sys2Proof.Machine.execNop f s
  | .vAdd f => Sys2Proof.Machine.execVAdd f s
  | .vSub f => Sys2Proof.Machine.execVSub f s
  | .vMul f => Sys2Proof.Machine.execVMul f s
  | .vMulhI f => Sys2Proof.Machine.execVMulhI f s
  | .vAnd f => Sys2Proof.Machine.execVAnd f s
  | .vOr f => Sys2Proof.Machine.execVOr f s
  | .vXor f => Sys2Proof.Machine.execVXor f s
  | .vShl f => Sys2Proof.Machine.execVShl f s
  | .vShrN f => Sys2Proof.Machine.execVShrN f s
  | .vShrI f => Sys2Proof.Machine.execVShrI f s
  | .vMinI f => Sys2Proof.Machine.execVMinI f s
  | .vMaxI f => Sys2Proof.Machine.execVMaxI f s
  | .vMinN f => Sys2Proof.Machine.execVMinN f s
  | .vMaxN f => Sys2Proof.Machine.execVMaxN f s
  | .vAddsI f => Sys2Proof.Machine.execVAddsI f s
  | .vClz f => Sys2Proof.Machine.execVClz f s
  | .vPopc f => Sys2Proof.Machine.execVPopc f s
  | .vMad f => Sys2Proof.Machine.execVMad f s
  | .vAddsh f => Sys2Proof.Machine.execVAddsh f s
  | .vCmpEq f => Sys2Proof.Machine.execVCmpEq f s
  | .vCmpNe f => Sys2Proof.Machine.execVCmpNe f s
  | .vCmpLtI f => Sys2Proof.Machine.execVCmpLtI f s
  | .vCmpLeI f => Sys2Proof.Machine.execVCmpLeI f s
  | .vCmpLtN f => Sys2Proof.Machine.execVCmpLtN f s
  | .vCmpLeN f => Sys2Proof.Machine.execVCmpLeN f s
  | .vFcmpEq f => Sys2Proof.Machine.execVFcmpEq f s
  | .vFcmpLt f => Sys2Proof.Machine.execVFcmpLt f s
  | .vFcmpLe f => Sys2Proof.Machine.execVFcmpLe f s
  | .vSel f => Sys2Proof.Machine.execVSel f s
  | .vMovi f => Sys2Proof.Machine.execVMovi f s
  | .vLi f => Sys2Proof.Machine.execVLi f s
  | .vMov f => Sys2Proof.Machine.execVMov f s
  | .vIota f => Sys2Proof.Machine.execVIota f s
  | .vBcast f => Sys2Proof.Machine.execVBcast f s
  | .vShuf f => Sys2Proof.Machine.execVShuf f s
  | .vRot f => Sys2Proof.Machine.execVRot f s
  | .vWrlane f => Sys2Proof.Machine.execVWrlane f s
  | .vTagof f => Sys2Proof.Machine.execVTagof f s
  | .vGeneral f => Sys2Proof.Machine.execVGeneral f s
  | .vFadd f => Sys2Proof.Machine.execVFadd f s
  | .vFsub f => Sys2Proof.Machine.execVFsub f s
  | .vFmul f => Sys2Proof.Machine.execVFmul f s
  | .vFma f => Sys2Proof.Machine.execVFma f s
  | .vFma4 f => Sys2Proof.Machine.execVFma4 f s
  | .vFmin f => Sys2Proof.Machine.execVFmin f s
  | .vFmax f => Sys2Proof.Machine.execVFmax f s
  | .vFdiv f => Sys2Proof.Machine.execVFdiv f s
  | .vFrcp f => Sys2Proof.Machine.execVFrcp f s
  | .vFrsq f => Sys2Proof.Machine.execVFrsq f s
  | .vFsqrt f => Sys2Proof.Machine.execVFsqrt f s
  | .vFexp2 f => Sys2Proof.Machine.execVFexp2 f s
  | .vFlog2 f => Sys2Proof.Machine.execVFlog2 f s
  | .vFclamp f => Sys2Proof.Machine.execVFclamp f s
  | .vHadd f => Sys2Proof.Machine.execVHadd f s
  | .vHmul f => Sys2Proof.Machine.execVHmul f s
  | .vHfma f => Sys2Proof.Machine.execVHfma f s
  | .vCvt f => Sys2Proof.Machine.execVCvt f s
  | .vCvtSr f => Sys2Proof.Machine.execVCvtSr f s
  | .vPack f => Sys2Proof.Machine.execVPack f s
  | .vUnpack f => Sys2Proof.Machine.execVUnpack f s
  | .vRnd f => Sys2Proof.Machine.execVRnd f s
  | .vRsum f => Sys2Proof.Machine.execVRsum f s
  | .vRmax f => Sys2Proof.Machine.execVRmax f s
  | .vRmin f => Sys2Proof.Machine.execVRmin f s
  | .vScan f => Sys2Proof.Machine.execVScan f s
  | .vWmax f => Sys2Proof.Machine.execVWmax f s
  | .vWmin f => Sys2Proof.Machine.execVWmin f s
  | .vWmed f => Sys2Proof.Machine.execVWmed f s
  | .vWsat f => Sys2Proof.Machine.execVWsat f s
  | .vWclamp f => Sys2Proof.Machine.execVWclamp f s
  | .vAdj f => Sys2Proof.Machine.execVAdj f s
  | .ldN8Ms f => Sys2Proof.Machine.execLdN8Ms f s
  | .ldN8Ml f => Sys2Proof.Machine.execLdN8Ml f s
  | .ldI8Ms f => Sys2Proof.Machine.execLdI8Ms f s
  | .ldI8Ml f => Sys2Proof.Machine.execLdI8Ml f s
  | .ldN16Ms f => Sys2Proof.Machine.execLdN16Ms f s
  | .ldN16Ml f => Sys2Proof.Machine.execLdN16Ml f s
  | .ldI16Ms f => Sys2Proof.Machine.execLdI16Ms f s
  | .ldI16Ml f => Sys2Proof.Machine.execLdI16Ml f s
  | .ldB32Ms f => Sys2Proof.Machine.execLdB32Ms f s
  | .ldB32Ml f => Sys2Proof.Machine.execLdB32Ml f s
  | .ldB64Ms f => Sys2Proof.Machine.execLdB64Ms f s
  | .ldB64Ml f => Sys2Proof.Machine.execLdB64Ml f s
  | .ldB128Ms f => Sys2Proof.Machine.execLdB128Ms f s
  | .ldB128Ml f => Sys2Proof.Machine.execLdB128Ml f s
  | .stB8Ms f => Sys2Proof.Machine.execStB8Ms f s
  | .stB8Ml f => Sys2Proof.Machine.execStB8Ml f s
  | .stB16Ms f => Sys2Proof.Machine.execStB16Ms f s
  | .stB16Ml f => Sys2Proof.Machine.execStB16Ml f s
  | .stB32Ms f => Sys2Proof.Machine.execStB32Ms f s
  | .stB32Ml f => Sys2Proof.Machine.execStB32Ml f s
  | .stB64Ms f => Sys2Proof.Machine.execStB64Ms f s
  | .stB64Ml f => Sys2Proof.Machine.execStB64Ml f s
  | .stB128Ms f => Sys2Proof.Machine.execStB128Ms f s
  | .stB128Ml f => Sys2Proof.Machine.execStB128Ml f s
  | .ldAcqB32Ms f => Sys2Proof.Machine.execLdAcqB32Ms f s
  | .ldAcqB64Ms f => Sys2Proof.Machine.execLdAcqB64Ms f s
  | .stRelB32Ms f => Sys2Proof.Machine.execStRelB32Ms f s
  | .stRelB64Ms f => Sys2Proof.Machine.execStRelB64Ms f s
  | .atAddB32Ms f => Sys2Proof.Machine.execAtAddB32Ms f s
  | .atAddB64Ms f => Sys2Proof.Machine.execAtAddB64Ms f s
  | .atMinI32Ms f => Sys2Proof.Machine.execAtMinI32Ms f s
  | .atMaxI32Ms f => Sys2Proof.Machine.execAtMaxI32Ms f s
  | .atMinN32Ms f => Sys2Proof.Machine.execAtMinN32Ms f s
  | .atMaxN32Ms f => Sys2Proof.Machine.execAtMaxN32Ms f s
  | .atAndB32Ms f => Sys2Proof.Machine.execAtAndB32Ms f s
  | .atOrB32Ms f => Sys2Proof.Machine.execAtOrB32Ms f s
  | .atXorB32Ms f => Sys2Proof.Machine.execAtXorB32Ms f s
  | .atXchgB32Ms f => Sys2Proof.Machine.execAtXchgB32Ms f s
  | .atXchgB64Ms f => Sys2Proof.Machine.execAtXchgB64Ms f s
  | .atFaddF32Ms f => Sys2Proof.Machine.execAtFaddF32Ms f s
  | .redAddB32Ms f => Sys2Proof.Machine.execRedAddB32Ms f s
  | .redAddB64Ms f => Sys2Proof.Machine.execRedAddB64Ms f s
  | .redFaddF32Ms f => Sys2Proof.Machine.execRedFaddF32Ms f s
  | .redHaddBf16x2Ms f => Sys2Proof.Machine.execRedHaddBf16x2Ms f s
  | .redFmaxF32Ms f => Sys2Proof.Machine.execRedFmaxF32Ms f s
  | .redFminF32Ms f => Sys2Proof.Machine.execRedFminF32Ms f s
  | .redMaxI32Ms f => Sys2Proof.Machine.execRedMaxI32Ms f s
  | .redFlush f => Sys2Proof.Machine.execRedFlush f s
  | .fenceRel f => Sys2Proof.Machine.execFenceRel f s
  | .fenceAcq f => Sys2Proof.Machine.execFenceAcq f s
  | .fenceXt f => Sys2Proof.Machine.execFenceXt f s
  | .pfMs f => Sys2Proof.Machine.execPfMs f s
  | .discard f => Sys2Proof.Machine.execDiscard f s
  | .fill f => Sys2Proof.Machine.execFill f s
  | .wStMs f => Sys2Proof.Machine.execWStMs f s
  | .wLdMs f => Sys2Proof.Machine.execWLdMs f s
  | .fifoPushMs f => Sys2Proof.Machine.execFifoPushMs f s
  | .fifoPopMs f => Sys2Proof.Machine.execFifoPopMs f s
  | .cstSet f => Sys2Proof.Machine.execCstSet f s
  | .cstClr f => Sys2Proof.Machine.execCstClr f s
  | .mma f => Sys2Proof.Machine.execMma f s
  | .mmaQ f => Sys2Proof.Machine.execMmaQ f s
  | .mmaMx f => Sys2Proof.Machine.execMmaMx f s
  | .accZero f => Sys2Proof.Machine.execAccZero f s
  | .accRead f => Sys2Proof.Machine.execAccRead f s
  | .accWrite f => Sys2Proof.Machine.execAccWrite f s
  | .accExp f => Sys2Proof.Machine.execAccExp f s
  | .pLd f => Sys2Proof.Machine.execPLd f s
  | .pZero f => Sys2Proof.Machine.execPZero f s
  | .rowOpen f => Sys2Proof.Machine.execRowOpen f s
  | .rowTake f => Sys2Proof.Machine.execRowTake f s
  | .rowShut f => Sys2Proof.Machine.execRowShut f s
  | .cp f => Sys2Proof.Machine.execCp f s
  | .cpCvt f => Sys2Proof.Machine.execCpCvt f s
  | .cpQ f => Sys2Proof.Machine.execCpQ f s
  | .cpRow f => Sys2Proof.Machine.execCpRow f s
  | .cpDup f => Sys2Proof.Machine.execCpDup f s
  | .collAr f => Sys2Proof.Machine.execCollAr f s
  | .collRs f => Sys2Proof.Machine.execCollRs f s
  | .collAg f => Sys2Proof.Machine.execCollAg f s
  | .collSend f => Sys2Proof.Machine.execCollSend f s
  | .collRecv f => Sys2Proof.Machine.execCollRecv f s
  | .collNorm f => Sys2Proof.Machine.execCollNorm f s
  | .bucketArm f => Sys2Proof.Machine.execBucketArm f s
  | .hTest f => Sys2Proof.Machine.execHTest f s
  | .hGet f => Sys2Proof.Machine.execHGet f s
  | .hWait f => Sys2Proof.Machine.execHWait f s
  | .hCancel f => Sys2Proof.Machine.execHCancel f s
  | .hBind f => Sys2Proof.Machine.execHBind f s
  | .launch f => Sys2Proof.Machine.execLaunch f s
  | .rdvInit f => Sys2Proof.Machine.execRdvInit f s
  | .rdvArrive f => Sys2Proof.Machine.execRdvArrive f s
  | .rdvWait f => Sys2Proof.Machine.execRdvWait f s
  | .rdvSync f => Sys2Proof.Machine.execRdvSync f s
  | .gbarArrive f => Sys2Proof.Machine.execGbarArrive f s
  | .gbarWait f => Sys2Proof.Machine.execGbarWait f s
  | .watch f => Sys2Proof.Machine.execWatch f s
  | .sleep f => Sys2Proof.Machine.execSleep f s
  | .recruit f => Sys2Proof.Machine.execRecruit f s
  | .hnext f => Sys2Proof.Machine.execHnext f s
  | .hdone f => Sys2Proof.Machine.execHdone f s
  | .hjoin f => Sys2Proof.Machine.execHjoin f s
  | .hsumF32 f => Sys2Proof.Machine.execHsumF32 f s
  | .hsumI32 f => Sys2Proof.Machine.execHsumI32 f s
  | .yield f => Sys2Proof.Machine.execYield f s
  | .srRd f => Sys2Proof.Machine.execSrRd f s
  | .srWr f => Sys2Proof.Machine.execSrWr f s
  | .trap f => Sys2Proof.Machine.execTrap f s
  | .brk f => Sys2Proof.Machine.execBrk f s
  | .cacheWb f => Sys2Proof.Machine.execCacheWb f s
  | .cacheInv f => Sys2Proof.Machine.execCacheInv f s
  | .bankMode f => Sys2Proof.Machine.execBankMode f s
  | .evtPost f => Sys2Proof.Machine.execEvtPost f s
  | .ldAcqB32Ml f => Sys2Proof.Machine.execLdAcqB32Ml f s
  | .ldAcqB64Ml f => Sys2Proof.Machine.execLdAcqB64Ml f s
  | .stRelB32Ml f => Sys2Proof.Machine.execStRelB32Ml f s
  | .stRelB64Ml f => Sys2Proof.Machine.execStRelB64Ml f s
  | .atAddB32Ml f => Sys2Proof.Machine.execAtAddB32Ml f s
  | .atAddB64Ml f => Sys2Proof.Machine.execAtAddB64Ml f s
  | .atMinI32Ml f => Sys2Proof.Machine.execAtMinI32Ml f s
  | .atMaxI32Ml f => Sys2Proof.Machine.execAtMaxI32Ml f s
  | .atMinN32Ml f => Sys2Proof.Machine.execAtMinN32Ml f s
  | .atMaxN32Ml f => Sys2Proof.Machine.execAtMaxN32Ml f s
  | .atAndB32Ml f => Sys2Proof.Machine.execAtAndB32Ml f s
  | .atOrB32Ml f => Sys2Proof.Machine.execAtOrB32Ml f s
  | .atXorB32Ml f => Sys2Proof.Machine.execAtXorB32Ml f s
  | .atXchgB32Ml f => Sys2Proof.Machine.execAtXchgB32Ml f s
  | .atXchgB64Ml f => Sys2Proof.Machine.execAtXchgB64Ml f s
  | .atCasB32 f => Sys2Proof.Machine.execAtCasB32 f s
  | .atCasB64 f => Sys2Proof.Machine.execAtCasB64 f s
  | .atFaddF32Ml f => Sys2Proof.Machine.execAtFaddF32Ml f s
  | .redAddB32Ml f => Sys2Proof.Machine.execRedAddB32Ml f s
  | .redAddB64Ml f => Sys2Proof.Machine.execRedAddB64Ml f s
  | .redFaddF32Ml f => Sys2Proof.Machine.execRedFaddF32Ml f s
  | .redHaddBf16x2Ml f => Sys2Proof.Machine.execRedHaddBf16x2Ml f s
  | .redFmaxF32Ml f => Sys2Proof.Machine.execRedFmaxF32Ml f s
  | .redFminF32Ml f => Sys2Proof.Machine.execRedFminF32Ml f s
  | .redMaxI32Ml f => Sys2Proof.Machine.execRedMaxI32Ml f s
  | .redXadd f => Sys2Proof.Machine.execRedXadd f s
  | .pfMl f => Sys2Proof.Machine.execPfMl f s
  | .wStMl f => Sys2Proof.Machine.execWStMl f s
  | .wLdMl f => Sys2Proof.Machine.execWLdMl f s
  | .fifoPushMl f => Sys2Proof.Machine.execFifoPushMl f s
  | .fifoPopMl f => Sys2Proof.Machine.execFifoPopMl f s
  | .pantryReadReturn op => Sys2Proof.Machine.execPantryReadReturn op s
  | .ringDoorbell part q tail => Sys2Proof.Machine.execRingDoorbell part q tail s
  | .controlRegisterWrite part off v => Sys2Proof.Machine.execControlRegisterWrite part off v s
  | .hostRingRead part q => Sys2Proof.Machine.execHostRingRead part q s
  | .recordEligible part q => Sys2Proof.Machine.execRecordEligible part q s
  | .dependentRecordDrop part q => Sys2Proof.Machine.execDependentRecordDrop part q s
  | .teamPlacement part => Sys2Proof.Machine.execTeamPlacement part s
  | .preemption t => Sys2Proof.Machine.execPreemption t s
  | .teamResume t => Sys2Proof.Machine.execTeamResume t s
  | .saveReserveTimeout part => Sys2Proof.Machine.execSaveReserveTimeout part s
  | .gridCompletion g => Sys2Proof.Machine.execGridCompletion g s
  | .loaderLoad asid items => Sys2Proof.Machine.execLoaderLoad asid items s
  | .loaderSubmit asid prio rec => Sys2Proof.Machine.execLoaderSubmit asid prio rec s
  | .activeSetEntry g => Sys2Proof.Machine.execActiveSetEntry g s
  | .activePlaceTimeout g => Sys2Proof.Machine.execActivePlaceTimeout g s
  | .joinRelease g meet depth => Sys2Proof.Machine.execJoinRelease g meet depth s
  | .forcedRelease g meet depth => Sys2Proof.Machine.execForcedRelease g meet depth s
  | .hjoinComplete g rec => Sys2Proof.Machine.execHjoinComplete g rec s
  | .jointOperationStart g => Sys2Proof.Machine.execJointOperationStart g s
  | .jointOperationComplete core run => Sys2Proof.Machine.execJointOperationComplete core run s
  | .loadReturn op => Sys2Proof.Machine.execLoadReturn op s
  | .accessAtHome op part => Sys2Proof.Machine.execAccessAtHome op part s
  | .storeAck op => Sys2Proof.Machine.execStoreAck op s
  | .atomicReturn op => Sys2Proof.Machine.execAtomicReturn op s
  | .reservation asid => Sys2Proof.Machine.execReservation asid s
  | .settlement asid block => Sys2Proof.Machine.execSettlement asid block s
  | .recall op part => Sys2Proof.Machine.execRecall op part s
  | .monitorArmed g => Sys2Proof.Machine.execMonitorArmed g s
  | .sleepTimeout g cid => Sys2Proof.Machine.execSleepTimeout g cid s
  | .reductionDrain op part => Sys2Proof.Machine.execReductionDrain op part s
  | .rdvPhaseRelease t n => Sys2Proof.Machine.execRdvPhaseRelease t n s
  | .gbarPhaseComplete g n => Sys2Proof.Machine.execGbarPhaseComplete g n s
  | .fifoResume g cid => Sys2Proof.Machine.execFifoResume g cid s
  | .bankModeSwitch pair bank => Sys2Proof.Machine.execBankModeSwitch pair bank s
  | .tenderChunkCommit eng => Sys2Proof.Machine.execTenderChunkCommit eng s
  | .engineOperationComplete eng => Sys2Proof.Machine.execEngineOperationComplete eng s
  | .flitReceive port flit => Sys2Proof.Machine.execFlitReceive port flit s
  | .engineStallRecovery eng => Sys2Proof.Machine.execEngineStallRecovery eng s
  | .engineFailure eng => Sys2Proof.Machine.execEngineFailure eng s
  | .pLdComplete op => Sys2Proof.Machine.execPLdComplete op s
  | .rowActivate core entry => Sys2Proof.Machine.execRowActivate core entry s
  | .rowOpenComplete core entry => Sys2Proof.Machine.execRowOpenComplete core entry s
  | .rowTakeComplete core take => Sys2Proof.Machine.execRowTakeComplete core take s
  | .prechargeStart vault bank => Sys2Proof.Machine.execPrechargeStart vault bank s
  | .bankIdle vault bank => Sys2Proof.Machine.execBankIdle vault bank s
  | .rowMaxOpenExpiry core entry => Sys2Proof.Machine.execRowMaxOpenExpiry core entry s
  | .refreshSlotStart vault bank => Sys2Proof.Machine.execRefreshSlotStart vault bank s
  | .refreshSlotEnd vault bank => Sys2Proof.Machine.execRefreshSlotEnd vault bank s
  | .retrainAnnounce vault ahead len => Sys2Proof.Machine.execRetrainAnnounce vault ahead len s
  | .retrainWindowStart vault => Sys2Proof.Machine.execRetrainWindowStart vault s
  | .retrainWindowEnd vault => Sys2Proof.Machine.execRetrainWindowEnd vault s
  | .faultRecordWrite g => Sys2Proof.Machine.execFaultRecordWrite g s
  | .faultQueueRoom asid => Sys2Proof.Machine.execFaultQueueRoom asid s
  | .spillAreaAppend asid => Sys2Proof.Machine.execSpillAreaAppend asid s
  | .resume asid rec => Sys2Proof.Machine.execResume asid rec s
  | .resumeAt asid rec => Sys2Proof.Machine.execResumeAt asid rec s
  | .killTeam asid rec => Sys2Proof.Machine.execKillTeam asid rec s
  | .relaunchTeam asid rec => Sys2Proof.Machine.execRelaunchTeam asid rec s
  | .backingRegionRecovery asid rec => Sys2Proof.Machine.execBackingRegionRecovery asid rec s
  | .capacityRecovery asid rec => Sys2Proof.Machine.execCapacityRecovery asid rec s
  | .balloonWaitExpiry asid rec => Sys2Proof.Machine.execBalloonWaitExpiry asid rec s
  | .topUp asid => Sys2Proof.Machine.execTopUp asid s
  | .eventAppend asid q => Sys2Proof.Machine.execEventAppend asid q s
  | .powerOnBoot img => Sys2Proof.Machine.execPowerOnBoot img s
  | .startStageAdvance coldest => Sys2Proof.Machine.execStartStageAdvance coldest s
  | .clockGovernorStep tile up => Sys2Proof.Machine.execClockGovernorStep tile up s
  | .getMeasurements => Sys2Proof.Machine.execGetMeasurements s
  | .spdmSecureSession => Sys2Proof.Machine.execSpdmSecureSession s
  | .contextCreate req => Sys2Proof.Machine.execContextCreate req s
  | .protectedContextCreate req => Sys2Proof.Machine.execProtectedContextCreate req s
  | .contextTeardown asid => Sys2Proof.Machine.execContextTeardown asid s
  | .scrubSector part => Sys2Proof.Machine.execScrubSector part s
  | .rankSetWrite part idx entry => Sys2Proof.Machine.execRankSetWrite part idx entry s
  | .descriptorChange asid level pre desc => Sys2Proof.Machine.execDescriptorChange asid level pre desc s
  | .pageMap asid va desc => Sys2Proof.Machine.execPageMap asid va desc s
  | .synonymRegister part syn => Sys2Proof.Machine.execSynonymRegister part syn s
  | .scrubberPass vault bank errs => Sys2Proof.Machine.execScrubberPass vault bank errs s
  | .eccUpgrade vault bank => Sys2Proof.Machine.execEccUpgrade vault bank s
  | .stage1Timeout => Sys2Proof.Machine.execStage1Timeout s
  | .vaultTrainingFailure vault => Sys2Proof.Machine.execVaultTrainingFailure vault s
  | .bootRetry => Sys2Proof.Machine.execBootRetry s
  | .timingEdgeMiss tile => Sys2Proof.Machine.execTimingEdgeMiss tile s
  | .retrainingFailure vault => Sys2Proof.Machine.execRetrainingFailure vault s
  | .overtemperature deg => Sys2Proof.Machine.execOvertemperature deg s
  | .portRetrainFailure port => Sys2Proof.Machine.execPortRetrainFailure port s
  | .undecodableWord err => Sys2Proof.Machine.execUndecodableWord err s
  | .deviceReset => Sys2Proof.Machine.execDeviceReset s
  | .deviceInterfaceLock vf => Sys2Proof.Machine.execDeviceInterfaceLock vf s
  | .ownerKeyEnrolment digest => Sys2Proof.Machine.execOwnerKeyEnrolment digest s
  | .ilurosLinkRetraining port regained => Sys2Proof.Machine.execIlurosLinkRetraining port regained s

end Sys2Proof.Machine
end

