-- ==== Sys2Proof/Machine/Upset.lean ====
section
/-! DEFINITION. Machine/Upset.lean: what an upset does: a place comes to hold an uncorrectable error (21_faults_containment
R385, R386), a shadow issue or a mirrored operation will disagree (R391, R392), a clock is stretched (17_system R322), an error is
corrected (R393). -/

namespace Sys2Proof.Machine

/-- A register file's register that now holds an uncorrectable error. -/
def Group.damage (g : Group) (file : RegFile) (n : Nat) : Group :=
  match file with
  | .v => g.putVreg n { g.vreg n with bad := true }
  | .s => g.putSreg n { g.sreg n with bad := true }
  | .m => g.putMreg n { g.mreg n with bad := true }
  | .h => g.putHandle n { g.handle n with bad := true }
  | .w => g.putWitness n { g.witness n with bad := true }
  | .c => g.putTile n { g.tile n with bad := true }
/-- R386: blocks poisoned because what describes them is damaged. -/
def Context.poisonAll (c : Context) (l : List Nat) : Context :=
  l.foldl (fun c b => c.setEntry b { c.entry b with poison := true }) c
/-- Whether a block's data lies in DRAM: in a run, or in a row page. -/
def Context.inDram (c : Context) (block : Nat) : Bool :=
  codeSize (c.entry block).code != 0 || ((c.page? (block * lineBytes)).map fun p => descRow p.desc).getD false
/-- The sectors that an error beneath sector `i` of a block spoils: the line's own where the block's words stand as they are, every one
where its run must be decoded (log entry 17). -/
def Context.spoilt (c : Context) (block i : Nat) : List Nat :=
  let code := (c.entry block).code
  if code == 2 || code == 3 || code == 4 then (List.range 8).map fun k => 8 * block + k else [8 * block + i]
/-- An error in DRAM beneath a sector, numbered by its address in its context; it stands in every block that shares the run. -/
def State.strikeDram (s : State) (asid sector : Nat) : State :=
  match s.ctx? asid with
  | none => s
  | some c =>
    let block := sector / 8
    let e := c.entry block
    let home := s.home asid (block * lineBytes)
    if !c.inDram block then s
    else
      s.ctxs.foldl (fun s x =>
        let shared := if !e.shared then [] else
          (x.entries.filter fun y => y.2.shared && y.2.sidx == e.sidx && s.home x.asid (y.1 * lineBytes) == home).map (·.1)
        let hit := if x.asid == asid && !shared.contains block then block :: shared else shared
        if hit.isEmpty then s
        else s.putCtx { x with dramBad := x.dramBad ++ hit.flatMap fun b => x.spoilt b (sector % 8) }) s
/-- The state after an upset. -/
def State.strike (s : State) (u : Upset) : State :=
  match u with
  | .reg g file n =>
    match s.resident? g with
    | none => s
    | some g => s.putGroup (g.damage file n)
  | .platform t core n =>
    match s.team? t with
    | none => s
    | some t => s.putTeam { t with plats := t.plats.map fun p => if p.core == core && p.n == n then { p with bad := true } else p }
  | .scratch pair bank off =>
    let p := s.pair pair
    let b := p.bank bank
    if b.mode == .way || bankBytes ≤ off || numPairs ≤ pair || 32 ≤ bank then s
    else s.putPair pair (p.putBank bank { b with bad := b.bad ++ [off] })
  | .dram asid sector => s.strikeDram asid sector
  | .l2 asid block =>
    match s.ctx? asid with
    | none => s
    | some c => if ((s.vault (s.home asid (block * lineBytes))).line? asid block).isSome then
        s.putCtx { c with l2Bad := c.l2Bad ++ [block] } else s
  | .l1 pair asid sector => s.dropL1 pair asid (sector * 64)
  | .share vault sidx =>
    s.ctxs.foldl (fun s c => s.putCtx (c.poisonAll ((c.entries.filter fun e =>
      e.2.shared && e.2.sidx == sidx && s.home c.asid (e.1 * lineBytes) == vault).map (·.1)))) s
  | .table asid first count =>
    match s.ctx? asid with
    | none => s
    | some c => s.putCtx (c.poisonAll ((List.range count).map fun i => first + i))
  | .shadow gid cid =>
    match s.resident? gid with
    | none => s
    | some g =>
      match g.cohort? cid with
      | none => s
      | some c => s.putGroup (g.putCohort { c with flaw := true })
  | .stretch core lost =>
    if numCores ≤ core then s
    else
      let x := (assoc core s.stretched).getD (0, 0)
      { s with stretched := assocSet core (x.1 + lost, x.2) s.stretched }
  | .corrected vault bank => s.scrubber vault bank 1
  | .mirror core => if core < numCores then s.putCore core { s.core core with mirror := true } else s

end Sys2Proof.Machine
end

