-- ==== Sys2Proof/Machine/Fetch.lean ====
section
/-! DEFINITION. Machine/Fetch.lean: from a move to the instruction it performs: which cohort may issue (13_scheduling R299,
R304; 18_faults R326), fetching a word through the pair's L1 (05_memory R407; 20_faults_memory R367), taking a clause header
(03_encoding R70, R71; 19_faults_isa R345), decoding the word (R343 steps 1 to 3). -/

namespace Sys2Proof.Machine

/-! ## Fetching a word (R367, R407) -/

/-- Code and DETAIL of the fault that fetching a word raises. -/
def State.fetchFault (s : State) (g : Group) (va : Nat) : Option (Nat × Nat) :=
  let t := s.canon g.asid va
  match s.ctx? t.1 with
  | none => some (codeXLATE, 1)
  | some c =>
    match c.walk t.2.1 with
    | .error e => some e
    | .ok p => if descX p.desc then none else some (codePROT, 3)
/-- A sector of the pair's L1 that a fetch hits: filled since the grid's launch (R407). -/
def State.codeHit (s : State) (g : Group) (va : Nat) : Option L1Sector :=
  match (s.pair (pairOf g.core)).sector? g.asid va with
  | none => none
  | some x => if !s.mustBypass g.id g.asid va && ((s.grid? g.id.team.grid).map (·.tick)).getD 0 ≤ x.tick then some x else none
/-- The uncorrectable error that a fetch from memory consumes (R385). -/
def State.fetchError (s : State) (g : Group) (va : Nat) : Option Nat :=
  let t := s.canon g.asid va
  s.errorAt t.1 t.2.1 4 true
/-- The sector of a fetched word brought into the pair's L1, unless a write of the pair is on its way to it. -/
def State.fetchFill (s : State) (g : Group) (va : Nat) : State :=
  let k := pairOf g.core
  let t := s.canon g.asid va
  if s.mustBypass g.id g.asid va || s.pairWrite k g.asid va then s
  else
    let x : L1Sector := ⟨va / 64 % 8, s.epoch g, s.tick, s.load t.1 (t.2.1 / 64 * 64) 64⟩
    s.putPair k ((s.pair k).install g.asid va x false)
/-- What a fetch answers that the vault does not let in yet (R128 to R130): no fault, the cohort waits. -/
def fetchWaits : Nat × Nat := (0, 0)
/-- The word at an address as a cohort of a group fetches it, or why it cannot. -/
def State.fetchWord (s : State) (g : Group) (cid va : Nat) : State × Except (Nat × Nat) W32 :=
  match s.fetchFault g va with
  | some e => (s, .error e)
  | none =>
    match s.codeHit g va with
    | some x =>
      let k := pairOf g.core
      (s.putPair k ((s.pair k).touch g.asid (va / lineBytes)), .ok (BitVec.ofNat 32 (x.data / 256 ^ (va % 64))))
    | none =>
      let t := s.canon g.asid va
      let r := s.reach t.1 t.2.1 4 false (accessId g.id cid false)
      if !r.2 then (r.1, .error fetchWaits)
      else
        match s.fetchError g va with
        | some d => (s.poisonBlock t.1 (t.2.1 / lineBytes) d, .error (codeUE, d))
        | none => (r.1.fetchFill g va, .ok (BitVec.ofNat 32 (s.load t.1 t.2.1 4)))

/-- What a move comes to: nothing more to do in this step, or an instruction for `exec`. -/
inductive Fetched where
  | done (s : State)
  | run (i : Instr) (s : State)
  deriving DecidableEq, Repr

/-- The fault of a fetch (R367): an access of the cohort that reaches the place; a fetch that waits is none. -/
def State.fetchStop (s : State) (gid : GroupId) (cid word va : Nat) (e : Nat × Nat) : Fetched :=
  match if e == fetchWaits then none else s.group? gid with
  | none => .done s
  | some g =>
    match g.cohort? cid with
    | none => .done s
    | some c =>
      let org : Origin := { c.origin 0 0 with word := word }
      .done (s.raise g c org e.1 e.2 va 0 0 c.lanes [])
/-- R300: the state in which a group has, or has not, given way in its active set. -/
def State.giveWay (s : State) (gid : GroupId) (b : Bool) : State :=
  match s.group? gid with
  | none => s
  | some g => if g.yielded == b then s else s.putGroup { g with yielded := b }
/-- The state in which a cohort executes the instruction of these words; no bank holds its fetch any more. -/
def State.executing (s : State) (gid : GroupId) (cid : Nat) (w0 w1 : W32) : State :=
  { (s.unheld (accessId gid cid false)).giveWay gid false with cur := some ⟨gid, cid, w0, w1⟩ }

/-! ## Clause headers (R70, R71, R338, R345) -/

/-- The handles a header names. -/
def named (h : Header) : List Nat := (List.range 16).filter fun i => h.hwait.getLsbD i
/-- HWAIT (R71): none while a named handle is pending; otherwise the fault of the reading of a damaged or an errored handle
(R338, R385), if any, as code, DETAIL and VA. -/
def Group.hwait (g : Group) (h : Header) : Option (Option (Nat × Nat × Nat)) :=
  let l := (named h).map g.handle
  if l.any fun x => x.st == .pending then none
  else if l.any (·.bad) then some (some (codeUE, 4, 0))
  else some ((l.find? fun x => x.st == .errored).map fun x => (codeHANDLE, x.code, x.pfx))
/-- The cohort inside the clause of a header it has taken. -/
def Cohort.enter (c : Cohort) (h : Header) : Cohort := { c with entered := true, count := h.count, cls := h.cls, yld := h.yld }
/-- A header taken: HWAIT satisfied, each handle found full an acquire on all tracks. -/
def State.enterClause (s : State) (g : Group) (c : Cohort) (w : W32) (h : Header) : State :=
  match g.hwait h with
  | none => s.giveWay g.id true
  | some (some (code, detail, va)) =>
    let org : Origin := { c.origin w 0 with word := 0 }
    s.raise g c org code detail va 0 0 c.lanes []
  | some none =>
    let s := s.putGroup (g.putCohort (c.enter h))
    if ((named h).map g.handle).any fun x => x.st == .full then s.acquireAll (g.putCohort (c.enter h)) else s
/-- A cohort at a header position: its header is fetched, checked and taken. -/
noncomputable def State.takeHeader (s : State) (g : Group) (c : Cohort) : Fetched :=
  match s.fetchWord g c.cid c.clause with
  | (s, .error e) => s.fetchStop g.id c.cid 0 c.clause e
  | (s, .ok w) =>
    match decodeHeader w with
    | .error e => .run (.undecodableWord e) (s.executing g.id c.cid w 0)
    | .ok h =>
      match s.group? g.id with
      | none => .done s
      | some g => .done ((s.unheld (accessId g.id c.cid false)).enterClause g c w h)

/-! ## Instruction words (R71, R343 steps 2 and 3) -/

/-- The address of a word of the cohort's clause. -/
def Cohort.wordVa (c : Cohort) (n : Nat) : Nat := (c.clause + 4 * n) % 2 ^ 56
/-- Words taken as an instruction of the cohort's class. -/
noncomputable def State.decoded (s : State) (gid : GroupId) (c : Cohort) (w0 : W32) (w1 : Option W32) : Fetched :=
  let s := s.executing gid c.cid w0 (w1.getD 0)
  match decode c.cls w0 w1 with
  | .error e => .run (.undecodableWord e) s
  | .ok i => .run i s
/-- A cohort inside a clause: its next instruction is fetched, its second word only where that lies within COUNT. -/
noncomputable def State.fetchInstr (s : State) (g : Group) (c : Cohort) : Fetched :=
  match s.fetchWord g c.cid (c.wordVa c.word) with
  | (s, .error e) => s.fetchStop g.id c.cid c.word (c.wordVa c.word) e
  | (s, .ok w0) =>
    if twoWords c.cls (opOf w0) && decide (c.word + 1 ≤ c.count) then
      match s.fetchWord g c.cid (c.wordVa (c.word + 1)) with
      | (s, .error e) => s.fetchStop g.id c.cid (c.word + 1) (c.wordVa (c.word + 1)) e
      | (s, .ok w1) => s.decoded g.id c w0 (some w1)
    else s.decoded g.id c w0 none

/-! ## Which cohort may issue -/

/-- Whether a cohort waits in the rendezvous latch (R47). -/
def Prog.latched (p : Prog) : Bool := p == .latch
/-- The recruitment of a hosted helper's cohort. -/
def Cohort.hostedIn (c : Cohort) : Option Nat := c.helper.bind fun h => if h.k = 0 then none else some h.recr
/-- R342: whether faults of hosted helpers of one recruitment alone have parked a group; a helper that has executed `hdone` since counts
as one of it. -/
def State.helperFaults (s : State) (g : Group) (recr : Nat) : Bool :=
  let of := fun (cid : Nat) => ((g.cohort? cid).bind Cohort.hostedIn) == some recr
  (g.cohorts.all fun c => !c.stopped || of c.cid) &&
    s.ops.all fun o => o.gid != g.id || !(o.parts.any fun p => p.st.isNack) || of o.cid || (o.org.hv && (g.cohort? o.cid).isNone)
/-- Whether an access of a cohort is refused, or waits to be performed again (R373, R396). -/
def State.refused (s : State) (g : Group) (c : Cohort) : Bool :=
  s.ops.any fun o => o.gid == g.id && o.cid == c.cid && o.parts.any fun p => p.st.isNack || (p.replay && p.st.isOpen)
/-- What of a parked group goes on: an instruction already issued (R326), and the other helpers of a recruitment whose helpers'
faults have parked it (R342, R396; log entry 133). -/
def State.goesOn (s : State) (g : Group) (c : Cohort) : Bool :=
  c.prog != .none || (((c.hostedIn).map (s.helperFaults g)).getD false && !s.refused g c)
/-- Whether a cohort may issue now: its group is active and not parked, none of its cohorts waits in the rendezvous latch, its
team runs and is not being ended, and pre-emption has not stopped it at a boundary or a waiting instruction; recruiters and helpers
run on to their `hjoin` and `hdone` (R304, R382). What of a parked group goes on needs no place in the active set, and an instruction
already issued goes on to its end while its team is being ended (R326, R335). -/
def State.mayIssue (s : State) (g : Group) (c : Cohort) : Bool :=
  (if g.parked then s.goesOn g c else g.active) && !c.stopped && !(g.cohorts.any fun x => x.prog.latched) &&
    match s.team? g.id.team with
    | none => false
    | some t => t.st == .running && (!t.ending || c.prog != .none) &&
        !(t.stop && c.helper.isNone && (!c.entered || t.halted.contains (g.id.grp, c.cid)))
/-- What the move of a cohort comes to. -/
noncomputable def State.issueMove (s : State) (gid : GroupId) (cid : Nat) : Fetched :=
  match s.resident? gid with
  | none => .done s
  | some g =>
    match g.cohort? cid with
    | none => .done s
    | some c => if !s.mayIssue g c then .done s else if c.entered then s.fetchInstr g c else s.takeHeader g c

/-! ## Moves -/

/-- Time passes: every tile counts its cycles (R322, R323); a core whose edges are stretched falls behind by no more than its tile
counts. -/
def State.elapse (s : State) (ns : Nat) : State :=
  { s with
    time := s.time + ns, tiles := s.tiles.map fun t => { t with acc := t.acc + t.mhz * ns }
    stretched := s.stretched.map fun x =>
      let k := min x.2.1 (((s.tiles[tileOf x.1]?.map (·.mhz)).getD 0) * ns)
      (x.1, x.2.1 - k, x.2.2 + k) }
/-- R300, R304: a group whose cohort still stands at its instruction has given way, unless the instruction has begun a release
or another wait that R300 does not name; a cohort of a team asked to stop waits there. -/
def State.noteWait (s : State) (before : State) : State :=
  match before.cur with
  | none => s
  | some i =>
    match s.group? i.gid, before.group? i.gid, s.team? i.gid.team with
    | some g, some g', some t =>
      match g.cohort? i.cid, g'.cohort? i.cid with
      | some c, some c' =>
        if c.entered && c.clause == c'.clause && c.word == c'.word && !c.stopped then
          let s := if c.prog == .none || c.prog.blocks then s.giveWay i.gid true else s
          if t.stop && c.helper.isNone then s.putTeam { t with halted := t.halted ++ [(i.gid.grp, i.cid)] } else s
        else s
      | _, _ => s
    | _, _, _ => s

end Sys2Proof.Machine
end

