-- ==== Sys2Proof/Machine/Choose.lean ====
section
/-! DEFINITION. Machine/Choose.lean: which cohort of a quadrant issues (13_scheduling R299 to R301, 10_memory_sync R247), and what
each move of the machine comes to. -/

namespace Sys2Proof.Machine

/-! ## Ready groups and cohorts (R300, R301) -/

/-- Whether a cohort has gone on between two states: it stands elsewhere, has stopped, has begun its instruction, or is gone. -/
def State.wentOn (s t : State) (gid : GroupId) (cid : Nat) : Bool :=
  match (s.group? gid).bind fun g => g.cohort? cid, (t.group? gid).bind fun g => g.cohort? cid with
  | some c, some d => d.stopped || c.entered != d.entered || c.clause != d.clause || c.word != d.word || c.prog != d.prog
  | _, _ => true
/-- The state with a group in its active set. -/
def State.asActive (s : State) (g : Group) : State := s.putGroup { g with active := true }
/-- Whether a cohort can go on now, were its group active: what holds it is none of the waits of R300, nor any other. -/
noncomputable def State.able (s : State) (g : Group) (cid : Nat) : Bool :=
  match (s.asActive g).issueMove g.id cid with
  | .done t => s.wentOn t g.id cid
  | .run i t =>
    match exec i t with
    | .next u => s.wentOn u g.id cid
    | _ => true
/-- Whether a group is ready: a cohort that stands at an instruction it has not begun can go on. -/
noncomputable def State.ready (s : State) (g : Group) : Bool := g.cohorts.any fun c => c.prog == .none && s.able g c.cid
/-- R300: whether a group is not blocked: a cohort can begin its instruction, or go on with a waiting one, or waits for no reason that
R300 names, as in a release. -/
noncomputable def State.unblocked (s : State) (g : Group) : Bool :=
  g.cohorts.any fun c => !c.stopped && (if c.prog == .none || c.prog.blocks then s.able g c.cid else true)
/-- Whether a ready group of the quadrant waits for a place in the active set. -/
noncomputable def State.pendingReady (s : State) (g : Group) : Bool := (s.quadGroups g).any fun x => !x.active && s.ready x

/-! ## The order of issue (R301) -/

/-- The priority of a group's grid (R293). -/
def State.groupPrio (s : State) (g : Group) : Nat := ((s.grid? g.id.team.grid).map Grid.prio).getD 0
/-- Since when a group has been ready, where that is 64 cc or more. -/
def Group.waited (g : Group) (now : Nat) : Option Nat := g.readySince.bind fun t => if t + 64 ≤ now then some t else none
/-- R301: whether ready group `x` goes before `g` in a free issue cycle. -/
def State.groupBefore (s : State) (x g : Group) : Bool :=
  let now := s.now g.core
  match x.waited now, g.waited now with
  | some a, some b => decide (a < b)
  | some _, none => true
  | none, some _ => false
  | none, none => decide (s.groupPrio g < s.groupPrio x) || (s.groupPrio x == s.groupPrio g && decide (x.lastIssue < g.lastIssue))
/-- R301: whether ready cohort `x` goes before `c` of the same group. -/
def cohortBefore (width : Nat) (x c : Cohort) : Bool :=
  let lane := fun (c : Cohort) => ((lanesOf width c.lanes).head?).getD 0
  decide (x.lastIssue < c.lastIssue) || (x.lastIssue == c.lastIssue && decide (lane x < lane c))
/-- Whether a cohort that can go on may do so: its group has not given its place to a ready pending group, by YLD, `yield` or after
4,096 cc at a clause boundary (R300), and no ready group of the quadrant or cohort of the group goes before it. Taking a clause
header is no issue and waits for no turn. -/
noncomputable def State.mayGo (s : State) (g : Group) (c : Cohort) : Bool :=
  let out := g.yielded || (!c.entered && decide (g.placed + 4096 ≤ s.now g.core))
  !(out && s.pendingReady g) && (!c.entered ||
    ((g.cohorts.all fun x => x.cid == c.cid || x.prog != .none || !cohortBefore g.width x c || !s.able g x.cid) &&
      (s.quadGroups g).all fun x => x.id == g.id || !x.active || !s.groupBefore x g || !s.ready x))
/-- The state in which a cohort issues its instruction. -/
def State.markIssue (s : State) (g : Group) (c : Cohort) : State :=
  if c.entered then
    s.putGroup { g.putCohort { c with lastIssue := s.tick } with lastIssue := s.tick, readySince := none }
  else s

/-! ## Moves -/

/-- The move of a cohort: it goes on with an instruction it has begun, or begins one in its turn; one that cannot go on is found
waiting. -/
noncomputable def State.issue (s : State) (gid : GroupId) (cid : Nat) : Fetched :=
  match s.resident? gid with
  | none => .done s
  | some g =>
    match g.cohort? cid with
    | none => .done s
    | some c =>
      if !s.mayIssue g c then .done s
      else if c.prog != .none || !s.able g cid then s.issueMove gid cid
      else if s.mayGo g c then (s.markIssue g c).issueMove gid cid
      else .done s
/-- Groups found ready are noted, active ones with the cycle from which they are (R301); one found blocked holds its place no longer, and
its 4,096 cc begin anew (R300). -/
noncomputable def State.noteReady (s : State) : State :=
  { s with groups := s.groups.map fun g =>
      let free := s.unblocked g
      { g with ready := free, placed := if free then g.placed else s.now g.core
               readySince := if g.active && s.ready g then some (g.readySince.getD (s.now g.core)) else none } }
/-- The events that ask which groups are ready now. -/
def asksReady (i : Instr) : Bool :=
  match i with
  | .activeSetEntry _ => true
  | .activePlaceTimeout _ => true
  | _ => false
/-- Whether a row is an event of the device; an instruction, and a word that is none, occur only as a cohort issues them. -/
def isEvent (i : Instr) : Bool :=
  match i with
  | .undecodableWord _ => false
  | i => (encode i).isNone
/-- The move of a step: the head of the agenda, or what the schedule chooses; each step has its own number. -/
def State.chosen (s : State) : Move × State :=
  match s.agenda with
  | m :: rest => (m, { s with agenda := rest, tick := s.tick + 1, cur := none })
  | [] => (Config.schedule s.tick, { s with tick := s.tick + 1, cur := none })
/-- What a move comes to. -/
noncomputable def State.move (s : State) (m : Move) : Fetched :=
  match m with
  | .elapse ns => .done (s.noteReady.elapse ns)
  | .issue g cid => s.issue g cid
  | .event i => if isEvent i then .run i (if asksReady i then s.noteReady else s) else .done s
  | .upset u => .done (s.strike u)

end Sys2Proof.Machine
end

