-- ==== Sys2Proof/Machine/Step.lean ====
section
/-! DEFINITION. Machine/Step.lean: one step of the machine, and the state in which the next step runs a given instruction. -/

namespace Sys2Proof.Machine

/-- What a move comes to, performed. -/
def finish (f : Fetched) : Host.Outcome State Fault Refusal :=
  match f with
  | .done t => .next t
  | .run i t =>
    match exec i t with
    | .next u => .next (u.noteWait t)
    | .fault r => .fault r
    | .refused r => .refused r

/-- One step: nothing runs in a module that has powered down (21_faults_containment R394); otherwise one move. -/
noncomputable def step (s : State) : Host.Outcome State Fault Refusal :=
  if s.dead then .fault .poweredDown else finish (s.chosen.2.move s.chosen.1)

/-! ## Placing an instruction -/

/-- The record of the grid that runs a placed instruction: width 16, 64 registers, 8 tiles, 8 platforms, 4 banks, 24 points. -/
def placedWords : LaunchWords :=
  ⟨0x10000, 0x30488C, 0, 0x100000, 0x1000000000400, 0x20000, 0, 0⟩
/-- The class and the two words of a placed instruction. -/
noncomputable def placedCls (nbits w : Nat) : Cls := ((decodeTable nbits w).map (·.1)).getD .s
/-- Log entry 3: a context of its own whose grid's one group stands at the instruction, stored at 0x10004, and the move that
issues it: what the loader, the launch and the placement of a team would have set up. -/
noncomputable def State.withFetchWord (s : State) (nbits w : Nat) : State :=
  let part := s.parts.length
  let asid := (s.ctxs.map (·.asid)).foldl max 0 + 1
  let gid : GridId := ⟨part, 4⟩
  let grid : Grid := ⟨gid, asid, placedWords, 0, 0, 1, [], [], none, List.replicate 8 ⟨0⟩, [], s.tick, none⟩
  let ctx : Context := { newContext ⟨asid, part, 4096, 0, [], none, [], []⟩ none with descs := [((0, 0), 7), ((1, 0), 61)] }
  let s : State := { s with
    parts := s.parts ++ [newPart ⟨0, 1, 0x100, []⟩ part s.flash], ctxs := s.ctxs ++ [ctx], grids := s.grids ++ [grid]
    pairs := s.pairs.map fun p => (p.1, { p.2 with l1 := p.2.l1.filter fun l => l.asid != asid })
    mem := cellsWrite s.mem (memKey asid 0x10004) 8 (w % 2 ^ nbits), dead := false }
  let s := s.placeTeam ⟨grid, 0, false⟩ 0
  let id : GroupId := ⟨⟨gid, 0⟩, 0⟩
  let stand := fun (c : Cohort) => { c with entered := true, count := 2, cls := placedCls nbits w }
  { s with
    groups := s.groups.map fun g => if g.id == id then { g with slots := [0], active := true, cohorts := g.cohorts.map stand } else g
    agenda := [.issue id 0] }

end Sys2Proof.Machine
end

