-- ==== Sys2Proof/Safety.lean ====
section
/-! DEFINITION. Safety.lean: what counts as a safe run, in the terms the statements use. -/

namespace Sys2Proof.Machine

/-- An instruction completes at a state: `exec` answers a next state. -/
def Completes (i : Instr) (s : State) : Prop := ∃ t, exec i s = .next t
/-- The machine's memory and the host's are in canonical form. -/
abbrev State.MemOk (s : State) : Prop := Memory.wf s.mem = true ∧ Memory.wf s.hostMem = true
/-- The module has power. -/
abbrev State.Alive (s : State) : Prop := s.dead = false

/-- The instruction answers a next state in which the executing group is `g`, its cohort `n` words on, and all else as before. -/
def Does (s : State) (v : View) (i : Instr) (n : Nat) (g : Group) : Prop :=
  exec i s = .next (s.putGroup (g.advance v.c.cid n))
/-- The instruction answers a next state in which the executing group is `g`, and all else as before. -/
def Goes (s : State) (i : Instr) (g : Group) : Prop := exec i s = .next (s.putGroup g)

/-! ## What an instruction may use -/

/-- `n` registers from the one a code names are full (R62), hold no uncorrectable error (R385), and belong to the frame of a
helper body that names them (R40). -/
abbrev View.Holds (v : View) (c : Code) (n : Nat) : Prop :=
  v.isEmpty c n = false ∧ v.isBad c n = false ∧ (v.helping = true → v.foreign c n = false)
/-- A source read per thread (R198). -/
abbrev View.Src (v : View) (c : Code) : Prop := v.srcOk c = true ∧ v.Holds c 1
/-- A source read as one value for the cohort (R176). -/
abbrev View.Uni (v : View) (c : Code) : Prop := v.uniOk c = true ∧ v.Holds c 1
/-- `n` consecutive v registers as a source. -/
abbrev View.Block (v : View) (c : Code) (n : Nat) : Prop := v.vBlock c n = true ∧ v.Holds c n
/-- A destination of `n` registers that is not awaiting a value (R62). -/
abbrev View.Free (v : View) (c : Code) (n : Nat) : Prop :=
  v.isEmpty c n = false ∧ (v.helping = true → v.readOnly c n = false)
/-- A v register as destination (R198). -/
abbrev View.VDst (v : View) (c : Code) : Prop := v.vDst c = true ∧ v.Free c 1
/-- An s or v register as destination (R176). -/
abbrev View.Dst (v : View) (c : Code) : Prop := v.dDst c = true ∧ v.Free c 1
/-- A predicate whose mask, if any, is undamaged (R199). -/
abbrev View.Pred (v : View) (p : BitVec 2) : Prop := p = 0 ∨ (v.g.mreg p.toNat).bad = false
/-- Outside helper bodies (R40). -/
abbrev View.Home (v : View) : Prop := v.helping = false
/-- Shadow mode sees no second disagreement (R391). -/
abbrev View.Steady (v : View) : Prop := v.shadow = true → v.c.flaw = false

/-- R226: the address operand of a memory instruction: an even pair of v registers, or a code of one value. -/
abbrev View.Addr (v : View) (f : ML) : Prop := v.addrOk f.a = true ∧ v.Holds f.a (addrArg f).n
/-- R232: X of `at.cas` names a register block of its width. -/
def View.casOk (v : View) (f : ML) (n : Nat) : Bool :=
  match opd f.x with
  | .v r => r % regsOf n == 0 && v.vOk r (regsOf n)
  | .x _ => v.helping
  | _ => true
/-- R238: the length of a range: a uniform pair, an s register or another uniform code. -/
def View.lenOk (v : View) (c : Code) : Bool :=
  match opd c with
  | .v _ => v.uniAddr c
  | .s _ => true
  | _ => v.uniOk c
/-- R67, R226: a 64-bit value for the cohort: an even pair of v registers tagged U, or a code of one value. -/
abbrev View.UniPair (v : View) (c : Code) : Prop := v.uniAddr c = true ∧ v.Holds c (match opd c with | .v _ => 2 | _ => 1)
/-- R239: the index of an image: of one value for the cohort. -/
def View.indexOk (v : View) (c : Code) : Bool :=
  match opd c with
  | .v r => v.vOk r 1 && v.tag c == .u
  | .x _ => v.helping
  | _ => !perLane v c
/-- R123, R156, R159: a release on these tracks has nothing to wait for: no other cohort or acquire load holds them, no entry of the
group stands on them, no write is unacknowledged and every load has its value; the same of every access that an event on all tracks
orders before it. -/
def State.Drained (s : State) (v : View) (ts : BitVec 16) : Prop :=
  s.tracksHeld v.g v.c.cid ts = false ∧ (∀ g, s.group? v.g.id = some g →
    (g.pot.all fun e => !ts.getLsbD e.trk) = true ∧ g.quiet ts = true ∧ s.earlierOut g v.c.cid v.fence = false) ∧
  s.heldOn v.g.id ts = false ∧ s.loadsOut v.g.id ts = false ∧ s.draining v.g.id ts = false

/-- The rational number a finite value stands for; 0 for the others. -/
def FVal.rat (v : FVal) : ℚ :=
  match v with
  | .fin neg m e => (if neg then -1 else 1) * (m : ℚ) * (2 : ℚ) ^ e
  | _ => 0
/-- R56: a full register tagged U holds one value in all threads, one tagged A an arithmetic progression over the home lanes; an empty
one has the tag of the value on its way to it. -/
def VReg.Truthful (x : VReg) (width : Nat) : Prop := x.full = true →
  (x.tag = .u → ∃ a, ∀ i < width, (x.lanes[i]?).getD 0 = a) ∧
  (x.tag = .a → ∃ a d : W32, ∀ i < width, (x.lanes[i]?).getD 0 = a + BitVec.ofNat 32 i * d)
def Group.Truthful (g : Group) : Prop := ∀ r, (g.vreg r).Truthful g.width

/-- R343: every check an instruction passes at issue holds. `legal` is step 4; `full` and `room` that no register it reads or
writes is empty (R62); `sound` and `maskSound` that none it reads holds an uncorrectable error (R385); `values` step 6; `ready`
step 7; `helper` what a helper body may use (R40); `steady` that shadow mode sees no second disagreement (R391). -/
structure Opens (k : Gate) (v : View) : Prop where
  legal : ∀ p ∈ k.chk, p.1 = true
  full : ∀ a ∈ k.src, v.isEmpty a.code a.n = false
  room : ∀ d ∈ k.dst, v.isEmpty d.1 d.2 = false
  sound : ∀ a ∈ k.src, v.isBad a.code a.n = false
  maskSound : ∀ r ∈ k.masks, r = 0 ∨ (v.g.mreg r).bad = false
  values : ∀ p ∈ k.vals, p.1 = true
  ready : ∀ l ∈ k.late, l.ok = true
  helper : v.helping = true → k.helps = true ∧ (∀ a ∈ k.src, v.foreign a.code a.n = false) ∧ ∀ d ∈ k.dst, v.readOnly d.1 d.2 = false
  steady : v.shadow = true → v.c.flaw = true → k.unit = 0

end Sys2Proof.Machine
end

