-- ==== Sys2Proof/Certificates/Slice0/Obligations.lean ====
section
/-! DEFINITION. Certificates/Slice0/Obligations.lean: the statements about the machine, rule by rule. `Does s v i n g` says that
`exec i s` answers the next state in which the executing group is `g`, its cohort `n` words on, and everything else as before;
`Goes s i g` the same with the cohorts of `g` placed as `g` has them. -/

open Sys2Proof Sys2Proof.Machine

/-! ## Scalar arithmetic (08_scalar_control R178 to R182) -/

/-- R178, R83: sums, differences, products and quotients of 64-bit operands: exact, then reduced modulo 2^64; division truncates and a
zero divisor gives all ones. R178, R83: bitwise operations bit by bit, shifts by b[5:0] as products and quotients by a power of two,
minima and maxima as integers. R178, R180: a comparison yields 1 when it holds and 0 otherwise; `s.sel` takes A when C is not zero,
else B. -/
def Obligations.ScalarTwoOperandsAndCompares : Prop :=
  (∀ (f : A3) (s : State) (v : View), s.view = some v → v.Steady → v.Home → v.Dst f.d → v.Uni f.a → v.Uni f.b →
    let a := v.uni f.a
    let b := v.uni f.b
    let gives := fun (i : Instr) (x : W64) => Does s v i 1 (v.writeD v.g f.d x)
    gives (.sAdd f) (BitVec.ofNat 64 (a.toNat + b.toNat)) ∧
    gives (.sSub f) (BitVec.ofInt 64 (a.toInt - b.toInt)) ∧
    gives (.sMul f) (BitVec.ofNat 64 (a.toNat * b.toNat)) ∧
    gives (.sMulhI f) (BitVec.ofInt 64 (a.toInt * b.toInt / 2 ^ 64)) ∧
    gives (.sMulhN f) (BitVec.ofNat 64 (a.toNat * b.toNat / 2 ^ 64)) ∧
    gives (.sDivI f) (if b = 0 then BitVec.ofInt 64 (-1) else BitVec.ofInt 64 (a.toInt.tdiv b.toInt)) ∧
    gives (.sDivN f) (if b = 0 then BitVec.ofNat 64 (2 ^ 64 - 1) else BitVec.ofNat 64 (a.toNat / b.toNat))) ∧
  (∀ (f : A3) (s : State) (v : View), s.view = some v → v.Steady → v.Home → v.Dst f.d → v.Uni f.a → v.Uni f.b →
    let a := v.uni f.a
    let b := v.uni f.b
    let n := b.toNat % 64
    let gives := fun (i : Instr) (x : W64) => Does s v i 1 (v.writeD v.g f.d x)
    let bits := fun (i : Instr) (op : Bool → Bool → Bool) =>
      ∃ x : W64, (∀ k < 64, x.getLsbD k = op (a.getLsbD k) (b.getLsbD k)) ∧ gives i x
    bits (.sAnd f) (fun x y => x && y) ∧ bits (.sOr f) (fun x y => x || y) ∧ bits (.sXor f) (fun x y => x != y) ∧
    gives (.sShl f) (BitVec.ofNat 64 (a.toNat * 2 ^ n)) ∧
    gives (.sShrN f) (BitVec.ofNat 64 (a.toNat / 2 ^ n)) ∧
    gives (.sShrI f) (BitVec.ofInt 64 (a.toInt / 2 ^ n)) ∧
    gives (.sMinI f) (BitVec.ofInt 64 (min a.toInt b.toInt)) ∧
    gives (.sMaxI f) (BitVec.ofInt 64 (max a.toInt b.toInt)) ∧
    gives (.sMinN f) (BitVec.ofNat 64 (min a.toNat b.toNat)) ∧
    gives (.sMaxN f) (BitVec.ofNat 64 (max a.toNat b.toNat))) ∧
  ((∀ (f : A3) (s : State) (v : View), s.view = some v → v.Steady → v.Home → v.Dst f.d → v.Uni f.a → v.Uni f.b →
    let a := v.uni f.a
    let b := v.uni f.b
    let gives := fun (i : Instr) (p : Prop) => ∃ x : W64, (p → x = 1) ∧ (¬p → x = 0) ∧ Does s v i 1 (v.writeD v.g f.d x)
    gives (.sSeq f) (a = b) ∧ gives (.sSne f) (a ≠ b) ∧
    gives (.sSltI f) (a.toInt < b.toInt) ∧ gives (.sSltN f) (a.toNat < b.toNat) ∧
    gives (.sSleI f) (a.toInt ≤ b.toInt) ∧ gives (.sSleN f) (a.toNat ≤ b.toNat)) ∧
  ∀ (f : A4) (s : State) (v : View), s.view = some v → v.Steady → v.Home → v.Dst f.d → v.Uni f.a → v.Uni f.b → v.Uni f.c →
    (v.uni f.c ≠ 0 → Does s v (.sSel f) 2 (v.writeD v.g f.d (v.uni f.a))) ∧
    (v.uni f.c = 0 → Does s v (.sSel f) 2 (v.writeD v.g f.d (v.uni f.b))))

/-- R178, R180: leading zeros, set bits, a move, a sum with a shifted operand, and a bit field read with or without its sign. R181:
the seven forms with an immediate, their *i* the sign-extended IMM10. R179, R351: one thread's element: of lane b[6:0] where that lane
belongs to the cohort, 0 where it does not; from a source still empty the copy is deferred and D is empty meanwhile. -/
def Obligations.ScalarOtherOperations : Prop :=
  ((∀ (f : A3) (s : State) (v : View), s.view = some v → v.Steady → v.Home → v.Dst f.d → v.Uni f.a →
    let a := v.uni f.a
    let gives := fun (i : Instr) (x : W64) => Does s v i 1 (v.writeD v.g f.d x)
    (∃ n ≤ 64, gives (.sClz f) (BitVec.ofNat 64 n) ∧ a.toNat < 2 ^ (64 - n) ∧ (n < 64 → 2 ^ (63 - n) ≤ a.toNat)) ∧
    gives (.sPopc f) (BitVec.ofNat 64 ((Finset.range 64).filter fun k => a.getLsbD k = true).card) ∧
    gives (.sMov f) a) ∧
  (∀ (f : A4) (s : State) (v : View), s.view = some v → v.Steady → v.Home → v.Dst f.d → v.Uni f.a → v.Uni f.b →
    Does s v (.sAddsh f) 2 (v.writeD v.g f.d
      (BitVec.ofNat 64 ((v.uni f.a).toNat + (v.uni f.b).toNat * 2 ^ (f.imm.toNat % 8))))) ∧
  ∀ (f : A4) (s : State) (v : View), s.view = some v → v.Steady → v.Home → v.Dst f.d → v.Uni f.a →
    let lo := f.imm.toNat % 64
    let w := if f.imm.toNat / 64 % 64 = 0 then 64 else f.imm.toNat / 64 % 64
    let x := (v.uni f.a).toNat / 2 ^ lo % 2 ^ w
    (f.imm.getLsbD 12 = false → Does s v (.sBfx f) 2 (v.writeD v.g f.d (BitVec.ofNat 64 x))) ∧
    (f.imm.getLsbD 12 = true → ∃ y : Int, (y = x ∨ y = x - 2 ^ w) ∧ -(2 : Int) ^ (w - 1) ≤ y ∧ y < 2 ^ (w - 1) ∧
      Does s v (.sBfx f) 2 (v.writeD v.g f.d (BitVec.ofInt 64 y)))) ∧
  (∀ (f : AI) (s : State) (v : View), s.view = some v → v.Steady → v.Home → v.Dst f.d → v.Uni f.a →
    let a := v.uni f.a
    let i := f.imm.toInt
    let n := f.imm.toNat % 64
    let gives := fun (i : Instr) (x : W64) => Does s v i 1 (v.writeD v.g f.d x)
    let bits := fun (j : Instr) (op : Bool → Bool → Bool) =>
      ∃ x : W64, (∀ k < 64, x.getLsbD k = op (a.getLsbD k) ((BitVec.ofInt 64 i).getLsbD k)) ∧ gives j x
    gives (.sAddi f) (BitVec.ofInt 64 (a.toInt + i)) ∧
    bits (.sAndi f) (fun x y => x && y) ∧ bits (.sOri f) (fun x y => x || y) ∧ bits (.sXori f) (fun x y => x != y) ∧
    gives (.sShli f) (BitVec.ofNat 64 (a.toNat * 2 ^ n)) ∧
    gives (.sShriN f) (BitVec.ofNat 64 (a.toNat / 2 ^ n)) ∧
    gives (.sShriI f) (BitVec.ofInt 64 (a.toInt / 2 ^ n))) ∧
  (∀ (f : A3) (s : State) (v : View) (r : Nat), s.view = some v → v.Steady → v.Home → v.Dst f.d → v.Uni f.b →
    opd f.a = .v r → r < v.g.vregs → (v.g.vreg r).bad = false →
    let k := (v.uni f.b).toNat % 128
    (¬(k < v.g.width ∧ v.c.lanes.getLsbD k = true) → ((v.g.vreg r).full = true ∨ f.ea = 0) →
      Does s v (.sRdlane f) 1 (v.writeD v.g f.d 0)) ∧
    (k < v.g.width → v.c.lanes.getLsbD k = true → (v.g.vreg r).full = true →
      Does s v (.sRdlane f) 1 (v.writeD v.g f.d (BitVec.ofNat 64 (v.g.elem r k).toNat))) ∧
    (k < v.g.width → v.c.lanes.getLsbD k = true → (v.g.vreg r).full = false → f.ea = 0 →
      let g := match opd f.d with
        | .s n => v.g.emptyS n
        | _ => v.g.emptyV (regNo f.d) (tagWritten v.g.width v.c.lanes .u)
      Does s v (.sRdlane f) 1 { g with copies := g.copies ++ [⟨f.d, r, k, v.c.lanes⟩] }) ∧
    ((v.g.vreg r).full = false → f.ea = 1 → exec (.sRdlane f) s = .next (s.raiseAt v codeEMPTY 1 0 0)))

/-- R182: `s.li` and `s.lih`, their encoding, their destination, and the wait of `s.lih` while D is empty. -/
def Obligations.ScalarLoadImmediates : Prop :=
  (∀ f : AL, WellFormed (.sLi f) = true → f.a = 0 ∧ f.ea = 0 ∧ f.p = 0 ∧ f.b = 0x70 ∧ f.eb = 0 ∧
    encode (.sLi f) = some (.s, AL.word0 0x27 f, some f.imm)) ∧
  (∀ f : AL, WellFormed (.sLih f) = true → f.a = 0 ∧ f.ea = 0 ∧ f.p = 0 ∧ f.b = 0x70 ∧ f.eb = 0 ∧
    encode (.sLih f) = some (.s, AL.word0 0x28 f, some f.imm)) ∧
  ∀ (f : AL) (s : State) (v : View) (r : Nat), s.view = some v → v.Steady → v.Home →
    (opd f.d = .s r → (v.g.sreg r).full = true →
      Does s v (.sLi f) 2 (v.g.setS r (BitVec.ofInt 64 f.imm.toInt)) ∧
      ((v.g.sreg r).bad = false →
        Does s v (.sLih f) 2 (v.g.setS r (BitVec.ofNat 64 (f.imm.toNat * 2 ^ 32 + (v.g.sreg r).val.toNat % 2 ^ 32))))) ∧
    (opd f.d = .s r → (v.g.sreg r).full = false → exec (.sLi f) s = .next s ∧ exec (.sLih f) s = .next s) ∧
    ((∀ r, opd f.d ≠ .s r) → exec (.sLi f) s = .next (s.raiseAt v codeOPERAND 1 0 0) ∧
      exec (.sLih f) s = .next (s.raiseAt v codeOPERAND 1 0 0))

/-- R192, R53: the mask operations bit by bit below width; the bits at and above width are 0, and only m1 to m7 are written. -/
def Obligations.MaskOperations : Prop :=
  (∀ f : A3, WellFormed (.mAnd f) = true → encode (.mAnd f) = some (.s, A3.word 0x51 f, none)) ∧
  (∀ f : A3, WellFormed (.mOr f) = true → encode (.mOr f) = some (.s, A3.word 0x52 f, none)) ∧
  (∀ f : A3, WellFormed (.mAndn f) = true → encode (.mAndn f) = some (.s, A3.word 0x53 f, none)) ∧
  (∀ f : A3, WellFormed (.mXor f) = true → encode (.mXor f) = some (.s, A3.word 0x54 f, none)) ∧
  ∀ (f : A3) (s : State) (v : View), s.view = some v → v.Steady → v.Home →
    (mDst f.d = false → ∀ i ∈ [Instr.mAnd f, .mOr f, .mAndn f, .mXor f], exec i s = .next (s.raiseAt v codeOPERAND 1 0 0)) ∧
    (v.Uni f.a → v.Uni f.b → ∀ r, opd f.d = .m r → r ≠ 0 →
      let gives := fun (i : Instr) (op : Bool → Bool → Bool) => ∃ x : Lanes,
        (∀ k < 64, x.getLsbD k = (decide (k < v.g.width) && op ((v.uni f.a).getLsbD k) ((v.uni f.b).getLsbD k))) ∧
        Does s v i 1 (v.g.putMreg r ⟨x, false⟩)
      v.g.width ≤ 64 →
        gives (.mAnd f) (fun x y => x && y) ∧ gives (.mOr f) (fun x y => x || y) ∧
        gives (.mAndn f) (fun x y => x && !y) ∧ gives (.mXor f) (fun x y => x != y))

/-- R191: bit *i* of D is 1 exactly when thread *i* is in the executing cohort and its A is not zero. R24, R193: the count of the
lanes of a mask below width, its lowest lane or −1, the mask as a value, each of the bits of the executing cohort's threads alone
(that R193's operand is narrowed so is the model's choice, log entry 125); and a mask from an s register. -/
def Obligations.MaskBallotAndReads : Prop :=
  (∀ (f : A3) (s : State) (v : View) (r : Nat), s.view = some v → v.Steady → v.Home → v.Src f.a → opd f.d = .m r → r ≠ 0 →
    v.g.width ≤ 64 →
    ∃ x : Lanes, (∀ i < 64, x.getLsbD i = true ↔ i < v.g.width ∧ v.c.lanes.getLsbD i = true ∧ v.r64 f.a i ≠ 0) ∧
      Does s v (.mBallot f) 1 (v.g.putMreg r ⟨x, false⟩)) ∧
  ((∀ (f : A3) (s : State) (v : View) (r : Nat), s.view = some v → v.Steady → v.Home → v.Dst f.d → opd f.a = .m r →
    (v.g.mreg r).bad = false → v.g.width ≤ 64 →
    let m := v.mask r &&& v.c.lanes
    let gives := fun (i : Instr) (x : W64) => Does s v i 1 (v.writeD v.g f.d x)
    gives (.mCnt f) (BitVec.ofNat 64 ((Finset.range v.g.width).filter fun k => m.getLsbD k = true).card) ∧
    (∀ n, m.getLsbD n = true → n < v.g.width → (∀ k < n, m.getLsbD k = false) → gives (.mFirst f) (BitVec.ofNat 64 n)) ∧
    ((∀ k < v.g.width, m.getLsbD k = false) → gives (.mFirst f) (BitVec.ofInt 64 (-1))) ∧
    gives (.mGet f) m) ∧
  ∀ (f : A3) (s : State) (v : View) (r q : Nat), s.view = some v → v.Steady → v.Home → v.Uni f.a → opd f.a = .s q →
    opd f.d = .m r → r ≠ 0 → v.g.width ≤ 64 →
    ∃ x : Lanes, (∀ k < 64, x.getLsbD k = (decide (k < v.g.width) && (v.g.sreg q).val.getLsbD k)) ∧
      Does s v (.mSet f) 1 (v.g.putMreg r ⟨x, false⟩))

/-! ## Transfers of control and divergence (08_scalar_control R183 to R189, R194; 02_execution R24 to R29) -/

/-- R72: a target is H + 4 × SignExtend(off, 17), in 56 bits. -/
def targetOf (h : Nat) (off : BitVec 17) : Nat := (((h : Int) + 4 * off.toInt) % 2 ^ 56).toNat
/-- A group in which only the control state of threads differs, each thread of `lanes` changed by `h`. -/
def ThreadsChanged (g g' : Group) (lanes : List Nat) (h : Thread → Thread) : Prop :=
  g' = { g with threads := g'.threads } ∧ g'.threads.length = g.threads.length ∧
  (∀ i, i ∉ lanes → g'.thread i = g.thread i) ∧ ∀ i ∈ lanes, i < g.threads.length → g'.thread i = h (g.thread i)

/-- R183: `br` moves the cohort to the target; `br.z` and `br.nz` on a uniform operand move it whole, to the target or to the
successor of its clause. R184: on a v code, `lane`, `hlane` or `depth`, each thread of the cohort branches by its own value. -/
def Obligations.Branches : Prop :=
  (∀ (f : BR) (s : State) (v : View), s.view = some v → v.Steady →
    Goes s (.br f) (v.g.goto v.c (targetOf v.c.clause f.off)) ∧
    (v.Src f.a → (∀ r, opd f.a ≠ .v r) → f.a ≠ 0x71 → f.a ≠ 0x72 → f.a ≠ 0x77 →
      (v.uni f.a = 0 → Goes s (.brZ f) (v.g.goto v.c (targetOf v.c.clause f.off)) ∧
        Goes s (.brNz f) (v.g.goto v.c v.c.successor)) ∧
      (v.uni f.a ≠ 0 → Goes s (.brZ f) (v.g.goto v.c v.c.successor) ∧
        Goes s (.brNz f) (v.g.goto v.c (targetOf v.c.clause f.off))))) ∧
  (∀ (f : BR) (s : State) (v : View), s.view = some v → v.Steady → v.Src f.a → v.g.width ≤ 64 →
    ((∃ r, opd f.a = .v r) ∨ f.a = 0x71 ∨ f.a = 0x72 ∨ f.a = 0x77) →
    ∃ zero other : Lanes,
      (∀ i < 64, zero.getLsbD i = true ↔ i < v.g.width ∧ v.c.lanes.getLsbD i = true ∧ v.r64 f.a i = 0) ∧
      (∀ i < v.g.width, other.getLsbD i = true ↔ v.c.lanes.getLsbD i = true ∧ v.r64 f.a i ≠ 0) ∧
      (v.c.lanes &&& ~~~allLanes v.g.width = 0 →
        Goes s (.brZ f) (v.g.divide v.c [(zero, targetOf v.c.clause f.off), (other, v.c.successor)]) ∧
        Goes s (.brNz f) (v.g.divide v.c [(other, targetOf v.c.clause f.off), (zero, v.c.successor)])))

/-- R185: `br.far`, its encoding and its target; R351: a target that is not a multiple of 4. -/
def Obligations.FarBranch : Prop :=
  (∀ f : AL, WellFormed (.brFar f) = true → f.d = 0 ∧ f.a = 0 ∧ encode (.brFar f) = some (.s, AL.word0 0x43 f, some f.imm)) ∧
  ∀ (f : AL) (s : State) (v : View), s.view = some v → v.Steady → v.Home → v.c.clause < 2 ^ 56 →
    (f.imm.toNat % 4 = 0 → ∃ t < 2 ^ 56, t / 2 ^ 32 = v.c.clause / 2 ^ 32 ∧ t % 2 ^ 32 = f.imm.toNat ∧
      Goes s (.brFar f) (v.g.goto v.c t)) ∧
    (f.imm.toNat % 4 ≠ 0 → exec (.brFar f) s = .next (s.raiseAt v codeOPERAND 0x06 0 0))

/-- R186, R341: `call` writes the successor's low 32 bits into A of every thread of the cohort, adds one to its depth and continues at
the target; at depth 255 it raises MEETSTACK. R187, R29: `ret` and `jmp.v` send each thread of the cohort to H[55:32] : v[A][i];
threads of equal target and depth form one cohort, and `ret` takes one from the depth. R187, R341, R351: where `ret` and `jmp.v`
raise: a target that is not a multiple of 4; `ret` at depth 0. -/
def Obligations.CallsReturnsAndJumps : Prop :=
  (∀ (f : BR) (s : State) (v : View) (r : Nat), s.view = some v → v.Steady → v.Home → v.VDst f.a → opd f.a = .v r →
    ((∀ i ∈ v.lanes, (v.g.thread i).depth ≠ 255) →
      ∃ g, ThreadsChanged (v.g.setV r v.c.lanes (fun _ => BitVec.ofNat 32 (v.c.successor % 2 ^ 32)) .u) g v.lanes
          (fun t => { t with depth := t.depth + 1 }) ∧
        Goes s (.call f) (g.goto v.c (targetOf v.c.clause f.off))) ∧
    ((∃ i ∈ v.lanes, (v.g.thread i).depth = 255) → exec (.call f) s = .next (s.raiseAt v codeMEETSTACK 3 0 0))) ∧
  (∀ (f : BR) (s : State) (v : View) (r : Nat), s.view = some v → v.Steady → v.Home → v.Src f.a → opd f.a = .v r →
    v.g.width ≤ 64 → (∀ i ∈ v.lanes, (v.elem r i).toNat % 4 = 0) →
    let dst := fun i => v.c.clause / 2 ^ 32 * 2 ^ 32 + (v.elem r i).toNat
    let divides := fun (i : Instr) (g : Group) => ∃ (keys : List (Nat × Nat)) (m : Nat × Nat → Lanes),
      keys.Nodup ∧ (∀ k, k ∈ keys ↔ ∃ i ∈ v.lanes, k = (dst i, (g.thread i).depth)) ∧
      (∀ k, ∀ i < 64, (m k).getLsbD i = true ↔ i ∈ v.lanes ∧ k = (dst i, (g.thread i).depth)) ∧
      Goes s i (g.divide v.c (keys.map fun k => (m k, k.1)))
    divides (.jmpV f) v.g ∧
    ((∀ i ∈ v.lanes, (v.g.thread i).depth ≠ 0) → ∃ g,
      ThreadsChanged v.g g v.lanes (fun t => { t with depth := t.depth - 1 }) ∧ divides (.ret f) g)) ∧
  (∀ (f : BR) (s : State) (v : View) (r : Nat), s.view = some v → v.Home → v.Src f.a → opd f.a = .v r →
    ((∃ i ∈ v.lanes, (v.elem r i).toNat % 4 ≠ 0) → ∀ i ∈ [Instr.ret f, .jmpV f],
      exec i s = .next (s.raiseAt v codeOPERAND 0x12 0 0)) ∧
    ((∀ i ∈ v.lanes, (v.elem r i).toNat % 4 = 0) → (∃ i ∈ v.lanes, (v.g.thread i).depth = 0) →
      exec (.ret f) s = .next (s.raiseAt v codeMEETSTACK 4 0 0)))

/-- R188, R26, R341: `split` pushes every thread's meeting register, sets it to (J, depth), and divides the cohort by the mask; with a
full stack it raises MEETSTACK. R188 names an m, an s and a U-tagged v code as the mask; a special operand or an inline constant as
the mask is the model's choice (log entry 126). R189, R27, R28, R341: `meet` sets the meeting registers to (target, depth); `join` in
the clause its threads' registers name makes them wait, their cohort no longer issuing; elsewhere it raises MEETSTACK. R24, R26, R29:
a cohort divided among targets: each part that is not empty is a cohort at word 1 of its target's clause, an empty part forms none,
and the other cohorts, the threads and the registers are as before. R71: past an instruction of `n` words a cohort stands at the next
word of its clause, or at word 1 of its successor, whose header it has yet to take; leaving a clause whose header held YLD, its group
gives way (R300). Nothing else of the group changes. -/
def Obligations.SplitsMeetsAndJoins : Prop :=
  (∀ (f : SplitF) (s : State) (v : View), s.view = some v → v.Steady → v.Home → v.Uni f.a →
    let j := targetOf v.c.clause f.meet
    ((∀ i ∈ v.lanes, (v.g.thread i).stack.length < 8) → ∃ (g : Group) (taken fall : Lanes),
      ThreadsChanged v.g g v.lanes (fun t => { t with stack := t.meet :: t.stack, meet := ⟨j, t.depth⟩ }) ∧
      (∀ i < 64, taken.getLsbD i = (v.c.lanes.getLsbD i && (v.uni f.a).getLsbD i)) ∧
      (∀ i < 64, fall.getLsbD i = (v.c.lanes.getLsbD i && !(v.uni f.a).getLsbD i)) ∧
      Goes s (.split f) (g.divide v.c [(taken, targetOf v.c.clause f.off), (fall, v.c.successor)])) ∧
    ((∃ i ∈ v.lanes, 8 ≤ (v.g.thread i).stack.length) → exec (.split f) s = .next (s.raiseAt v codeMEETSTACK 1 0 0))) ∧
  (∀ (f : BR) (s : State) (v : View), s.view = some v → v.Steady → v.Home →
    (∃ g, ThreadsChanged v.g g v.lanes (fun t => { t with meet := ⟨targetOf v.c.clause f.off, t.depth⟩ }) ∧
      Does s v (.meet f) 1 g) ∧
    ((∀ i ∈ v.lanes, (v.g.thread i).meet = ⟨v.c.clause, (v.g.thread i).depth⟩) → ∃ g,
      ThreadsChanged v.g g v.lanes (fun t => { t with wait := some ⟨v.c.word, v.c.count, v.c.cls, v.c.yld⟩ }) ∧
      Goes s (.join f) (g.dropCohort v.c.cid)) ∧
    ((∃ i ∈ v.lanes, (v.g.thread i).meet ≠ ⟨v.c.clause, (v.g.thread i).depth⟩) →
      exec (.join f) s = .next (s.raiseAt v codeMEETSTACK 2 0 0))) ∧
  (∀ (g : Group) (c : Cohort) (parts : List (Lanes × Nat)), g.cohort? c.cid = some c →
    let g' := g.divide c parts
    let at_ := fun (c' : Cohort) (p : Lanes × Nat) => c'.lanes = p.1 ∧ c'.clause = p.2 % 2 ^ 56 ∧ c'.word = 1 ∧ c'.entered = false
    ((∀ p ∈ parts, p.1 = 0) → g' = g) ∧
    (∀ p ∈ parts, p.1 ≠ 0 → ∃ c' ∈ g'.cohorts, at_ c' p) ∧
    ((∃ p ∈ parts, p.1 ≠ 0) → ∀ c' ∈ g'.cohorts, (c' ∈ g.cohorts ∧ c'.cid ≠ c.cid) ∨ ∃ p ∈ parts, p.1 ≠ 0 ∧ at_ c' p) ∧
    (∀ c' ∈ g.cohorts, c'.cid ≠ c.cid → c' ∈ g'.cohorts) ∧
    g' = { g with cohorts := g'.cohorts, nextCid := g'.nextCid, yielded := g'.yielded }) ∧
  (∀ (g : Group) (c : Cohort) (n : Nat), g.cohort? c.cid = some c →
    let g' := g.advance c.cid n
    (c.word + n ≤ c.count → g' = g.putCohort { c with word := c.word + n, prog := .none }) ∧
    (c.count < c.word + n → 
      g' = { g.putCohort { c with
          clause := (c.clause + 4 * (c.count + 1)) % 2 ^ 56
          word := 1
          entered := false
          prog := .none } with yielded := g.yielded || c.yld }))

/-- R194: `nop`: its encoding, and that it changes nothing but the word its cohort stands at. -/
def Obligations.NoOperation : Prop :=
  (∀ f : A3, WellFormed (.nop f) = true → f = ⟨0, 0, 0, 0, 0, 0⟩ ∧ encode (.nop f) = some (.s, A3.word 0x7F f, none)) ∧
  ∀ (f : A3) (s : State) (v : View), s.view = some v → v.Steady → v.Home → Does s v (.nop f) 1 v.g

/-! ## Class V (09_vector R198 to R222) -/

/-- R202, R58: sums, products and shifts of 32-bit elements per thread: exact, then reduced modulo 2^32; a saturated sum clamps. Tags
are those of R58, where U, U is listed for `v.add` alone of these rows (log entry 15). R202, R203: bitwise operations bit by bit,
counts of zeros and bits, and the fused forms `v.mad` and `v.addsh`. R204: a compare writes bit *i* of its mask for the selected
threads *i* alone: 1 where the relation holds, 0 where not. -/
def Obligations.VectorIntegersAndCompares : Prop :=
  (∀ (f : A3) (s : State) (v : View), s.view = some v → v.Steady → v.VDst f.d → v.Src f.a → v.Src f.b → v.Pred f.p →
    let gives := fun (i : Instr) (t : Tag) (x : W32 → W32 → W32) =>
      Does s v i 1 (v.writeV v.g (regNo f.d) (v.sel f.p) (fun l => x (v.r32 .word f.a l) (v.r32 .word f.b l)) t)
    let ta := v.tag f.a
    let tb := v.tag f.b
    gives (.vAdd f) (tagAdd ta tb) (fun a b => BitVec.ofNat 32 (a.toNat + b.toNat)) ∧
    gives (.vSub f) (tagSub ta tb) (fun a b => BitVec.ofInt 32 (a.toInt - b.toInt)) ∧
    gives (.vMul f) (tagMul ta tb) (fun a b => BitVec.ofNat 32 (a.toNat * b.toNat)) ∧
    gives (.vMulhI f) (tagAll [ta, tb]) (fun a b => BitVec.ofInt 32 (a.toInt * b.toInt / 2 ^ 32)) ∧
    gives (.vShl f) (tagShl ta tb) (fun a b => BitVec.ofNat 32 (a.toNat * 2 ^ (b.toNat % 32))) ∧
    gives (.vShrN f) (tagAll [ta, tb]) (fun a b => BitVec.ofNat 32 (a.toNat / 2 ^ (b.toNat % 32))) ∧
    gives (.vShrI f) (tagAll [ta, tb]) (fun a b => BitVec.ofInt 32 (a.toInt / 2 ^ (b.toNat % 32))) ∧
    gives (.vMinI f) (tagAll [ta, tb]) (fun a b => BitVec.ofInt 32 (min a.toInt b.toInt)) ∧
    gives (.vMaxI f) (tagAll [ta, tb]) (fun a b => BitVec.ofInt 32 (max a.toInt b.toInt)) ∧
    gives (.vMinN f) (tagAll [ta, tb]) (fun a b => BitVec.ofNat 32 (min a.toNat b.toNat)) ∧
    gives (.vMaxN f) (tagAll [ta, tb]) (fun a b => BitVec.ofNat 32 (max a.toNat b.toNat)) ∧
    gives (.vAddsI f) (tagAll [ta, tb])
      (fun a b => BitVec.ofInt 32 (max (-2 ^ 31) (min (2 ^ 31 - 1) (a.toInt + b.toInt))))) ∧
  ((∀ (f : A3) (s : State) (v : View), s.view = some v → v.Steady → v.VDst f.d → v.Src f.a → v.Src f.b → v.Pred f.p →
    let bits := fun (i : Instr) (op : Bool → Bool → Bool) => ∃ x : Nat → W32,
      (∀ l, ∀ k < 32, (x l).getLsbD k = op ((v.r32 .word f.a l).getLsbD k) ((v.r32 .word f.b l).getLsbD k)) ∧
      Does s v i 1 (v.writeV v.g (regNo f.d) (v.sel f.p) x (tagAll [v.tag f.a, v.tag f.b]))
    bits (.vAnd f) (fun x y => x && y) ∧ bits (.vOr f) (fun x y => x || y) ∧ bits (.vXor f) (fun x y => x != y)) ∧
  (∀ (f : A3) (s : State) (v : View), s.view = some v → v.Steady → v.VDst f.d → v.Src f.a → v.Pred f.p →
    let gives := fun (i : Instr) (x : Nat → W32) =>
      Does s v i 1 (v.writeV v.g (regNo f.d) (v.sel f.p) x (tagAll [v.tag f.a]))
    (∃ n : Nat → Nat, (∀ l, n l ≤ 32 ∧ (v.r32 .word f.a l).toNat < 2 ^ (32 - n l) ∧
        (n l < 32 → 2 ^ (31 - n l) ≤ (v.r32 .word f.a l).toNat)) ∧
      gives (.vClz f) (fun l => BitVec.ofNat 32 (n l))) ∧
    gives (.vPopc f) (fun l => BitVec.ofNat 32
      ((Finset.range 32).filter fun k => (v.r32 .word f.a l).getLsbD k = true).card)) ∧
  (∀ (f : A4) (s : State) (v : View), s.view = some v → v.Steady → v.VDst f.d → v.Src f.a → v.Src f.b → v.Src f.c → v.Pred f.p →
    Does s v (.vMad f) 2 (v.writeV v.g (regNo f.d) (v.sel f.p)
      (fun l => BitVec.ofNat 32 ((v.r32 .word f.a l).toNat * (v.r32 .word f.b l).toNat + (v.r32 .word f.c l).toNat))
      (tagAdd (tagMul (v.tag f.a) (v.tag f.b)) (v.tag f.c)))) ∧
  ∀ (f : A4) (s : State) (v : View), s.view = some v → v.Steady → v.VDst f.d → v.Src f.a → v.Src f.b → v.Pred f.p →
    Does s v (.vAddsh f) 2 (v.writeV v.g (regNo f.d) (v.sel f.p)
      (fun l => BitVec.ofNat 32 ((v.r32 .word f.a l).toNat + (v.r32 .word f.b l).toNat * 2 ^ (f.imm.toNat % 8)))
      (tagAdd (v.tag f.a) (tagShifted (v.tag f.b))))) ∧
  (∀ (f : A3) (s : State) (v : View) (r : Nat), s.view = some v → v.Steady → opd f.d = .m r → r ≠ 0 → v.Src f.a → v.Src f.b →
    v.Pred f.p → v.g.width ≤ 64 →
    let gives := fun (i : Instr) (rel : W32 → W32 → Prop) => ∃ x : Lanes,
      (∀ k < 64, k < v.g.width → (v.sel f.p).getLsbD k = true →
        (x.getLsbD k = true ↔ rel (v.r32 .word f.a k) (v.r32 .word f.b k))) ∧
      (∀ k < 64, ¬(k < v.g.width ∧ (v.sel f.p).getLsbD k = true) → k < v.g.width → x.getLsbD k = (v.g.mreg r).val.getLsbD k) ∧
      (∀ k, v.g.width ≤ k → x.getLsbD k = false) ∧
      Does s v i 1 (v.g.putMreg r ⟨x, false⟩)
    gives (.vCmpEq f) (fun a b => a = b) ∧ gives (.vCmpNe f) (fun a b => a ≠ b) ∧
    gives (.vCmpLtI f) (fun a b => a.toInt < b.toInt) ∧ gives (.vCmpLeI f) (fun a b => a.toInt ≤ b.toInt) ∧
    gives (.vCmpLtN f) (fun a b => a.toNat < b.toNat) ∧ gives (.vCmpLeN f) (fun a b => a.toNat ≤ b.toNat) ∧
    gives (.vFcmpEq f) (fun a b => (fv a).eqv (fv b) = true) ∧ gives (.vFcmpLt f) (fun a b => (fv a).lt (fv b) = true) ∧
    gives (.vFcmpLe f) (fun a b => (fv a).lt (fv b) = true ∨ (fv a).eqv (fv b) = true))

/-- R205 to R208: select, immediates, moves, `v.iota` and `v.tagof`, with their tags. R209, R25: the cross-lane moves read threads of
the cohort, and 0 elsewhere. R218, R102, R103: the root of the tree over the cohort's values in every selected thread; the running
results of a scan. R102: the tree: no leaf gives nothing, one leaf itself, and two halves of equal length 2^k combine at the root. -/
def Obligations.VectorMovesAndLaneReductions : Prop :=
  ((∀ (f : A4) (s : State) (v : View) (r : Nat), s.view = some v → v.Steady → v.VDst f.d → v.Src f.a → v.Src f.b →
    opd f.c = .m r → (v.g.mreg r).bad = false → v.Pred f.p →
    Does s v (.vSel f) 2 (v.writeV v.g (regNo f.d) (v.sel f.p)
      (fun l => if (v.mask r).getLsbD l = true then v.r32 .word f.a l else v.r32 .word f.b l) .g)) ∧
  (∀ (f : AI) (s : State) (v : View), s.view = some v → v.Steady → v.VDst f.d →
    Does s v (.vMovi f) 1 (v.writeV v.g (regNo f.d) v.c.lanes (fun _ => BitVec.ofInt 32 f.imm.toInt) .u)) ∧
  (∀ (f : AL) (s : State) (v : View), s.view = some v → v.Steady → v.VDst f.d → v.Pred f.p →
    Does s v (.vLi f) 2 (v.writeV v.g (regNo f.d) (v.sel f.p) (fun _ => f.imm) .u)) ∧
  ∀ (f : A3) (s : State) (v : View), s.view = some v → v.Steady → v.VDst f.d → v.Pred f.p →
    let gives := fun (i : Instr) (x : Nat → W32) (t : Tag) => Does s v i 1 (v.writeV v.g (regNo f.d) (v.sel f.p) x t)
    (v.Src f.a → gives (.vMov f) (fun l => v.r32 .word f.a l) (v.tag f.a) ∧
      gives (.vGeneral f) (fun l => v.r32 .word f.a l) .g) ∧
    (v.Src f.a → v.Src f.b → gives (.vIota f)
      (fun l => BitVec.ofNat 32 ((v.r32 .word f.a l).toNat + l * (v.r32 .word f.b l).toNat))
      (if v.tag f.a = .u ∧ v.tag f.b = .u then .a else .g)) ∧
    (v.srcOk f.a = true → (v.helping = true → v.foreign f.a 1 = false) →
      gives (.vTagof f) (fun _ => match v.tag f.a with | .u => 0 | .a => 1 | .g => 2) .u)) ∧
  ((∀ (f : A3) (s : State) (v : View), s.view = some v → v.Steady → v.Home → v.VDst f.d → v.Src f.a → v.Pred f.p →
    let from_ := fun (k : Nat) => if k < v.g.width ∧ v.c.lanes.getLsbD k = true then v.r32 .word f.a k else 0
    let gives := fun (i : Instr) (sel : Lanes) (x : Nat → W32) (t : Tag) => Does s v i 1 (v.writeV v.g (regNo f.d) sel x t)
    (v.Src f.b → gives (.vShuf f) (v.sel f.p) (fun l => from_ ((v.r32 .word f.b l).toNat % 128)) .g) ∧
    (v.Uni f.b →
      let k := (v.r32 .word f.b v.lane0).toNat % 128
      gives (.vBcast f) (v.sel f.p) (fun _ => from_ k) .u ∧
      ∃ one : Lanes, (∀ l < 64, one.getLsbD l = true ↔ l = k ∧ (v.sel f.p).getLsbD k = true) ∧
        gives (.vWrlane f) one (fun l => v.r32 .word f.a l) .g)) ∧
  ∀ (f : AI) (s : State) (v : View), s.view = some v → v.Steady → v.Home → v.VDst f.d → v.Src f.a →
    ∃ x : Nat → W32, Does s v (.vRot f) 1 (v.writeV v.g (regNo f.d) v.c.lanes x .g) ∧
      ∀ j < v.lanes.length, ∃ k < v.lanes.length, ((k : Int) - j - f.imm.toInt) % v.lanes.length = 0 ∧
        x ((v.lanes[j]?).getD 0) = v.r32 .word f.a ((v.lanes[k]?).getD 0)) ∧
  (∀ (f : A4) (s : State) (v : View), s.view = some v → v.Steady → v.Home → v.VDst f.d → v.Src f.a → v.Pred f.p →
    let leaves := (List.range v.g.width).map fun l => if v.c.lanes.getLsbD l = true then some (v.r32 .word f.a l) else none
    let root := fun (k : RedKind) => (treeReduce (redNode k f.ty.toNat) leaves).getD 0
    let gives := fun (i : Instr) (x : Nat → W32) (t : Tag) => Does s v i 2 (v.writeV v.g (regNo f.d) (v.sel f.p) x t)
    gives (.vRsum f) (fun _ => root .sum) .u ∧ gives (.vRmax f) (fun _ => root .max) .u ∧
    gives (.vRmin f) (fun _ => root .min) .u ∧
    ∃ x : Nat → W32, gives (.vScan f) x .g ∧
      let op := redNode (if f.imm.toNat % 4 = 0 then .sum else if f.imm.toNat % 4 = 1 then .max else .min) f.ty.toNat
      ∀ j < v.lanes.length, x ((v.lanes[j]?).getD 0) =
        if j = 0 then v.r32 .word f.a ((v.lanes[j]?).getD 0)
        else op (x ((v.lanes[j - 1]?).getD 0)) (v.r32 .word f.a ((v.lanes[j]?).getD 0))) ∧
  (∀ (α : Type) (op : α → α → α) (k : Nat) (l r : List (Option α)), l.length = 2 ^ k → r.length = 2 ^ k →
    treeReduce op (l ++ r) = match treeReduce op l, treeReduce op r with
      | none, y => y
      | x, none => x
      | some x, some y => some (op x y))

/-- R210, R211: the f32 instructions give, in every selected thread, the rounded result of their operation on its operands. R212: the
packed 16-bit forms round each element by itself, in f16 or bf16 by TY and in the mode RM. R213 to R217: conversions, packing,
unpacking and random numbers, per thread, with the immediates their entries allow. -/
def Obligations.VectorFloatsAndConversions : Prop :=
  ((∀ (f : A3) (s : State) (v : View), s.view = some v → v.Steady → v.VDst f.d → v.Src f.a → v.Pred f.p →
    let gives := fun (i : Instr) (x : W32 → W32) =>
      Does s v i 1 (v.writeV v.g (regNo f.d) (v.sel f.p) (fun l => x (v.r32 .word f.a l)) (tagAll [v.tag f.a]))
    (gives (.vFrcp f) (fdiv 0x3F800000#32) ∧ gives (.vFrsq f) frsq ∧ gives (.vFsqrt f) fsqrt ∧ gives (.vFexp2 f) fexp2 ∧
      gives (.vFlog2 f) flog2) ∧
    (v.Src f.b →
      let gives := fun (i : Instr) (x : W32 → W32 → W32) => Does s v i 1 (v.writeV v.g (regNo f.d) (v.sel f.p)
        (fun l => x (v.r32 .word f.a l) (v.r32 .word f.b l)) (tagAll [v.tag f.a, v.tag f.b]))
      gives (.vFadd f) fadd ∧ gives (.vFsub f) (fun a b => fadd a (b ^^^ 0x80000000#32)) ∧ gives (.vFmul f) fmul ∧
      gives (.vFmin f) fmin ∧ gives (.vFmax f) fmax ∧ gives (.vFdiv f) fdiv ∧
      (v.isBad f.d 1 = false → Does s v (.vFma f) 1 (v.writeV v.g (regNo f.d) (v.sel f.p)
        (fun l => ffma .rne false (v.r32 .word f.a l) (v.r32 .word f.b l) (v.r32 .word f.d l))
        (tagAll [v.tag f.a, v.tag f.b, v.tag f.d]))))) ∧
  ∀ (f : A4) (s : State) (v : View), s.view = some v → v.Steady → v.VDst f.d → v.Src f.a → v.Src f.b → v.Src f.c → v.Pred f.p →
    let gives := fun (i : Instr) (x : W32 → W32 → W32 → W32) => Does s v i 2 (v.writeV v.g (regNo f.d) (v.sel f.p)
      (fun l => x (v.r32 .word f.a l) (v.r32 .word f.b l) (v.r32 .word f.c l)) (tagAll [v.tag f.a, v.tag f.b, v.tag f.c]))
    gives (.vFma4 f) (ffma (RM.ofField f.rm.toNat) (f.sat == 1)) ∧ gives (.vFclamp f) (fun a b c => fmin (fmax a b) c)) ∧
  (∀ (f : A4) (s : State) (v : View), s.view = some v → v.Steady → v.VDst f.d → v.Src f.a → v.Src f.b → v.Pred f.p →
    f.ty = 3 ∨ f.ty = 4 →
    let t := if f.ty = 3 then f16 else bf16
    let k : Col := if f.ty = 3 then .hf else .bf
    let rm := RM.ofField f.rm.toNat
    let el := fun (w : W32) (e : Nat) => t.decode (w.toNat / 2 ^ (16 * e) % 2 ^ 16)
    let gives := fun (i : Instr) (srcs : List Code) (x : (Nat → FVal) → (Nat → FVal) → (Nat → FVal) → Nat → FVal) =>
      ∃ out : Nat → W32,
        (∀ l, ∀ e < 2, (out l).toNat / 2 ^ (16 * e) % 2 ^ 16 = t.encode rm (f.sat == 1)
          (x (el (v.r32 k f.a l)) (el (v.r32 k f.b l)) (el (v.r32 k f.c l)) e) % 2 ^ 16) ∧
        Does s v i 2 (v.writeV v.g (regNo f.d) (v.sel f.p) out (tagAll (srcs.map v.tag)))
    gives (.vHadd f) [f.a, f.b] (fun a b _ e => FVal.add rm (a e) (b e)) ∧
    gives (.vHmul f) [f.a, f.b] (fun a b _ e => FVal.mul (a e) (b e)) ∧
    (v.Src f.c → gives (.vHfma f) [f.a, f.b, f.c] (fun a b c e => FVal.add rm (FVal.mul (a e) (b e)) (c e)))) ∧
  ((∀ (f : A4) (s : State) (v : View), s.view = some v → v.Steady → v.VDst f.d → v.Src f.a → v.Pred f.p →
    let rm := RM.ofField f.rm.toNat
    let e := tyBits f.ty.toNat
    let put := fun (x : Nat → W32) (srcs : List Code) => v.writeV v.g (regNo f.d) (v.sel f.p) x (tagAll (srcs.map v.tag))
    Does s v (.vCvt f) 2 (put (fun l => convert (f.imm.toNat % 16) f.ty.toNat rm (f.sat == 1) (v.r32 .word f.a l)) [f.a]) ∧
    (v.Src f.b → 1 ≤ f.imm.toNat % 32 → f.imm.toNat % 32 ≤ 24 → Does s v (.vCvtSr f) 2 (put (fun l => convertSr f.ty.toNat
      (f.sat == 1) (v.r32 .word f.a l) (v.r32 .word f.b l) (f.imm.toNat % 32)) [f.a, f.b])) ∧
    (v.Src f.b → v.isBad f.d 1 = false → 2 * e * (f.imm.toNat % 8 + 1) ≤ 32 → ∃ out : Nat → W32,
      (∀ l, ∀ k < 32, (out l).getLsbD k =
        let sh := 2 * e * (f.imm.toNat % 8)
        if k < sh ∨ sh + 2 * e ≤ k then (v.r32 .word f.d l).getLsbD k
        else if k < sh + e then (convert 2 f.ty.toNat rm (f.sat == 1) (v.r32 .word f.a l)).getLsbD (k - sh)
        else (convert 2 f.ty.toNat rm (f.sat == 1) (v.r32 .word f.b l)).getLsbD (k - sh - e)) ∧
      Does s v (.vPack f) 2 (put out [f.a, f.b, f.d])) ∧
    ((f.imm.toNat % 8 + 1) * e ≤ 32 → ∃ out : Nat → W32,
      (∀ l, let x := (v.r32 .word f.a l).toNat / 2 ^ (f.imm.toNat % 8 * e) % 2 ^ e
        out l = match intTy f.ty.toNat with
          | some (signed, _) => BitVec.ofInt 32 (if signed = true ∧ 2 ^ (e - 1) ≤ x then x - 2 ^ e else x)
          | none => convert f.ty.toNat 2 .rne false (BitVec.ofNat 32 x)) ∧
      Does s v (.vUnpack f) 2 (put out [f.a]))) ∧
  ∀ (f : A3) (s : State) (v : View), s.view = some v → v.Steady → v.VDst f.d → v.Src f.a → v.Src f.b → v.Pred f.p →
    let draw := fun (key : W64) => v.writeV v.g (regNo f.d) (v.sel f.p) (fun l => rand key (v.r32 .word f.b l) l v.g.id.grp) .g
    (∀ r, opd f.a = .s r → Does s v (.vRnd f) 1 (draw (v.g.sreg r).val)) ∧
    (f.a = 0x70 → Does s v (.vRnd f) 1 (draw v.g.randkey)))

/-- R219, R220, R104, R105: a witness reduction writes each selected thread's result and replaces its witness register: the bytes of
the selected threads, 0xFF for the others. R104: the maximum of integer terms and the index of its first occurrence; R105: the
saturating sum of two. R222, R106: `v.adj` on a live witness register of its stamp and window routes *dy* to the window; without ACC
it consumes the register, with ACC it adds in the threads whose value is not 0 (nor −0) and keeps it. R360: where the register is not
one it may use, it raises WSTALE or WSHAPE. -/
def Obligations.WitnessInstructions : Prop :=
  (∀ (f : A4) (s : State) (v : View) (r : Nat), s.view = some v → v.Steady → v.VDst f.d → opd f.a = .v r → v.Pred f.p →
    let n := f.imm.toNat % 16 + 1
    let wk := f.imm.toNat / 16 % 4
    let terms := fun (l : Nat) => (List.range n).map fun j => v.elem (r + j) l
    let gives := fun (i : Instr) (op : Nat) (out : Nat → W32 × Nat) => ∃ bytes : List Byte, bytes.length = v.g.width ∧
      (∀ l < v.g.width, bytes[l]? = some (if (v.sel f.p).getLsbD l = true then BitVec.ofNat 8 (out l).2 else 0xFF)) ∧
      Does s v i 2 ((v.writeV v.g (regNo f.d) (v.sel f.p) (fun l => (out l).1) .g).putWitness wk
        ⟨.live, op, n - 1, f.ty.toNat, f.imm.toNat / 128, bytes, false⟩)
    (v.Block f.a n → gives (.vWmax f) 0 (fun l => witnessOf 0 f.ty.toNat (terms l) 0 0) ∧
      gives (.vWmin f) 1 (fun l => witnessOf 1 f.ty.toNat (terms l) 0 0) ∧
      gives (.vWmed f) 2 (fun l => witnessOf 2 f.ty.toNat (terms l) 0 0) ∧
      gives (.vWsat f) 4 (fun l => saturatingSum f.ty.toNat (terms l))) ∧
    (n = 1 → v.Src f.a → v.Src f.b → v.Src f.c →
      gives (.vWclamp f) 3 (fun l => witnessOf 3 f.ty.toNat (terms l) (v.r32 .word f.b l) (v.r32 .word f.c l)))) ∧
  ((∀ (l : List W32) (lo hi : W32), l ≠ [] → ∃ j < l.length, witnessOf 0 0 l lo hi = ((l[j]?).getD 0, j) ∧
    (∀ k < l.length, ((l[k]?).getD 0).toInt ≤ ((l[j]?).getD 0).toInt) ∧
    ∀ k < j, ((l[k]?).getD 0).toInt < ((l[j]?).getD 0).toInt) ∧
  (∀ (l : List W32) (lo hi : W32), l ≠ [] → ∃ j < l.length, witnessOf 1 0 l lo hi = ((l[j]?).getD 0, j) ∧
    (∀ k < l.length, ((l[j]?).getD 0).toInt ≤ ((l[k]?).getD 0).toInt) ∧
    ∀ k < j, ((l[j]?).getD 0).toInt < ((l[k]?).getD 0).toInt) ∧
  (∀ t lo hi : W32, lo.toInt ≤ hi.toInt → witnessOf 3 0 [t] lo hi =
    if t.toInt < lo.toInt then (lo, 1) else if hi.toInt < t.toInt then (hi, 2) else (t, 0)) ∧
  ∀ a b : W32, witnessOf 4 0 [a, b] 0 0 =
    if a.toInt + b.toInt < -2 ^ 31 then (BitVec.ofInt 32 (-2 ^ 31), 2)
    else if 2 ^ 31 - 1 < a.toInt + b.toInt then (BitVec.ofInt 32 (2 ^ 31 - 1), 2) else (BitVec.ofInt 32 (a.toInt + b.toInt), 0)) ∧
  (∀ (f : A4) (s : State) (v : View) (r : Nat), s.view = some v → v.Steady → opd f.d = .v r → v.Src f.a → v.Pred f.p →
    let n := f.imm.toNat % 16 + 1
    let wk := f.imm.toNat / 16 % 4
    let w := v.g.witness wk
    let val := fun (j l : Nat) =>
      let b := ((w.bytes[l]?).getD 0xFF).toNat
      if b ≠ 0xFF ∧ (if w.op ≤ 2 then b = j else b = 0) then v.r32 .word f.a l else 0
    r + n ≤ v.g.vregs → v.Free f.d n → w.bad = false →
    (w.st = .live → w.stamp = f.imm.toNat / 128 → w.nm1 = n - 1 →
      (f.imm.getLsbD 6 = false →
        Does s v (.vAdj f) 2 (((List.range n).foldl (fun g j => v.writeV g (r + j) (v.sel f.p) (val j) .g) v.g).putWitness wk
          { w with st := .consumed })) ∧
      (f.imm.getLsbD 6 = true → v.isBad f.d n = false → v.g.width ≤ 64 → ∃ sel : Nat → Lanes,
        (∀ j, ∀ l < 64, (sel j).getLsbD l = true ↔ l < v.g.width ∧ (v.sel f.p).getLsbD l = true ∧ (val j l).toNat % 2 ^ 31 ≠ 0) ∧
        Does s v (.vAdj f) 2 ((List.range n).foldl (fun g j =>
          v.writeV g (r + j) (sel j) (fun l => fadd (v.elem (r + j) l) (val j l)) .g) v.g))) ∧
    ((f.imm.getLsbD 6 = true → v.isBad f.d n = false) → (w.st = .empty → exec (.vAdj f) s = .next (s.raiseAt v codeWSTALE 1 0 0)) ∧
      (w.st = .consumed → exec (.vAdj f) s = .next (s.raiseAt v codeWSTALE 2 0 0)) ∧
      (w.st = .live → w.stamp ≠ f.imm.toNat / 128 → exec (.vAdj f) s = .next (s.raiseAt v codeWSTALE 3 0 0)) ∧
      (w.st = .live → w.stamp = f.imm.toNat / 128 → w.nm1 ≠ n - 1 →
        exec (.vAdj f) s = .next (s.raiseAt v codeWSHAPE 1 0 0))))

/-- R56, R58: a tag never lies. While every register tagged U holds one value in all threads, and every register tagged A an
arithmetic progression over the home lanes, no instruction of class V ends that. (A helper body's cohort is one thread, R40.) -/
def Obligations.TagsTellTheTruth : Prop :=
  ∀ (i : Instr) (w0 : W32) (w1 : Option W32) (s t : State) (v : View) (g : Group), encode i = some (.v, w0, w1) →
    s.view = some v → v.g.width ≤ 64 → (v.helping = true → ∃ l < v.g.width, v.c.lanes.getLsbD l = false) → v.g.Truthful → exec i s = .next t →
    t.group? v.g.id = some g → g.Truthful

/-- R199: a write of a v register reaches the selected threads alone, with the tag of R58, and no other register. R176: a 64-bit
result in an s register, whole; in a v register, its low 32 bits in every thread of the cohort, tagged U where that is the whole
group. -/
def Obligations.RegisterWrites : Prop :=
  (∀ (g : Group) (r : Nat) (sel : Lanes) (x : Nat → W32) (t : Tag), r < g.v.length → sel ≠ 0 →
    let g' := g.setV r sel x t
    (∀ l < g.width, g'.elem r l = if sel.getLsbD l = true then x l else g.elem r l) ∧
    (g'.vreg r).tag = (if sel = allLanes g.width then t else .g) ∧ (g'.vreg r).full = (g.vreg r).full ∧
    (∀ q, q ≠ r → g'.vreg q = g.vreg q) ∧ g' = { g with v := g'.v }) ∧
  (∀ (v : View) (g : Group) (d : Code) (x : W64), v.Home →
    (∀ r, opd d = .s r → r < g.s.length →
      let g' := v.writeD g d x
      g'.sreg r = ⟨x, true, false⟩ ∧ (∀ q, q ≠ r → g'.sreg q = g.sreg q) ∧ g' = { g with s := g'.s }) ∧
    (∀ r, opd d = .v r → r < g.v.length → v.c.lanes ≠ 0 →
      let g' := v.writeD g d x
      (∀ l < g.width, v.c.lanes.getLsbD l = true → g'.elem r l = BitVec.ofNat 32 x.toNat) ∧
      (∀ l < g.width, v.c.lanes.getLsbD l = false → g'.elem r l = g.elem r l) ∧
      (g'.vreg r).tag = (if v.c.lanes = allLanes g.width then .u else .g) ∧
      (∀ q, q ≠ r → g'.vreg q = g.vreg q) ∧ g' = { g with v := g'.v }))

/-- R85, R90: the sum and the product of two finite values are exact before they are rounded; NaN operands, ∞ − ∞ and 0 × ∞ give the
canonical NaN. R89, R90: an exact value below the overflow threshold becomes, under RNE, the f32 value nearest to it. -/
def Obligations.FloatRounding : Prop :=
  ((∀ a b : W32, (fv a).isNan = true ∨ (fv b).isNan = true →
    fadd a b = 0x7FC00000#32 ∧ fsub a b = 0x7FC00000#32 ∧ fmul a b = 0x7FC00000#32 ∧ fdiv a b = 0x7FC00000#32) ∧
  (∀ (a b c : W32) (rm : RM) (sat : Bool), (fv a).isNan = true ∨ (fv b).isNan = true ∨ (fv c).isNan = true →
    ffma rm sat a b c = 0x7FC00000#32) ∧
  (∀ (rm : RM) (x y : Bool), x ≠ y → FVal.add rm (.inf x) (.inf y) = .nan) ∧
  (∀ (x y : Bool) (e : Int), FVal.mul (.inf x) (.fin y 0 e) = .nan ∧ FVal.mul (.fin y 0 e) (.inf x) = .nan) ∧
  (∀ (rm : RM) (x y : Bool) (m n : Nat) (d e : Int), (FVal.add rm (.fin x m d) (.fin y n e)).rat =
    (FVal.fin x m d).rat + (FVal.fin y n e).rat) ∧
  (∀ (x y : Bool) (m n : Nat) (d e : Int), (FVal.mul (.fin x m d) (.fin y n e)).rat =
    (FVal.fin x m d).rat * (FVal.fin y n e).rat) ∧
  ∀ (rm : RM) (x : Bool) (m : Nat) (e : Int), FVal.add rm (.fin x m e) (FVal.fin x m e).flip = .fin (rm == .rdn) 0 0) ∧
  (∀ (b : Bool) (m : Nat) (e : Int), |(FVal.fin b m e).rat| < (2 ^ 25 - 1) * 2 ^ 103 →
    ∃ (y : Bool) (n : Nat) (d : Int), fv (fw .rne false (.fin b m e)) = .fin y n d ∧
      ∀ (w : W32) (z : Bool) (k : Nat) (c : Int), fv w = .fin z k c →
        |(FVal.fin y n d).rat - (FVal.fin b m e).rat| ≤ |(FVal.fin z k c).rat - (FVal.fin b m e).rat|)

/-! ## Class M (10_memory_sync R225 to R241, R286; 05_memory R107 to R123; 07_ordering R155 to R174) -/

/-- The loads: instruction, fields, words, bytes, sign extension, acquire (R228, R230). -/
noncomputable def loadForms (m : MS) (f : ML) : List (Instr × ML × Nat × Nat × Bool × Bool) :=
  [(.ldN8Ms m, msAsMl m, 1, 1, false, false), (.ldN8Ml f, f, 2, 1, false, false),
   (.ldI8Ms m, msAsMl m, 1, 1, true, false), (.ldI8Ml f, f, 2, 1, true, false),
   (.ldN16Ms m, msAsMl m, 1, 2, false, false), (.ldN16Ml f, f, 2, 2, false, false),
   (.ldI16Ms m, msAsMl m, 1, 2, true, false), (.ldI16Ml f, f, 2, 2, true, false),
   (.ldB32Ms m, msAsMl m, 1, 4, false, false), (.ldB32Ml f, f, 2, 4, false, false),
   (.ldB64Ms m, msAsMl m, 1, 8, false, false), (.ldB64Ml f, f, 2, 8, false, false),
   (.ldB128Ms m, msAsMl m, 1, 16, false, false), (.ldB128Ml f, f, 2, 16, false, false),
   (.ldAcqB32Ms m, msAsMl m, 1, 4, false, true), (.ldAcqB32Ml f, f, 2, 4, false, true),
   (.ldAcqB64Ms m, msAsMl m, 1, 8, false, true), (.ldAcqB64Ml f, f, 2, 8, false, true)]
/-- The stores: instruction, fields, words, bytes (R228, R229). -/
noncomputable def storeForms (m : MS) (f : ML) : List (Instr × ML × Nat × Nat) :=
  [(.stB8Ms m, msAsMl m, 1, 1), (.stB8Ml f, f, 2, 1), (.stB16Ms m, msAsMl m, 1, 2), (.stB16Ml f, f, 2, 2),
   (.stB32Ms m, msAsMl m, 1, 4), (.stB32Ml f, f, 2, 4), (.stB64Ms m, msAsMl m, 1, 8), (.stB64Ml f, f, 2, 8),
   (.stB128Ms m, msAsMl m, 1, 16), (.stB128Ml f, f, 2, 16)]
/-- The store releases (R230). -/
noncomputable def storeReleaseForms (m : MS) (f : ML) : List (Instr × ML × Nat × Nat) :=
  [(.stRelB32Ms m, msAsMl m, 1, 4), (.stRelB32Ml f, f, 2, 4), (.stRelB64Ms m, msAsMl m, 1, 8), (.stRelB64Ml f, f, 2, 8)]
/-- The returning atomics: instruction, fields, words, bytes, operation (R231, R232). -/
noncomputable def atomicForms (m : MS) (f : ML) : List (Instr × ML × Nat × Nat × AtOp) :=
  [(.atAddB32Ms m, msAsMl m, 1, 4, .add), (.atAddB32Ml f, f, 2, 4, .add), (.atAddB64Ms m, msAsMl m, 1, 8, .add),
   (.atAddB64Ml f, f, 2, 8, .add), (.atMinI32Ms m, msAsMl m, 1, 4, .minI), (.atMinI32Ml f, f, 2, 4, .minI),
   (.atMaxI32Ms m, msAsMl m, 1, 4, .maxI), (.atMaxI32Ml f, f, 2, 4, .maxI), (.atMinN32Ms m, msAsMl m, 1, 4, .minN),
   (.atMinN32Ml f, f, 2, 4, .minN), (.atMaxN32Ms m, msAsMl m, 1, 4, .maxN), (.atMaxN32Ml f, f, 2, 4, .maxN),
   (.atAndB32Ms m, msAsMl m, 1, 4, .and), (.atAndB32Ml f, f, 2, 4, .and), (.atOrB32Ms m, msAsMl m, 1, 4, .or),
   (.atOrB32Ml f, f, 2, 4, .or), (.atXorB32Ms m, msAsMl m, 1, 4, .xor), (.atXorB32Ml f, f, 2, 4, .xor),
   (.atXchgB32Ms m, msAsMl m, 1, 4, .xchg), (.atXchgB32Ml f, f, 2, 4, .xchg), (.atXchgB64Ms m, msAsMl m, 1, 8, .xchg),
   (.atXchgB64Ml f, f, 2, 8, .xchg), (.atFaddF32Ms m, msAsMl m, 1, 4, .fadd), (.atFaddF32Ml f, f, 2, 4, .fadd),
   (.atCasB32 f, f, 2, 4, .cas), (.atCasB64 f, f, 2, 8, .cas)]
/-- The reductions: instruction, fields, words, operation, offset, bytes of the operand (R233, R234). -/
noncomputable def reductionForms (m : MS) (f : ML) : List (Instr × ML × Nat × RedOp × W64 × Nat) :=
  [(.redAddB32Ms m, msAsMl m, 1, .add32, 0, 4), (.redAddB32Ml f, f, 2, .add32, f.offset, 4),
   (.redAddB64Ms m, msAsMl m, 1, .add64, 0, 8), (.redAddB64Ml f, f, 2, .add64, f.offset, 8),
   (.redFaddF32Ms m, msAsMl m, 1, .fadd, 0, 4), (.redFaddF32Ml f, f, 2, .fadd, f.offset, 4),
   (.redHaddBf16x2Ms m, msAsMl m, 1, .haddBf, 0, 4), (.redHaddBf16x2Ml f, f, 2, .haddBf, f.offset, 4),
   (.redFmaxF32Ms m, msAsMl m, 1, .fmax, 0, 4), (.redFmaxF32Ml f, f, 2, .fmax, f.offset, 4),
   (.redFminF32Ms m, msAsMl m, 1, .fmin, 0, 4), (.redFminF32Ml f, f, 2, .fmin, f.offset, 4),
   (.redMaxI32Ms m, msAsMl m, 1, .maxI, 0, 4), (.redMaxI32Ml f, f, 2, .maxI, f.offset, 4),
   (.redXadd f, f, 2, .xadd (f.off.extractLsb' 16 6).toNat, (f.off.extractLsb' 0 16).signExtend 64, 4)]

/-- Another state that differs in the caches of pairs, in the operations and groups named, and in the next number. -/
def IssuedOne (s t : State) (v : View) (o : MemOp) (g : Group) (words : Nat) : Prop :=
  o.id = s.nextId ∧ o.gid = v.g.id ∧ o.cid = v.c.cid ∧ o.asid = v.g.asid ∧ o.round = none ∧ o.hold = none ∧
  o.org = v.c.origin v.iss.w0 v.iss.w1 ∧
  t = { s.putGroup (g.advance v.c.cid words) with
        pairs := t.pairs
        ops := s.ops ++ [o]
        nextId := s.nextId + 1 }
/-- R108, R109, R226: the place of byte `b` of an access of home lane `i` at address `ea` of space `sp`. -/
def placeOf (s : State) (g : Group) (sp i ea b : Nat) : Loc :=
  match sp with
  | 0 => .glob ((ea + b) % 2 ^ 56)
  | 1 => .bank (s.bankOf g.id.team (ea + b)) ((ea + b) % 65536)
  | 2 => .glob (privateVa (s.launchOf g) g i (ea % 2 ^ 32 + b))
  | _ => .glob (((s.launchOf g).cbase + ea % 2 ^ 32 + b) % 2 ^ 56)
/-- The place `k` bytes on. -/
def placeOn (l : Loc) (k : Nat) : Loc :=
  match l with
  | .glob va => .glob ((va + k) % 2 ^ 56)
  | .bank b off => .bank b (off + k)

/-- R107 to R109, R155: the parts of an access cover every byte of every thread once, each byte at its place and with its byte of the
value; a naturally aligned access of at most 8 bytes in global space is one part. R61, R117, R226, R228, R230: a load issues: its
destination becomes empty, and an access of its width, track and cache policy is on its way to the places of its threads' addresses,
but for the bytes that the pair's L1 supplies. R117, R229: a store issues: it counts one on its track, and its bytes are on their way
to the places of its threads' addresses; 255 outstanding writes on the track make it wait (R328). Nothing is written to memory yet.
R230, R123, R159: a store release with nothing before it to wait for: the team's generation on its track advances, and the store
issues at once. -/
def Obligations.PlainAccessesIssue : Prop :=
  (∀ (s : State) (g : Group) (sp n i ea d : Nat), n ∈ [1, 2, 4, 8, 16] → sp < 4 → (sp = 1 → ea % min n 16 = 0) →
    let ps := s.partsFor g sp n [(i, ea, d)]
    (∀ b < n, ∃ p ∈ ps, p.lane = i ∧ p.off ≤ b ∧ b < p.off + p.n ∧ placeOn p.loc (b - p.off) = placeOf s g sp i ea b ∧
      p.val / 256 ^ (b - p.off) % 256 = d / 256 ^ b % 256) ∧
    ps.Pairwise (fun p q => p.off + p.n ≤ q.off) ∧ (∀ p ∈ ps, p.st = .waiting ∧ p.off + p.n ≤ n ∧ 0 < p.n) ∧
    (sp = 0 → n ≤ 8 → ea % n = 0 → ps.length = 1)) ∧
  (∀ (m : MS) (f' : ML) (s : State) (v : View), s.view = some v → ∀ x ∈ loadForms m f',
    let i := x.1; let f := x.2.1; let words := x.2.2.1; let n := x.2.2.2.1; let signed := x.2.2.2.2.1; let acq := x.2.2.2.2.2
    let lanes := v.accessLanes f
    v.dataOk f n true = true → v.Free f.t (regsOf n) → v.Addr f → v.Src f.x → (isS f.t = false → v.Pred f.p) →
    (∀ l ∈ lanes, s.placeFault v.g f.sp.toNat (v.addr f true f.offset l) n (acq || f.sp == 1) = none) →
    s.accessHeld v f.track = false →
    (lanes = [] → exec i s = .next (s.pass v words)) ∧
    (lanes ≠ [] → ∃ (t : State) (o : MemOp), exec i s = .next t ∧
      IssuedOne s t v o (v.g.emptyDest o.dest) words ∧ o.trk = f.trk.toNat ∧ o.width = n ∧ o.pc = false ∧
      o.kind = (if f.sp = 3 then .const signed else .load signed acq) ∧ o.lanes = lanesFrom lanes ∧
      o.dest = v.destOf f.t n (v.uniformAddr f true && v.whole && f.p == 0) ∧ o.bypass = (f.cp == 2 || acq) ∧
      o.parts.map (fun p => (p.lane, p.off, p.n, p.loc)) =
        (s.partsFor v.g f.sp.toNat n (lanes.map fun l => (l, v.addr f true f.offset l, 0))).map
          (fun p => (p.lane, p.off, p.n, p.loc)) ∧
      ((f.cp = 2 ∨ acq = true ∨ f.sp = 1) → ∀ p ∈ o.parts, p.st = .waiting))) ∧
  (∀ (m : MS) (f' : ML) (s : State) (v : View), s.view = some v → ∀ x ∈ storeForms m f',
    let i := x.1; let f := x.2.1; let words := x.2.2.1; let n := x.2.2.2
    let lanes := v.accessLanes f
    v.storeOk f n true = true → v.Holds f.t (regsOf n) → v.Addr f → v.Src f.x → (isS f.t = false → v.Pred f.p) →
    (∀ l ∈ lanes, s.placeFault v.g f.sp.toNat (v.addr f true f.offset l) n (f.sp == 1) = none) →
    s.accessHeld v f.track = false →
    (255 ≤ v.g.count f.track → exec i s = .next s) ∧
    (v.g.count f.track < 255 → lanes = [] → exec i s = .next (s.pass v words)) ∧
    (v.g.count f.track < 255 → lanes ≠ [] → ∃ (t : State) (o : MemOp) (g : Group), exec i s = .next t ∧
      s.group? v.g.id = some g ∧ IssuedOne s t v o (g.up f.track) words ∧ o.trk = f.trk.toNat ∧ o.kind = .store ∧
      o.width = n ∧ o.pc = true ∧ o.dest = .none ∧ o.lanes = lanesFrom lanes ∧
      o.parts = s.partsFor v.g f.sp.toNat n (lanes.map fun l => (l, v.addr f true f.offset l, v.data f.t n l)))) ∧
  (∀ (m : MS) (f' : ML) (s : State) (v : View), s.view = some v → ∀ x ∈ storeReleaseForms m f',
    let i := x.1; let f := x.2.1; let words := x.2.2.1; let n := x.2.2.2
    let lanes := v.accessLanes f
    v.storeOk f n true = true → v.Holds f.t (regsOf n) → v.Addr f → v.Src f.x → (isS f.t = false → v.Pred f.p) →
    (∀ l ∈ lanes, s.placeFault v.g f.sp.toNat (v.addr f true f.offset l) n true = none) →
    s.roundHeld v.g = false → s.Drained v (oneTrack f.track) → lanes ≠ [] →
    ∃ (t : State) (o : MemOp), exec i s = .next t ∧ t.ops = s.ops ++ [o] ∧ o.id = s.nextId ∧ o.gid = v.g.id ∧
      o.trk = f.trk.toNat ∧ o.kind = .store ∧ o.width = n ∧ o.pc = true ∧ o.lanes = lanesFrom lanes ∧
      o.parts = s.partsFor v.g f.sp.toNat n (lanes.map fun l => (l, v.addr f true f.offset l, v.data f.t n l)) ∧
      t.teams = (s.advanceGens v.g.id.team (oneTrack f.track)).teams ∧ t.mem = s.mem ∧ t.hostMem = s.hostMem ∧
      (∀ id, id ≠ v.g.id → t.group? id = s.group? id) ∧
      ∀ g, s.group? v.g.id = some g → t.group? v.g.id = some ((g.up f.track).advance v.c.cid words))

/-- R231, R232: a returning atomic issues: it counts one on its track, its destination is empty, and its operation is on its way to
its threads' addresses with their operands. R233, R234, R166: a reduction whose entries fit the quadrant's stockpot places one entry
per beat that has selected threads, with each thread's address and operand; no memory is touched. That a beat without a selected
thread places none is the model's reading (log entry 116): R166 speaks of one entry per beat. R231 to R234: what the operations make
of the value in memory. -/
def Obligations.AtomicsAndReductions : Prop :=
  (∀ (m : MS) (f' : ML) (s : State) (v : View), s.view = some v → ∀ x ∈ atomicForms m f',
    let i := x.1; let f := x.2.1; let words := x.2.2.1; let n := x.2.2.2.1; let a := x.2.2.2.2
    let cas := a == .cas
    let lanes := v.accessLanes f
    (constT f.t || v.dataOk f n (!cas)) = true → v.Holds f.t (regsOf n) → v.Addr f →
    (cas = false → v.Src f.x) → (cas = true → v.casOk f n = true ∧ v.Holds f.x (regsOf n)) → (isS f.t = false → v.Pred f.p) →
    (isS f.t = true → v.Free f.t 1) →
    (∀ l ∈ lanes, s.placeFault v.g 0 (v.addr f (!cas) f.offset l) n true = none) →
    s.accessHeld v f.track = false → v.g.count f.track < 255 →
    (lanes = [] → exec i s = .next (s.pass v words)) ∧
    (lanes ≠ [] → ∃ (t : State) (o : MemOp), exec i s = .next t ∧
      IssuedOne s t v o ((v.g.up f.track).emptyDest o.dest) words ∧ o.trk = f.trk.toNat ∧ o.kind = .atomic a ∧ o.width = n ∧
      o.pc = true ∧ o.lanes = lanesFrom lanes ∧ o.dest = (if constT f.t = true then .none else v.destOf f.t n false) ∧
      o.parts = (s.partsFor v.g 0 n (lanes.map fun l => (l, v.addr f (!cas) f.offset l, v.data f.t n l))).map fun p =>
        { p with cmp := if cas = true then v.data f.x n p.lane else 0 })) ∧
  (∀ (m : MS) (f' : ML) (s : State) (v : View) (g : Group), s.view = some v → s.group? v.g.id = some g →
    ∀ x ∈ reductionForms m f',
    let i := x.1; let f := x.2.1; let words := x.2.2.1; let r := x.2.2.2.1; let off := x.2.2.2.2.1; let tn := x.2.2.2.2.2
    let lanes := v.accessLanes f
    v.storeOk f tn true = true → v.Holds f.t (regsOf tn) → v.Addr f → v.Src f.x → (isS f.t = false → v.Pred f.p) →
    (∀ l ∈ lanes, s.placeFault v.g 0 (v.addr f true off l) r.width true = none) →
    s.accessHeld v f.track = false → v.c.prog.spilled = none → s.potUsed v.g + v.g.width / 16 ≤ 256 →
    ∃ es : List Entry, Does s v i words { g with pot := g.pot ++ es } ∧
      (∀ e ∈ es, e.gid = v.g.id ∧ e.trk = f.trk.toNat ∧ e.op = r ∧ e.hold = none ∧ e.parts ≠ [] ∧
        ∃ b, ∀ p ∈ e.parts, p.1 / 16 = b ∧ p.1 ∈ lanes ∧ p.2 = (v.addr f true off p.1, v.data f.t tn p.1)) ∧
      (∀ l ∈ lanes, l / 16 < v.g.width / 16 → ∃ e ∈ es, (l, v.addr f true off l, v.data f.t tn l) ∈ e.parts)) ∧
  ((∀ m v x : Nat, m < 2 ^ 32 → v < 2 ^ 32 → x < 2 ^ 32 →
    let i := fun (n : Nat) => (BitVec.ofNat 32 n).toInt
    AtOp.add.apply 4 m v x = (m + v) % 2 ^ 32 ∧
    i (AtOp.minI.apply 4 m v x) = min (i m) (i v) ∧ i (AtOp.maxI.apply 4 m v x) = max (i m) (i v) ∧
    AtOp.minN.apply 4 m v x = min m v ∧ AtOp.maxN.apply 4 m v x = max m v ∧
    (∀ k, (AtOp.and.apply 4 m v x).testBit k = (m.testBit k && v.testBit k)) ∧
    (∀ k, (AtOp.or.apply 4 m v x).testBit k = (m.testBit k || v.testBit k)) ∧
    (∀ k, (AtOp.xor.apply 4 m v x).testBit k = (m.testBit k != v.testBit k)) ∧
    AtOp.xchg.apply 4 m v x = v ∧ AtOp.cas.apply 4 m v x = (if m = x then v else m) ∧
    AtOp.fadd.apply 4 m v x = (fadd (BitVec.ofNat 32 m) (BitVec.ofNat 32 v)).toNat ∧
    RedOp.add32.apply m v = (m + v) % 2 ^ 32 ∧
    RedOp.fmax.apply m v = (fmax (BitVec.ofNat 32 m) (BitVec.ofNat 32 v)).toNat ∧
    RedOp.fmin.apply m v = (fmin (BitVec.ofNat 32 m) (BitVec.ofNat 32 v)).toNat ∧
    i (RedOp.maxI.apply m v) = max (i m) (i v)) ∧
  (∀ m v x : Nat, m < 2 ^ 64 → v < 2 ^ 64 → x < 2 ^ 64 →
    AtOp.add.apply 8 m v x = (m + v) % 2 ^ 64 ∧ AtOp.xchg.apply 8 m v x = v ∧
    AtOp.cas.apply 8 m v x = (if m = x then v else m) ∧ RedOp.add64.apply m v = (m + v) % 2 ^ 64) ∧
  ∀ (m v f k p : Nat) (b : Bool) (e : Int), m < 2 ^ 64 → f < 64 → k < 2 ^ 24 → fv (BitVec.ofNat 32 v) = .fin b p e →
    (FVal.fin b p e).rat = k → k * 2 ^ f < 2 ^ 63 → (RedOp.xadd f).apply m v = (m + k * 2 ^ f) % 2 ^ 64)

/-- R235, R236, R123: the flush and the fences with nothing before them to wait for; a fence moves its team's generations or epoch,
and otherwise changes only its cohort's place. With an access still under way on its track, `fence.rel` waits. R286: the cache
instructions issue once nothing is outstanding on their track, and count one until every line is done. -/
def Obligations.FencesAndCacheMaintenance : Prop :=
  (∀ (f : MS) (s : State) (v : View) (g : Group), s.view = some v → s.group? v.g.id = some g →
    let trk := oneTrack f.trk.toNat
    (s.Drained v trk → v.c.prog = .none →
      Does s v (.redFlush f) 1 g ∧
      exec (.fenceRel f) s = .next ((s.advanceGens v.g.id.team trk).putGroup (g.advance v.c.cid 1))) ∧
    (s.loadsOut v.g.id trk = false → s.tracksHeld v.g v.c.cid trk = false →
      exec (.fenceAcq f) s = .next ((s.acquire v.g).pass v 1)) ∧
    (s.loadsOut v.g.id allTracks = false → s.tracksHeld v.g v.c.cid allTracks = false → v.g.quiet allTracks = true →
      exec (.fenceXt f) s = .next ((s.advanceGens v.g.id.team allTracks).putGroup
        ({ g with xt := s.tick, allAt := s.tick }.advance v.c.cid 1))) ∧
    (s.tracksHeld v.g v.c.cid trk = false → v.c.prog = .none → (g.pot.all fun e => !trk.getLsbD e.trk) = true →
      g.count f.trk.toNat ≠ 0 → exec (.fenceRel f) s = .next (s.putGroup (g.hold v.c.cid (.release trk))))) ∧
  (∀ (f : MS) (s : State) (v : View), s.view = some v → v.Home →
    ∀ x ∈ [(Instr.cacheWb f, false), (.cacheInv f, true)],
    isS f.t = true → v.Holds f.t 1 → v.uniAddr f.a = true → v.Holds f.a (addrArg (msAsMl f)).n →
    let lo := (v.rPair f.a v.lane0).toNat
    let len := (v.uni f.t).toNat
    len ≤ 2 ^ 32 → s.placeFault v.g 0 lo (max len 1) false = none →
    s.accessHeld v f.trk.toNat = false →
    (v.g.count f.trk.toNat ≠ 0 → exec x.1 s = .next s) ∧
    (v.g.count f.trk.toNat = 0 → len = 0 → exec x.1 s = .next (s.pass v 1)) ∧
    (v.g.count f.trk.toNat = 0 → 0 < len → ∃ (t : State) (o : MemOp), exec x.1 s = .next t ∧
      IssuedOne s t v o (v.g.up f.trk.toNat) 1 ∧ o.kind = .cacheOp x.2 f.cp.toNat ∧ o.lo = lo ∧ o.hi = lo + len ∧ o.pc = true ∧
      o.trk = f.trk.toNat ∧ o.pos = (if x.2 = false ∧ f.cp = 0 then lo + len else lo)))

/-- R237, R238, R239, R240: prefetch changes only caches: its pair's L1, and its line's slice with what that evicts; `discard`,
`fill`, `w.st` and `w.ld` issue, each with the bytes it will reach. A range of the scratch window issues as stores of its bytes; one
of private space begins at the place of its first byte for the cohort's lowest thread (R109). R239, R240: a witness register written
as an image and read back from it is the register: no field is lost. -/
def Obligations.RangesAndImages : Prop :=
  (∀ (m : MS) (f' : ML) (s : State) (v : View), s.view = some v →
    (∀ x ∈ [(Instr.pfMs m, msAsMl m, 1), (.pfMl f', f', 2)], v.Addr x.2.1 → v.Src x.2.1.x → v.Pred x.2.1.p →
      ∃ t, exec x.1 s = .next t ∧ t = { s.pass v x.2.2 with pairs := t.pairs, vaults := t.vaults, ctxs := t.ctxs }) ∧
    (∀ x ∈ [(Instr.discard f', false), (.fill f', true)], v.uniAddr f'.a = true → v.Holds f'.a (addrArg f').n →
      v.lenOk f'.x = true → v.Holds f'.x (match opd f'.x with | .v _ => 2 | _ => 1) → (x.2 = true → v.Uni f'.t) →
      let lo := (v.rPair f'.a v.lane0 + f'.offset).toNat
      let len := (v.rPair f'.x v.lane0).toNat
      len ≤ 2 ^ 32 → (0 < len → s.placeFault v.g f'.sp.toNat lo len false = none) →
      s.accessHeld v f'.track = false → v.g.count f'.track < 255 →
      (len = 0 → exec x.1 s = .next (s.pass v 2)) ∧
      (0 < len → f'.sp = 0 → ∃ (t : State) (o : MemOp), exec x.1 s = .next t ∧ IssuedOne s t v o (v.g.up f'.track) 2 ∧
        o.trk = f'.trk.toNat ∧ o.kind = (if x.2 = true then .fill else .discard) ∧ o.lo = lo ∧ o.hi = lo + len ∧ o.pos = lo ∧
        o.pc = true ∧ ∃ p : Part, o.parts = [p] ∧ p.loc = .glob lo ∧ p.st = .waiting ∧
          p.val = (if x.2 = true then (v.uni f'.t).toNat % 2 ^ 32 else 0)) ∧
      let pat := if x.2 = true then (v.uni f'.t).toNat % 2 ^ 32 else 0
      (0 < len → f'.sp = 1 → ∃ (t : State) (o : MemOp), exec x.1 s = .next t ∧ IssuedOne s t v o (v.g.up f'.track) 2 ∧
        o.trk = f'.trk.toNat ∧ o.kind = .store ∧ o.pc = true ∧ (∀ p ∈ o.parts, p.st = .waiting ∧ p.n ≤ 512 ∧
          ∃ a, lo ≤ a ∧ a + p.n ≤ lo + len ∧ p.loc = .bank (s.bankOf v.g.id.team a) (a % 65536)) ∧
        ∀ a, lo ≤ a → a < lo + len → ∃ p ∈ o.parts, ∃ j < p.n, j ≤ a ∧ p.val / 256 ^ j % 256 = pat / 256 ^ (a % 4) % 256 ∧
          p.loc = .bank (s.bankOf v.g.id.team (a - j)) ((a - j) % 65536) ∧ (a - j) / 65536 = a / 65536) ∧
      (0 < len → f'.sp = 2 → ∃ (t : State) (o : MemOp), exec x.1 s = .next t ∧ IssuedOne s t v o (v.g.up f'.track) 2 ∧
        o.trk = f'.trk.toNat ∧ o.kind = (if x.2 = true then .fill else .discard) ∧ o.pc = true ∧ o.lo = lo % 2 ^ 32 ∧
        o.hi = lo % 2 ^ 32 + len ∧ o.pos = o.lo ∧ ∃ p : Part, o.parts = [p] ∧ p.st = .waiting ∧ p.val = pat ∧
          p.loc = .glob (privateVa (s.launchOf v.g) v.g v.lane0 (lo % 2 ^ 32)))) ∧
    (∀ x ∈ [(Instr.wStMs m, msAsMl m, 1, true), (.wStMl f', f', 2, true), (.wLdMs m, msAsMl m, 1, false), (.wLdMl f', f', 2, false)],
      let f := x.2.1
      v.uniAddr f.a = true → v.Holds f.a (addrArg f).n → v.indexOk f.x = true → v.Holds f.x 1 →
      let k := f.t.toNat % 4
      let ea := v.addr f true f.offset v.lane0
      let n := 16 + v.g.width
      s.placeFault v.g f.sp.toNat ea n true = none → s.accessHeld v f.track = false → v.g.count f.track < 255 →
      (x.2.2.2 = true → (v.g.witness k).bad = false → (v.g.witness k).st = .live →
        ∃ (t : State) (o : MemOp) (g : Group), exec x.1 s = .next t ∧ s.group? v.g.id = some g ∧
          IssuedOne s t v o (g.up f.track) x.2.2.1 ∧
          o.kind = .unimage ∧ o.pc = true ∧
          o.parts = s.partsFor v.g f.sp.toNat n [(v.lane0, ea, imageOf v.g (v.g.witness k))]) ∧
      (x.2.2.2 = false → v.c.prog = .none → ∃ (t : State) (o : MemOp), exec x.1 s = .next t ∧ t.ops = s.ops ++ [o] ∧
        o.kind = .image ∧ o.dest = .w k ∧ t.mem = s.mem ∧ t.hostMem = s.hostMem ∧
        o.parts.map (fun p => (p.lane, p.off, p.n, p.loc)) =
          (s.partsFor v.g f.sp.toNat n [(v.lane0, ea, 0)]).map (fun p => (p.lane, p.off, p.n, p.loc)) ∧
        ∀ g, s.group? v.g.id = some g → t.group? v.g.id = some (g.hold v.c.cid (.image s.nextId))))) ∧
  (∀ (g : Group) (w : Witness), w.op < 5 → w.nm1 < 16 → w.elem < 3 → (w.op = 3 → w.nm1 = 0) → w.stamp < 512 →
    g.width ∈ [16, 32, 64] → w.bytes.length = g.width →
    imageFault g (imageOf g w) = none ∧ witnessFrom g (imageOf g w) = { w with st := .live, bad := false })

/-- R241: `fifo.push` and `fifo.pop` on one bank in FIFO mode, as far as room and words last, in ascending lane order. R241: a push
that waits for room goes on once there is room for all its lanes, and appends their values. -/
def Obligations.Fifos : Prop :=
  (∀ (m : MS) (f' : ML) (s : State) (v : View), s.view = some v →
    ∀ x ∈ [(Instr.fifoPushMs m, msAsMl m, 1, false), (.fifoPushMl f', f', 2, false), (.fifoPopMs m, msAsMl m, 1, true),
      (.fifoPopMl f', f', 2, true)],
    let f := x.2.1; let words := x.2.2.1; let pop := x.2.2.2
    let lanes := v.selected f.p
    let ea := fun l => v.addr f true f.offset l
    ∀ (r n : Nat), opd f.t = .v r → v.vDst f.t = true → v.Holds f.t 1 → v.Addr f → v.Src f.x → v.Pred f.p → v.Home →
      v.c.prog = .none → (∀ l ∈ lanes, s.placeFault v.g 1 (ea l) 4 true = none ∧ ea l / 65536 = n) →
      let b := s.bankOf v.g.id.team (n * 65536)
      let k := pairOf v.g.core
      let bank := (s.pair k).bank b
      bank.mode = .fifo → bank.switch = none → bank.bad = [] →
      (lanes = [] → exec x.1 s = .next (s.pass v words)) ∧
      (pop = false → lanes ≠ [] → bank.fifo.length + lanes.length ≤ 16384 →
        exec x.1 s = .next ((s.putPair k ((s.pair k).putBank b
          { bank with fifo := bank.fifo ++ lanes.map fun l => v.elem r l })).pass v words)) ∧
      (pop = true → lanes ≠ [] → lanes.length ≤ bank.fifo.length → v.g.width ≤ 64 →
        ∃ (val : Nat → W32), (∀ j < lanes.length, val ((lanes[j]?).getD 0) = (bank.fifo[j]?).getD 0) ∧
          exec x.1 s = .next (((s.putPair k ((s.pair k).putBank b { bank with fifo := bank.fifo.drop lanes.length })).putGroup
            ((v.g.setV r (lanesFrom lanes) val .g).fillV r)).pass v words)) ∧
      (pop = true → lanes ≠ [] → bank.fifo = [] →
        exec x.1 s = .next ((s.putPair k ((s.pair k).putBank b bank)).putGroup
          ((v.g.emptyV r .g).hold v.c.cid (.fifo f words true b lanes []))))) ∧
  (∀ (s : State) (v : View) (f : ML) (words b : Nat) (rest : List Nat) (got : List (Nat × W32)),
    (s.focus v.g.id v.c.cid).view = some v → v.c.prog = .fifo f words false b rest got → v.c.stopped = false → v.g.slots ≠ [] →
    rest ≠ [] →
    let k := pairOf v.g.core
    let bank := (s.pair k).bank b
    bank.fifo.length + rest.length ≤ 16384 →
    exec (.fifoResume v.g.id v.c.cid) s = .next ((s.putPair k ((s.pair k).putBank b
      { bank with fifo := bank.fifo ++ rest.map fun l => (assoc l got).getD 0 })).pass v words))

/-! ## Class X: matrices (11_matrix_row R249 to R263; 02_execution R46 to R48; 04_arithmetic R95 to R101) -/

/-- R46, R253, R255, R256: a matrix instruction enters the rendezvous latch with its rows as they stand, or as the reuse latch holds
them, and the consist it was issued under; its group stands there. R47, R48, R256: the latched instructions start together once their
platforms' writes are over, and their cohorts go on; a running operation ends after its cycles and each group's tile takes its
contributions. R82, R95, R96, R99, R101, R250, R251, R253: an `mma` of 8-bit integers that takes effect on a cleared tile leaves in
element (i, j) the exact sum of the 64 products of its row's and its column's elements, signed (i8) or natural (n8) as FMT says; a row
of no thread of its cohort stays 0. R257, R258, R355: a consist of 2 to 6 groups of the core, the own one among them, is formed under
a free point, which counts them from then on; the consist of a group is dissolved and its point takes back its count. -/
def Obligations.MatrixOperationsAndConsists : Prop :=
  (∀ (f : XM) (s : State) (v : View) (t : Team), s.view = some v → v.Home → v.c.prog ≠ .latch → s.team? v.g.id.team = some t →
    f.c.toNat < v.g.acc → f.pl.toNat < v.g.plat → (v.g.tile f.c.toNat).bad = false →
    ∀ x ∈ [(Instr.mma f, 0, 16), (.mmaQ f, 1, 17), (.mmaMx f, 2, 17)],
      let kind := x.2.1; let r := x.2.2
      f.a.toNat + r ≤ v.g.vregs → (kind ≠ 0 → f.spl.toNat < v.g.plat) → lastGroup (matFmt kind f.fmt.toNat) f ≤ 15 →
      latchMatch kind f s v = true →
      (latchHit kind f v = none → v.isEmpty (f.a.setWidth 7) r = false ∧ v.isBad (f.a.setWidth 7) r = false) →
      let rows := (latchHit kind f v).getD (v.lanes.map fun i => (i, (List.range r).map fun j => v.elem (f.a.toNat + j) i))
      exec x.1 s = .next ((s.putGroup { v.g.hold v.c.cid .latch with
          latch := if f.ru = 1 then some ⟨f.a.toNat, r, v.c.lanes, rows⟩ else none }).putTeam
        { t with latched := t.latched ++ [⟨v.g.id.grp, v.c.cid, kind, f, rows, v.c.origin v.iss.w0 v.iss.w1,
          (t.consistOf v.g.core v.g.id.grp).map (·.point)⟩] })) ∧
  ((∀ (s : State) (gid : GroupId) (t : Team) (g : Group) (x : MatInstr) (l : List MatInstr) (cst : Option Consist),
    s.team? gid.team = some t → s.group? gid = some g → t.ready g.core gid.grp = some (x :: l, cst) →
    (∀ y ∈ x :: l, ∀ n ∈ y.plats, ∀ p, s.plat? gid.team g.core n = some p → p.writes = [] ∧ p.bad = false) →
    (s.core g.core).mirror = false →
    ∃ u, exec (.jointOperationStart gid) s = .next u ∧
      (u.core g.core).runs = (s.core g.core).runs ++ [⟨s.nextId, gid.team, x :: l, s.platBytesOf gid.team g.core x.f.pl.toNat,
        s.platBytesOf gid.team g.core x.f.spl.toNat, s.now g.core, cst.map (·.point)⟩] ∧
      u.team? gid.team = some { t with latched := t.latched.filter fun y => !(x :: l).any fun z => z.grp == y.grp } ∧
      (∀ id, (∀ y ∈ x :: l, id ≠ ⟨gid.team, y.grp⟩) → u.group? id = s.group? id) ∧ u.mem = s.mem ∧ u.hostMem = s.hostMem ∧
      (l = [] → x.grp = gid.grp → u.group? gid = some (g.advance x.cid 1))) ∧
  ∀ (s : State) (core : Nat) (r : MatRun) (rest : List MatRun) (x : MatInstr) (g : Group),
    (s.core core).runs = r :: rest → r.start + s.runCycles r ≤ s.now core → r.point = none → r.instrs = [x] →
    s.group? ⟨r.team, x.grp⟩ = some g →
    exec (.jointOperationComplete core r.id) s =
      .next ((s.putCore core { s.core core with runs := rest }).putGroup (g.product x r.b r.scale))) ∧
  (∀ (g : Group) (x : MatInstr) (b scale : List Host.Cell), x.kind = 0 → x.f.fmt.toNat ∈ [6, 7, 8] → x.f.c.toNat < g.c.length →
    g.tile x.f.c.toNat = Tile.zero g.width → (x.rows.map (·.1)).Nodup →
    let t := (g.product x b scale).tile x.f.c.toNat
    let read := fun (natural : Bool) (n : Nat) => if natural = true then (n : Int) else (BitVec.ofNat 8 n).toInt
    ∀ i < g.width, ∀ j < 32, ((∀ r ∈ x.rows, r.1 ≠ i) → (t.value i j).rat = 0) ∧
      ∀ row : List W32, (i, row) ∈ x.rows → row.length = 16 →
        let a := fun (k : Nat) => read (x.f.fmt.toNat == 7) (((row[k / 4]?).getD 0).toNat / 256 ^ (k % 4) % 256)
        let c := fun (k : Nat) => read (x.f.fmt.toNat != 6) (cellGet b (64 * j + k)).toNat
        (t.value i j).rat = (((List.range 64).map fun k => a k * c k).sum : Int)) ∧
  ((∀ (f : Y) (s : State) (v : View) (t : Team), s.view = some v → v.Home → v.Uni f.a → f.n.toNat < v.g.rdv →
    s.team? v.g.id.team = some t →
    let mask := v.uni f.a
    let members := (List.range 64).filter fun i => mask.getLsbD i
    let p := t.point f.n.toNat
    members.length ∈ [2, 3, 4, 5, 6] → v.g.id.grp ∈ members →
    (∀ i ∈ members, i < (s.launchOf v.g).groups ∧ (s.launchOf v.g).groupCore t.core i = v.g.core) →
    (∀ c ∈ t.consists, c.point ≠ f.n.toNat ∧ (c.core = v.g.core → c.mask &&& mask = 0)) →
    total (s.teams.filter fun t => t.st == .running) (fun t => (t.consists.filter fun x => x.core == v.g.core).length) < 8 → p.arrivals < p.expected →
    exec (.cstSet f) s = .next ((s.putTeam { t with
      consists := t.consists ++ [⟨v.g.core, mask, f.n.toNat, p.expected⟩]
      points := t.points.set f.n.toNat { p with expected := members.length, arrivals := 0 } }).pass v 1)) ∧
  ∀ (f : Y) (s : State) (v : View) (t : Team), s.view = some v → v.Home → s.team? v.g.id.team = some t →
    (t.consistOf v.g.core v.g.id.grp = none → exec (.cstClr f) s = .next (s.pass v 1)) ∧
    (∀ c, t.consistOf v.g.core v.g.id.grp = some c → (∀ x ∈ t.latched, c.holds x = false) →
      s.jointRuns t.id c = false → (t.point c.point).arrivals < (t.point c.point).expected →
      exec (.cstClr f) s = .next ((s.putTeam { t with
        consists := t.consists.filter fun y => !(y.core == c.core && y.point == c.point)
        points := t.points.set c.point { t.point c.point with expected := c.former, arrivals := 0 } }).pass v 1)))

/-- R98 to R101: contributions that are multiples of a tile's unit, below 2^31 units each, are added exactly while every sum stays
below 2^46 units. R61, R98, R101, R259 to R261: clearing, reading, writing a tile, and reading its exponent, while no operation on it
runs. A read leaves its destination empty, with its values on their way. -/
def Obligations.Accumulators : Prop :=
  (∀ (t : Tile) (e : Int) (con : Nat → Nat → List FVal), t.exp = some e → t.cls.length = t.man.length →
    (∀ r ∈ t.man, r.length = 32) → (∀ r ∈ t.cls, r.length = 32) →
    let man := fun (i j : Nat) => ((t.man[i]?).bind fun r => r[j]?).getD 0
    (∀ i < t.man.length, ∀ j < 32, ((t.cls[i]?).bind fun r => r[j]?) = some .fin ∧
      (∀ c ∈ con i j, (∃ b m d, c = .fin b m d) ∧ |c.rat| < (2 : ℚ) ^ (e + 31) ∧ ∃ k : Int, c.rat = k * (2 : ℚ) ^ e) ∧
      |(man i j : ℚ) * (2 : ℚ) ^ e + ((con i j).map FVal.rat).sum| < (2 : ℚ) ^ (e + 46)) →
    ∀ i < t.man.length, ∀ j < 32,
      ((t.accumulate con).value i j).rat = (t.value i j).rat + ((con i j).map FVal.rat).sum) ∧
  ((∀ (f : XM) (s : State) (v : View), s.view = some v → v.Home → f.c.toNat < v.g.acc → s.tileBusy v f.c.toNat = false →
    let c := f.c.toNat
    let t := v.g.tile c
    let n := if f.fmt = 0 then 32 else 16
    Does s v (.accZero f) 1 (v.g.putTile c ⟨none, List.replicate v.g.width (List.replicate 32 0),
      List.replicate v.g.width (List.replicate 32 .fin), false⟩) ∧
    (f.a.toNat + n ≤ v.g.vregs → v.isEmpty (f.a.setWidth 7) n = false → t.bad = false → ∃ (u : State) (o : MemOp) (out : Nat → Nat → W32),
      (∀ i j, (f.fmt = 0 → out i j = BitVec.ofNat 32 (f32.encode .rne false (t.value i j))) ∧
        (f.fmt ≠ 0 → out i j = BitVec.ofNat 32 (bf16.encode .rne false (t.value i (2 * j)) +
          2 ^ 16 * bf16.encode .rne false (t.value i (2 * j + 1))))) ∧
      exec (.accRead f) s = .next u ∧ IssuedOne s u v o (v.g.emptyDest o.dest) 1 ∧ o.kind = .acc ∧ o.pc = false ∧
      o.dest = .v f.a.toNat n false ∧ o.width = 4 * n ∧ o.lanes = v.c.lanes ∧ o.parts.map (·.lane) = v.lanes ∧
      ∀ p ∈ o.parts, p.st = .done ∧ p.off = 0 ∧ ∀ j < n, BitVec.ofNat 32 (p.got / 2 ^ (32 * j)) = out p.lane j) ∧
    (f.a.toNat + n ≤ v.g.vregs → v.isEmpty (f.a.setWidth 7) n = false → v.isBad (f.a.setWidth 7) n = false → t.bad = false →
      ∃ val : Nat → Nat → FVal,
        (∀ i j, (f.fmt = 0 → val i j = fv (v.elem (f.a.toNat + j) i)) ∧
          (f.fmt ≠ 0 → val i j = bf16.decode ((v.elem (f.a.toNat + j / 2) i).toNat / 2 ^ (16 * (j % 2)) % 2 ^ 16))) ∧
        Does s v (.accWrite f) 1 (v.g.putTile c ((t.clearRows v.c.lanes).accumulate fun i j =>
          if v.c.lanes.getLsbD i = true then [val i j] else [])))) ∧
  ∀ (f : XE) (s : State) (v : View), s.view = some v → v.Home → v.Dst f.d → f.c.toNat < v.g.acc →
    s.tileBusy v f.c.toNat = false → (v.g.tile f.c.toNat).bad = false →
    ∃ (u : State) (o : MemOp), exec (.accExp f) s = .next u ∧ IssuedOne s u v o (v.g.emptyDest o.dest) 1 ∧ o.kind = .acc ∧
      o.pc = false ∧ (∀ r, opd f.d = .s r → o.dest = .s r ∧ o.width = 8) ∧
      (∀ r, opd f.d = .v r → o.dest = .v r 1 v.whole ∧ o.width = 4) ∧ o.lanes = v.c.lanes ∧ o.parts.map (·.lane) = v.lanes ∧
      ∀ p ∈ o.parts, p.st = .done ∧ p.off = 0 ∧ p.got = (BitVec.ofInt 64 ((v.g.tile f.c.toNat).exp.getD (-32768))).toNat)

/-- R67, R262, R263, R271: `p.ld` takes a KIND 5 token under its handle and its 2048 bytes are on their way; `p.zero` clears a
platform that awaits no write. R67, R264 to R267, R271: `row.open` takes a free entry and a KIND 4 token under its handle; `row.take`
starts on an open row of a full handle, with the row's bytes as they stand, and takes the bus; `row.shut` frees the entry, a precharge
falling due, and its handle is idle. R262, R336, R337, R376: a platform load whose parts are all performed fills its platform and its
handle; one that was refused leaves the platform zero and its handle errored with the code. -/
def Obligations.PlatformAndRowInstructions : Prop :=
  ((∀ (f : XR) (s : State) (v : View) (p : Partition) (g : Group), s.view = some v → v.Home → v.UniPair f.a → f.pl.toNat < v.g.plat →
    s.part? v.g.id.team.grid.part = some p → s.group? v.g.id = some g →
    let a := (v.addrVal f.a).toNat
    let va := a % 2 ^ 56
    let n := (p.seqs[5]?).getD 0
    (a / 2 ^ 56 = 0 ∧ va + 2048 ≤ 2 ^ 56 ∨ a / 2 ^ 56 = 1 ∧ a % 2 ^ 32 + 2048 ≤ 65536 * v.g.banks) → va % 512 = 0 →
    (v.g.handle f.h.toNat).st ≠ .pending → s.accessHeld v 0 = false → s.spillFull v.g.asid = false →
    ∃ (t : State) (o : MemOp), exec (.pLd f) s = .next t ∧ t.ops = s.ops ++ [o] ∧ o.id = s.nextId ∧ o.kind = .pld ∧
      o.dest = .plat f.pl.toNat f.h.toNat ∧ o.tok = mkToken 5 0 v.g.core n ∧ o.parts.length = 32 ∧
      (∀ i < 32, ∃ q, o.parts[i]? = some q ∧ q.off = 64 * i ∧ q.n = 64 ∧ q.loc =
        (if a / 2 ^ 56 = 1 then .bank (s.bankOf v.g.id.team (a % 2 ^ 32 + 64 * i)) ((a % 2 ^ 32 + 64 * i) % 65536)
         else .glob (va + 64 * i))) ∧
      t.group? v.g.id = some ((g.putHandle f.h.toNat ⟨.pending, o.tok, 0, 0, false, false⟩).advance v.c.cid 1) ∧
      t.mem = s.mem ∧ t.hostMem = s.hostMem ∧
      (∀ q, s.plat? v.g.id.team v.g.core f.pl.toNat = some q →
        t.plat? v.g.id.team v.g.core f.pl.toNat = some { q with writes := q.writes ++ [s.nextId] })) ∧
  ∀ (f : XR) (s : State) (v : View) (t : Team) (p : Platform), s.view = some v → v.Home → f.pl.toNat < v.g.plat →
    s.team? v.g.id.team = some t → s.plat? v.g.id.team v.g.core f.pl.toNat = some p →
    (p.writes ≠ [] → exec (.pZero f) s = .next s) ∧
    (p.writes = [] → exec (.pZero f) s = .next ((s.putTeam { t with plats := t.plats.map fun q =>
      if q.core = v.g.core ∧ q.n = f.pl.toNat then { q with bytes := [], bad := false } else q }).pass v 1))) ∧
  ((∀ (f : XR) (s : State) (v : View) (p : Partition) (g : Group) (c : Context) (q : PageOf) (e : Nat), s.view = some v → v.Home →
    v.UniPair f.a → s.part? v.g.id.team.grid.part = some p → s.group? v.g.id = some g →
    let a := (v.addrVal f.a).toNat
    let t := s.canon v.g.asid a
    a < 2 ^ 56 → s.ctx? t.1 = some c → c.walk t.2.1 = .ok q → descRow q.desc = true → descPidx q.desc = v.g.core →
    (∀ r ∈ (s.core v.g.core).rows, r.bank = (q.slot t.2.1).2 → ∃ why, r.st = .expired why) →
    (s.core v.g.core).freeEntry = some e → (v.g.handle f.h.toNat).st ≠ .pending →
    s.rowsOwed v.g.core v.g.id.team (q.slot t.2.1).2 = false →
    let tok := mkToken 4 e v.g.core ((p.seqs[4]?).getD 0)
    ∃ u, exec (.rowOpen f) s = .next u ∧
      (∃ r ∈ (u.core v.g.core).rows, r.e = e ∧ r.st = .opening ∧ r.asid = t.1 ∧ r.slot = t.2.1 / 2048 * 2048 ∧
        r.bank = (q.slot t.2.1).2 ∧ r.tok = tok ∧ r.gid = v.g.id ∧ r.h = f.h.toNat ∧ r.opened = s.now v.g.core) ∧
      u.group? v.g.id = some ((g.putHandle f.h.toNat ⟨.pending, tok, 0, 0, false, false⟩).advance v.c.cid 1) ∧
      u.mem = s.mem ∧ u.hostMem = s.hostMem) ∧
  (∀ (f : XR) (s : State) (v : View) (g : Group) (r : RowEntry), s.view = some v → v.Home → s.group? v.g.id = some g →
    let h := v.g.handle f.h.toNat
    s.rowHandle v h = true → f.pl.toNat < v.g.plat → h.bad = false → h.st = .full → (s.core v.g.core).rowOf h.tok = some r →
    r.st = .opened → s.takeFault v h = [] → (s.vault v.g.core).busEnd ≤ s.now v.g.core →
    s.accessHeld v 0 = false → s.slotRead v r = false →
    let busy := s.now v.g.core + s.dramCc v.g.core (if (s.vault v.g.core).degraded = true then 8 else 4)
    ∃ u bytes, exec (.rowTake f) s = .next u ∧ (u.vault v.g.core).busEnd = busy ∧
      (u.core v.g.core).takes = (s.core v.g.core).takes ++ [⟨s.nextId, r.e, r.tok, v.g.id, f.pl.toNat, s.now v.g.core, bytes⟩] ∧
      (Memory.wf s.mem = true → r.slot + 2048 ≤ 2 ^ 56 → ∀ i < 2048, cellGet bytes i = s.byte r.asid (r.slot + i)) ∧
      u.group? v.g.id = some (g.advance v.c.cid 1) ∧ u.mem = s.mem ∧
      (∀ q, s.plat? v.g.id.team v.g.core f.pl.toNat = some q →
        u.plat? v.g.id.team v.g.core f.pl.toNat = some { q with writes := q.writes ++ [s.nextId] })) ∧
  ∀ (f : XR) (s : State) (v : View) (g : Group) (r : RowEntry), s.view = some v → v.Home → s.group? v.g.id = some g →
    let h := v.g.handle f.h.toNat
    s.rowHandle v h = true → h.bad = false → (s.core v.g.core).rowOf h.tok = some r →
    ∃ u, exec (.rowShut f) s = .next u ∧ (∀ x ∈ (u.core v.g.core).rows, x.e ≠ r.e) ∧
      (r.st = .opened → ((u.vault v.g.core).dbank r.bank).st = .shutting (s.earliest v.g.core r) r.row) ∧
      u.group? v.g.id = some ((g.putHandle f.h.toNat ⟨.idle, 0, 0, 0, false, false⟩).advance v.c.cid 1) ∧ u.mem = s.mem) ∧
  (∀ (s : State) (o : MemOp) (g : Group) (n h : Nat) (p : Platform), s.op? o.id = some o → o.kind = .pld → o.dest = .plat n h →
    s.group? o.gid = some g → s.plat? g.id.team g.core n = some p → p.writes.head? = some o.id →
    (∀ q ∈ o.parts, q.st.isOpen = false) →
    let done := fun (u : State) (bytes : List Host.Cell) => u.op? o.id = none ∧ u.plat? g.id.team g.core n =
      some { p with bytes := bytes, bad := false, writes := p.writes.filter fun x => x != o.id }
    (o.refusal = none → ∃ u, exec (.pLdComplete o.id) s = .next u ∧ done u (o.parts.flatMap Part.cells) ∧
      u.group? o.gid = some { g with
        h := g.h.map fun h => if h.st = .pending ∧ sameOp h.tok o.tok = true then h.done 2048 else h }) ∧
    (∀ code det va, o.refusal = some (code, det, va) →
      (∀ t, s.team? g.id.team = some t → ∀ y ∈ t.latched, n ∉ y.plats) →
      ∃ u, exec (.pLdComplete o.id) s = .next u ∧ done u [] ∧ u.group? o.gid = some { g with
        h := g.h.map fun h => if h.st = .pending ∧ sameOp h.tok o.tok = true then h.fail code 0 else h }))

/-- R128, R265 to R268: what befalls rows and banks: an activation, an open row and its full handle, a take's bytes in its platform, a
precharge, a bank at rest, and a row closed at its maximum open time. R129, R130, R268, R324, R381, R394: refresh slots begin or are
postponed, and end (a slot whose bank is in any state but idle is postponed: log entry 131); a retraining window is announced, closes
the open rows when it starts, and ends or fails. -/
def Obligations.RowAndRefreshEvents : Prop :=
  ((∀ (s : State) (core e : Nat) (r : RowEntry), (s.core core).waitingRow e = some r →
    (s.vault core).bankState r.bank = .idle → s.windowNear core = false →
    (∀ x ∈ ((s.core core).gone ++ (s.core core).rows).takeWhile (fun x => !sameOp x.tok r.tok), x.bank ≠ r.bank) →
    (∀ id ∈ ((s.vault core).dbank r.bank).held, s.stillHeld id = false) →
    ∃ u, exec (.rowActivate core e) s = .next u ∧ ((u.vault core).dbank r.bank).st = .activating r.e ∧
      { r with activated := some (s.now core) } ∈ (u.core core).gone ++ (u.core core).rows ∧ u.mem = s.mem) ∧
  (∀ (s : State) (core e a : Nat) (r : RowEntry) (id : GroupId) (g : Group),
    ((s.core core).gone ++ (s.core core).rows).find? (fun r => r.e == e && r.st == .opening && r.activated.isSome) = some r →
    r.activated = some a → a + s.dramCc core 24 ≤ s.now core → ((s.core core).rowOf r.tok).isSome = true →
    s.group? id = some g → id.team.grid.part = r.gid.team.grid.part →
    ∃ u, exec (.rowOpenComplete core e) s = .next u ∧ ((u.vault core).dbank r.bank).st = .opened e ∧
      { r with st := .opened } ∈ (u.core core).gone ++ (u.core core).rows ∧
      u.group? id = some { g with h := g.h.map fun h => if h.st = .pending ∧ sameOp h.tok r.tok = true then h.done 0 else h }) ∧
  (∀ (s : State) (core : Nat) (x : Take) (p : Platform), (s.core core).takes.find? (fun y => y.id == x.id) = some x → s.plat? x.gid.team core x.p = some p →
    p.writes.head? = some x.id → x.start + s.dramCc core (if (s.vault core).degraded = true then 10 else 6) ≤ s.now core →
    ∃ u, exec (.rowTakeComplete core x.id) s = .next u ∧ u.plat? x.gid.team core x.p =
        some { p with bytes := x.bytes, bad := false, writes := p.writes.filter (fun n => n != x.id) } ∧
      (∀ y ∈ (u.core core).takes, y.id ≠ x.id) ∧ u.mem = s.mem) ∧
  (∀ (s : State) (n b t row : Nat), (s.vault n).bankState b = .shutting t row → t ≤ s.now n →
    ∃ u, exec (.prechargeStart n b) s = .next u ∧ ((u.vault n).dbank b).st = .precharging (s.now n)) ∧
  (∀ (s : State) (n b t : Nat), (s.vault n).bankState b = .precharging t → t + s.dramCc n 24 ≤ s.now n →
    let x := (s.vault n).dbank b
    ∃ u, exec (.bankIdle n b) s = .next u ∧ (u.vault n).dbank b =
      (if x.postponed = 0 then { x with st := .idle } else { x with st := .refreshing (s.now n), postponed := x.postponed - 1 })) ∧
  ∀ (s : State) (core e : Nat) (r : RowEntry), (s.core core).row? e = some r → r.st = .opened →
    r.opened + s.dramCc core 8192 ≤ s.now core → r.takeEnd ≤ s.now core →
    ∃ u, exec (.rowMaxOpenExpiry core e) s = .next u ∧ (u.core core).row? e = some { r with st := .expired 1 } ∧
      ((u.vault core).dbank r.bank).st = .precharging (s.now core)) ∧
  ((∀ (s : State) (n b : Nat), b < 192 → slotStart b ((s.vault n).dbank b).slots ≤ 7 * s.time →
    let x := (s.vault n).dbank b
    ∃ u, exec (.refreshSlotStart n b) s = .next u ∧
      ((s.vault n).bankState b = .idle → (u.vault n).dbank b = { x with slots := x.slots + 1, st := .refreshing (s.now n) }) ∧
      ((s.vault n).bankState b ≠ .idle →
        (u.vault n).dbank b = { x with slots := x.slots + 1, postponed := min 2 (x.postponed + 1) })) ∧
  (∀ (s : State) (n b t : Nat), (s.vault n).bankState b = .refreshing t → t + s.dramCc n 200 ≤ s.now n →
    let x := (s.vault n).dbank b
    ∃ u, exec (.refreshSlotEnd n b) s = .next u ∧
      (x.postponed = 0 → (u.vault n).dbank b = { x with st := .idle, rewrite := x.rewrite - 1 })) ∧
  (∀ (s : State) (n ahead len : Nat), n < 128 → (s.vault n).lastWindow = none →
    (∀ i < 16, (s.vault (n / 16 * 16 + i)).window = none) → 20000 ≤ ahead → 1 ≤ len → len ≤ 2000 →
    ∃ u, exec (.retrainAnnounce n ahead len) s = .next u ∧ (u.vault n).window = some ⟨s.time + ahead, len, false⟩) ∧
  (∀ (s : State) (n : Nat) (w : Window), (s.vault n).window = some w → w.active = false → w.start ≤ s.time →
    (s.vault n).busEnd ≤ s.now n → (∀ i < 16, ∀ x, (s.vault (n / 16 * 16 + i)).window = some x → x.active = false) →
    (∀ r ∈ (s.core n).rows ++ (s.core n).gone, r.st = .opening → r.activated = none) →
    ∃ u, exec (.retrainWindowStart n) s = .next u ∧ (u.vault n).window = some { w with active := true } ∧
      (u.vault n).lastWindow = some s.time ∧ (∀ b, (u.vault n).bankState b = .retraining) ∧
      (u.core n).rows = (s.core n).rows.map fun r => if r.st = .opened then { r with st := .expired 2 } else r) ∧
  (∀ (s : State) (n : Nat) (w : Window), (s.vault n).window = some w → w.active = true → w.start + w.len ≤ s.time →
    ∃ u, exec (.retrainWindowEnd n) s = .next u ∧ (u.vault n).window = none ∧ (u.vault n).windowFails = 0) ∧
  ∀ (s : State) (n : Nat) (w : Window), (s.vault n).window = some w → w.active = true →
    ∃ u, exec (.retrainingFailure n) s = .next u ∧ (u.vault n).window = none ∧
      (u.vault n).windowFails = (s.vault n).windowFails + 1 ∧ (1 ≤ (s.vault n).windowFails → (u.vault n).degraded = true))

/-! ## Class E: handles, engines, launches (12_engines_system R270 to R281; 18_faults R337 to R339; 20_faults_memory R375 to R378) -/

/-- R65, R280, R337, R338: `h.test` reports whether H is full, and then acquires; `h.get` gives the token of a handle that is not
idle; a read of an errored handle raises HANDLE with its code and PREFIX. R280, R337 to R339, R356: waiting for the operation a token
names (a token stands errored where a handle that holds it is: log entry 130), binding a handle to it, and cancelling. -/
def Obligations.HandleInstructions : Prop :=
  (∀ (f : E) (s : State) (v : View), s.view = some v → v.Home → v.Dst f.a →
    let h := v.g.handle f.h.toNat
    h.bad = false →
    (h.st = .full → exec (.hTest f) s = .next (((s.putGroup (v.writeD v.g f.a 1)).acquireAll v.g).pass v 1)) ∧
    (h.st = .idle ∨ h.st = .pending → Does s v (.hTest f) 1 (v.writeD v.g f.a 0)) ∧
    (h.st = .errored → v.c.prog.begun = false → exec (.hTest f) s = .next (s.raiseAt v codeHANDLE h.code h.pfx 0)) ∧
    (h.st ≠ .idle → Does s v (.hGet f) 1 (v.writeD v.g f.a h.tok)) ∧ (h.st = .idle → exec (.hGet f) s = .next s)) ∧
  ((∀ (f : E) (s : State) (v : View) (p : Partition), s.view = some v → v.Home → v.Uni f.a → s.part? v.g.id.team.grid.part = some p →
    let t := v.uni f.a
    (1 ≤ tokKind t ∧ tokKind t ≤ 5 ∧ tokSeq t < (p.seqs[tokKind t]?).getD 0 →
      let part := v.g.id.team.grid.part
      (p.isLive t = false → s.tokenError part t = none → exec (.hWait f) s = .next ((s.acquireAll v.g).pass v 1)) ∧
      (p.isLive t = true → s.tokenError part t = none → exec (.hWait f) s = .next s) ∧
      (∀ x, v.c.prog.begun = false → s.tokenError part t = some x → exec (.hWait f) s = .next (s.raiseAt v codeHANDLE x.1 x.2 0)) ∧
      (∀ x, v.c.prog.begun = false → p.failure? t = some x → exec (.hWait f) s = .next (s.raiseAt v codeHANDLE x.code x.pfx 0)) ∧
      (p.failure? t = none → (∀ g ∈ s.groups, g.id.team.grid.part = part → ∀ h ∈ g.h, ¬(h.st = .errored ∧ sameOp h.tok t = true)) →
        s.tokenError part t = none) ∧
      ((v.g.handle f.h.toNat).st = .pending → exec (.hBind f) s = .next s) ∧
      ((v.g.handle f.h.toNat).st ≠ .pending →
        (p.isLive t = true → Does s v (.hBind f) 1 (v.g.putHandle f.h.toNat ⟨.pending, t, 0, 0, false, false⟩)) ∧
        (p.isLive t = false → ∀ x, p.failure? t = some x →
          Does s v (.hBind f) 1 (v.g.putHandle f.h.toNat ⟨.errored, t, x.code, x.pfx, false, false⟩)) ∧
        (p.isLive t = false → p.failure? t = none →
          Does s v (.hBind f) 1 (v.g.putHandle f.h.toNat ⟨.full, t, 0, 0, false, false⟩)))) ∧
    (v.c.prog.begun = false → tokKind t = 0 ∨ 5 < tokKind t ∨ (p.seqs[tokKind t]?).getD 0 ≤ tokSeq t →
      exec (.hWait f) s = .next (s.raiseAt v codeOPERAND 0x12 0 0) ∧ exec (.hBind f) s = .next (s.raiseAt v codeOPERAND 0x12 0 0))) ∧
  ∀ (f : E) (s : State) (v : View) (g : Group), s.view = some v → v.Home → s.group? v.g.id = some g →
    let n := f.h.toNat
    let h := v.g.handle n
    (h.st ≠ .pending → Does s v (.hCancel f) 1 (g.putHandle n ⟨.idle, 0, 0, 0, false, false⟩)) ∧
    (h.st = .pending → tokKind h.tok = 1 → exec (.hCancel f) s = .next (({ s with
      engs := s.engs.map fun e => if e.part = v.g.id.team.grid.part ∧ sameOp e.tok h.tok = true then { e with cancel := true } else e
      } : State).pass v 1)) ∧
    (h.st = .pending → tokKind h.tok = 4 → ∃ u, exec (.hCancel f) s = .next u ∧
      u.group? v.g.id = some ((g.putHandle n ⟨.idle, 0, 0, 0, false, false⟩).advance v.c.cid 1) ∧
      ∀ r ∈ (u.core (bitsOf h.tok.toNat 8 7)).rows, ∀ r', (s.core (bitsOf h.tok.toNat 8 7)).rowOf h.tok = some r' → r.e ≠ r'.e) ∧
    (h.st = .pending → tokKind h.tok ≠ 1 → tokKind h.tok ≠ 4 →
      Does s v (.hCancel f) 1 (v.g.putHandle n { h with cancel := true })))

/-- The engine instructions with the operation each is and the operands it reads (R272, R277, R279). -/
noncomputable def engineForms (f : E) : List (Instr × EngKind × List Code) :=
  [(.cp f, .cp, [f.a, f.b, f.c]), (.cpCvt f, .cvt, [f.a, f.b, f.c]), (.cpQ f, .quant, [f.a, f.b, f.c]),
   (.cpRow f, .row, [f.a, f.b, f.c]), (.cpDup f, .dup, [f.a, f.b, f.c]), (.collAr f, .ar, [f.a, f.b, f.c]),
   (.collRs f, .rs, [f.a, f.b, f.c]), (.collAg f, .ag, [f.a, f.b, f.c]), (.collSend f, .send, [f.a, f.c]),
   (.collRecv f, .recv, [f.b, f.c]), (.collNorm f, .norm, [f.a, f.b, f.c]), (.bucketArm f, .bucket, [f.a])]

/-- R121, R270, R271, R356: an operation issues once its release is complete, its descriptors can be read and a tender operation's
lines fit the slices' directories: it takes the next token of KIND 1 or 2, which H holds pending, it is under way, and the group goes
on; no byte is written yet. R121, R281, R289, R293, R295: `launch` of a record that can be read and is accepted: it takes a KIND 3
token under H, and the record stands at the end of its queue. -/
def Obligations.EngineAndLaunchInstructions : Prop :=
  (∀ (f : E) (s : State) (v : View) (g : Group) (p : Partition), s.view = some v → v.Home → s.group? v.g.id = some g →
    s.part? v.g.id.team.grid.part = some p → s.Drained v allTracks → s.spillFull v.g.asid = false →
    (v.g.handle f.h.toNat).bad = false → (v.g.handle f.h.toNat).st ≠ .pending →
    ∀ x ∈ engineForms f, (∀ c ∈ x.2.2, v.Uni c) →
      (∀ q ∈ s.engVals v.g.id.team.grid.part x.2.1 (v.uni f.a) (v.uni f.b) (v.uni f.c), q.1 = true) →
      (x.2.1.tender = false → s.replayed v false = none) →
      (x.2.1 = .bucket → s.armed v.g.asid < 32) →
      let d := ((s.advanceGens v.g.id.team allTracks).markAll v.g.id).descReach v x.2.1 f
      d.2 = true → (x.2.1.tender = true →
        ((d.1.unheld (accessId v.g.id v.c.cid true)).issueEng v x.2.1 f).crowded s.nextId = false) →
      let kind := if x.2.1.tender = true then 1 else 2
      let tok := mkToken kind 0 v.g.core ((p.seqs[kind]?).getD 0)
      ∃ u, exec x.1 s = .next u ∧ u.mem = s.mem ∧ u.hostMem = s.hostMem ∧ u.engs.length = s.engs.length + 1 ∧
        u.group? v.g.id = some ({ g with allAt := s.tick }.putHandle f.h.toNat
          ⟨.pending, tok, 0, 0, false, false⟩ |>.advance v.c.cid 1) ∧
        (∀ q, u.part? v.g.id.team.grid.part = some q → q.seqs = p.seqs.set kind ((p.seqs[kind]?).getD 0 + 1) ∧ q.isLive tok = true) ∧
        ((∀ e ∈ s.engs, e.id ≠ s.nextId) → ∃ e, u.eng? s.nextId = some e ∧ e.tok = tok ∧ e.gid = v.g.id ∧ e.asid = v.g.asid ∧
          e.core = v.g.core ∧ e.chunk = 0 ∧ (x.2.1 ≠ .bucket → e.kind = x.2.1 ∧ e.a = v.uni f.a ∧ e.b = v.uni f.b ∧ e.c = v.uni f.c))) ∧
  (∀ (f : E) (s : State) (v : View) (g : Group) (p : Partition) (l : List Launch), s.view = some v → v.Home →
    s.group? v.g.id = some g → s.part? v.g.id.team.grid.part = some p → v.Uni f.a → v.Uni f.b →
    let a := (v.uni f.a).toNat
    let b := (v.uni f.b).toNat
    let rec' : LaunchWords := recordOf fun i => s.engLoad v.g.asid (a + 8 * i) 8
    let n := (p.seqs[3]?).getD 0
    let tok := mkToken 3 0 v.g.core n
    a < 2 ^ 56 → b < 64 → (v.g.handle f.h.toNat).bad = false → (v.g.handle f.h.toNat).st ≠ .pending →
    s.Drained v allTracks → s.spillFull v.g.asid = false → s.replayed v true = none →
    (∀ x ∈ linesOf a 64, s.owner? (s.lineKey v.g.asid x.1) = none) → (s.recordReach v f).2 = true →
    p.queues[b]? = some l → l.length < 256 →
    s.rangeFault v.g.asid a 64 = none → recordOk rec' = true → p.depOk rec' = true →
    ∃ u q gr, exec (.launch f) s = .next u ∧ u.part? v.g.id.team.grid.part = some q ∧
      q.queues[b]? = some (l ++ [⟨⟨v.g.id.team.grid.part, tok.toNat⟩, p.depMet rec'⟩]) ∧ u.grids.getLast? = some gr ∧
      gr.id = ⟨v.g.id.team.grid.part, tok.toNat⟩ ∧ gr.q = rec' ∧ gr.queue = b ∧ gr.asid = v.g.asid ∧ gr.next = 0 ∧
      u.group? v.g.id = some ({ g with allAt := s.tick }.putHandle f.h.toNat ⟨.pending, tok, 0, 0, false, false⟩ |>.advance v.c.cid 1) ∧
      u.mem = s.mem)

/-- R121, R128, R272, R376: a chunk of `cp` within one line, whose lines are in their slices or whose vaults let it in, commits whole:
the destination's bytes are the source's, and every other byte stays as it was. R270, R337, R339, R375 to R378: a tender operation
whose chunks are all committed fills its handle; one that has failed errors it and leaves an ENGINE record of its code, address, group
and team; a stall that FREE now covers is over. R313, R377: a flit in sequence is acknowledged and counted, and what it carries is
delivered; one out of sequence changes nothing. What comes before its collective is issued here is kept back, and its channel stopped
(when a receiver stops one: log entry 142). -/
def Obligations.EngineProgress : Prop :=
  (∀ (s : State) (e : Engine), Memory.wf s.mem = true → s.eng? e.id = some e → e.kind = .cp → s.headOp e = true → e.cancel = false → e.failed = none →
    e.stall = none → e.plan.isSome = true → e.snap = none → e.lag = false → e.granted = [] → e.chunk = 0 →
    let dst := e.a.toNat
    let src := e.b.toNat
    let n := e.c.toNat
    let t := s.canon e.asid dst
    e.total = n → 0 < n → dst < 2 ^ 56 → src < 2 ^ 56 → dst % 512 + n ≤ 512 → src % 512 + n ≤ 512 → t.2.1 + n ≤ 2 ^ 56 →
    s.piecesHeld e [⟨dst, n, .copy, 0⟩] = false → s.pieceFault e src n false = none → s.pieceFault e dst n true = none →
    let d := s.reachAll e.id (s.piecesReach e [(⟨dst, n, .copy, 0⟩, true)])
    d.2 = true → (∀ c, d.1.ctx? t.1 = some c → (d.1.grantNeed e (decide (n = 512)) (t.1, t.2.1 / 512)).1 ≤ c.free) →
    ∃ u, exec (.tenderChunkCommit e.id) s = .next u ∧ (∀ i < n, u.byte t.1 (t.2.1 + i) = s.engByte e (src + i)) ∧
      (∀ k, (∀ i < n, k ≠ memKey t.1 (t.2.1 + i)) → cellGet u.mem k = cellGet s.mem k) ∧ u.hostMem = s.hostMem) ∧
  ((∀ (s : State) (e : Engine) (id : GroupId) (g : Group), s.eng? e.id = some e → e.kind.tender = true → s.headOp e = true →
    s.group? id = some g → id.team.grid.part = e.part →
    (e.cancel = false → e.failed = none → e.stall = none → e.plan.isSome = true → e.total ≤ chunkBytes * e.chunk →
      ∃ u, exec (.engineOperationComplete e.id) s = .next u ∧ u.engs = s.engs.filter (fun x => x.id != e.id) ∧ u.mem = s.mem ∧
        u.group? id = some { g with
          h := g.h.map fun h => if h.st = .pending ∧ sameOp h.tok e.tok = true then h.done e.total else h }) ∧
    (∀ code va pfx, e.failed = some (code, va, pfx) →
      ∃ u, exec (.engineFailure e.id) s = .next u ∧ u.engs = s.engs.filter (fun x => x.id != e.id) ∧ u.mem = s.mem ∧
        u.group? id = some { g with
          h := g.h.map fun h => if h.st = .pending ∧ sameOp h.tok e.tok = true then h.fail code pfx else h } ∧
        (∀ p, s.part? e.part = some p → ∃ q, u.part? e.part = some q ∧
          q.failed = p.failed ++ [⟨tokKind e.tok, tokSeq e.tok, code, pfx⟩] ∧ q.isLive e.tok = false) ∧
        ((s.ctx? e.asid).isSome = true → ∃ c x, u.ctx? e.asid = some c ∧
          (x ∈ c.spill ∨ ∃ r ∈ c.fq, r.fault = x ∧ r.items = [] ∧ r.served = false) ∧ x.code = codeENGINE ∧ x.detail = code ∧
          x.gid = some e.gid ∧ x.va = va % 2 ^ 56)) ∧
    (e.failed = none → e.cancel = true →
      ∃ u, exec (.engineFailure e.id) s = .next u ∧ u.engs = s.engs.filter (fun x => x.id != e.id) ∧ u.mem = s.mem ∧
        u.group? id = some { g with
          h := g.h.map fun h => if h.st = .pending ∧ sameOp h.tok e.tok = true
            then h.fail 0xFF (min e.total (chunkBytes * e.chunk)) else h })) ∧
  ∀ (s : State) (e : Engine) (va : Nat) (c : Context), s.eng? e.id = some e → e.stall = some (codeCAPACITY, va) →
    s.ctx? (s.canon e.asid va).1 = some c → c.balloonList = 0 → s.stallNeed e.asid va ≤ c.free →
    ∃ u, exec (.engineStallRecovery e.id) s = .next u ∧ u.eng? e.id = some { e with stall := none } ∧ u.mem = s.mem) ∧
  (∀ (s : State) (port : Nat) (f : Flit) (p : Port), s.ports[port]? = some p →
    (f.seq ≠ p.expect ∨ p.up = false ∨ p.enabled = false → exec (.flitReceive port f) s = .next s) ∧
    (f.seq = p.expect → p.up = true → p.enabled = true → f.body = .management → f.pause = none → f.resume = none →
      p.toSend = [] → p.inbox = [] → p.stopped = [] → ∃ u, exec (.flitReceive port f) s = .next u ∧
        u = { s with ports := s.ports.set port { p with expect := p.expect + 1
                                                        unacked := match f.ack with
                                                          | none => p.unacked
                                                          | some a => p.unacked.filter fun x => decide (a ≤ x.seq) } }) ∧
    (∀ (rset idx rank : Nat) (l : List W32) (e : Engine) (part : Nat) (rs : RankSet), f.seq = p.expect → p.up = true → p.enabled = true →
      f.body = .reduce rset idx rank l → s.portSet port rset (some rank) = some (part, rs) →
      p.inbox = [] → idx < (((s.part? part).bind fun p => assoc rset p.collectives).getD 0) →
      s.engs.find? (fun e => e.part == part && e.kind.toAll && e.rset == rset && e.place == idx) = some e →
      ∃ u x, exec (.flitReceive port f) s = .next u ∧ u.eng? e.id = some x ∧
        assoc rank x.peers = some (((assoc rank e.peers).getD []) ++ l) ∧ u.mem = s.mem) ∧
    (∀ (rset idx rank : Nat) (l : List W32) (part : Nat) (rs : RankSet), f.seq = p.expect → p.up = true → p.enabled = true →
      f.body = .reduce rset idx rank l → s.portSet port rset (some rank) = some (part, rs) → p.inbox = [] →
      (((s.part? part).bind fun p => assoc rset p.collectives).getD 0) ≤ idx →
      ∃ u q, exec (.flitReceive port f) s = .next u ∧ u.ports[port]? = some q ∧ q.expect = p.expect + 1 ∧ q.inbox = [f] ∧
        (f.vc < 4 → f.vc ∈ q.stopped) ∧ u.engs = s.engs ∧ u.mem = s.mem))

/-! ## Class Y: rendezvous, barriers, monitors, recruitment (10_memory_sync R242 to R247; 02_execution R38 to R45; 12 R282, R283) -/

/-- R243, R358: `rdv.init` sets the expected arrivals of its point; what has been counted stays; a count outside 1 to 255 raises
OPERAND; a point that a consist holds raises CONSIST 4 (R355). The model counts phases without bound (log entry 46). R167, R242, R243:
an arrival that is not the last, its release having nothing to wait for: it is counted, every entry of the group that nothing holds is
held for the phase under its generation, and the generations of all tracks advance; `rdv.arrive` goes on, `rdv.sync` waits for the
phase. -/
def Obligations.RendezvousCounts : Prop :=
  (∀ (f : Y) (s : State) (v : View) (g : Group) (t : Team), s.view = some v → v.Home → v.Uni f.a → s.group? v.g.id = some g →
    s.team? v.g.id.team = some t → f.point < v.g.rdv →
    let a := (v.uni f.a).toNat
    let p := t.point f.point
    ((a = 0 ∨ 255 < a) → v.c.prog.begun = false → exec (.rdvInit f) s = .next (s.raiseAt v codeOPERAND 0x12 0 0)) ∧
    (1 ≤ a → a ≤ 255 → v.c.prog = .none → (∃ c ∈ t.consists, c.point = f.point) →
      exec (.rdvInit f) s = .next (s.raiseAt v codeCONSIST 4 0 0)) ∧
    (1 ≤ a → a ≤ 255 → (∀ c ∈ t.consists, c.point ≠ f.point) → p.arrivals < p.expected → p.arrivals < a →
      exec (.rdvInit f) s = .next ((s.putTeam { t with points := t.points.set f.point { p with expected := a } }).putGroup
        (g.advance v.c.cid 1)))) ∧
  (∀ (f : Y) (s : State) (v : View) (g : Group) (t : Team), s.view = some v → v.Home → s.group? v.g.id = some g →
    s.team? v.g.id.team = some t → f.point < v.g.rdv → v.c.prog = .none → (∀ c ∈ t.consists, c.point ≠ f.point) →
    s.tracksHeld v.g v.c.cid allTracks = false → v.g.quiet allTracks = true → s.loadsOut v.g.id allTracks = false →
    (∀ e ∈ g.pot, e.trk < 16) →
    let n := f.point
    let p := t.point n
    let g' := { g with allAt := s.tick
                       pot := g.pot.map fun (e : Entry) => 
                         if e.hold.isNone then { e with hold := some (n, p.phase), gen := (t.gens[e.trk]?).getD 0 } else e
                       lastArr := g.lastArr.set n (some p.phase) }
    let after := fun (u : State) => ∃ t', u.team? v.g.id.team = some t' ∧ t'.points = t.points.set n { p with arrivals := p.arrivals + 1 } ∧
      (∀ k < 16, t'.gens[k]? = t.gens[k]?.map (· + 1)) ∧ u.mem = s.mem ∧ u.ops = s.ops
    p.arrivals + 1 < p.expected →
    (∃ u, exec (.rdvArrive f) s = .next u ∧ u.group? v.g.id = some (g'.advance v.c.cid 1) ∧ after u) ∧
    (v.Dst f.a → s.gridFailed v.g.id.team.grid = none → p.err = none →
      ∃ u, exec (.rdvSync f) s = .next u ∧ u.group? v.g.id = some (g'.hold v.c.cid (.phase false n p.phase f.a)) ∧ after u))

/-- R242, R243, R336: `rdv.wait` waits for the phase of the group's last arrival at the point, or the current one; once that phase is
over it goes on with its number in A, and with the error word where the phase stands in error. R243, R167: the phase of a point,
unbounded in the model (log entry 46), whose arrivals are all counted, with no entry held for it left, is over: its number advances,
no arrival is counted, and a group whose only cohort waits for it goes on with the number in A. -/
def Obligations.RendezvousPhases : Prop :=
  (∀ (f : Y) (s : State) (v : View) (g : Group) (t : Team), s.view = some v → v.Home → v.Dst f.a → s.group? v.g.id = some g →
    s.team? v.g.id.team = some t → f.point < v.g.rdv → v.c.prog = .none → s.gridFailed v.g.id.team.grid = none →
    let n := f.point
    let p := t.point n
    let k := ((g.lastArr[n]?).getD none).getD p.phase
    let ends := fun (word : W64) => ∃ u, exec (.rdvWait f) s = .next u ∧ u.mem = s.mem ∧
      u.group? v.g.id = some ({ (v.writeD g f.a word) with lastArr := g.lastArr.set n none, allAt := s.tick }.advance v.c.cid 1)
    (k < p.phase → ends (BitVec.ofNat 64 (k % 128))) ∧
    (p.phase ≤ k → ∀ code < 256, p.err = some code → ends (BitVec.ofNat 64 (k % 128 + 2 ^ 7 + code * 2 ^ 8))) ∧
    (p.phase ≤ k → p.err = none → exec (.rdvWait f) s = .next (s.putGroup (g.hold v.c.cid (.phase false n k f.a))))) ∧
  (∀ (s : State) (t : TeamId) (x : Team) (n : Nat), s.team? t = some x → x.st = .running → n < x.points.length →
    let p := x.point n
    p.expected ≤ p.arrivals → (∀ g ∈ s.groups, g.id.team = t → ∀ e ∈ g.pot, e.hold ≠ some (n, p.phase)) →
    (∀ o ∈ s.ops, o.gid.team = t → o.hold ≠ some (n, p.phase)) →
    ∃ u y, exec (.rdvPhaseRelease t n) s = .next u ∧ u.mem = s.mem ∧ u.team? t = some y ∧
      y.point n = { p with phase := p.phase + 1, arrivals := 0, err := none } ∧
      ∀ (g : Group) (c : Cohort) (d : Code) (r : Nat), s.group? g.id = some g → g.id.team = t → g.cohorts = [c] → c.helper = none →
        c.stopped = false → c.prog = .phase false n p.phase d → opd d = .s r → (g.sreg r).full = true →
        u.group? g.id = some ({ g.setS r (BitVec.ofNat 64 (p.phase % 128)) with
          lastArr := g.lastArr.set n none, allAt := s.tick }.advance c.cid 1))

/-- R244 (phases unbounded in the model, log entry 46): `gbar.arrive`, its release having nothing to wait for, records the group's
arrival in the barrier's current phase. R244, R336: `gbar.wait` waits for the phase of the group's last arrival at the barrier, or the
current one. R244: once every team has started and every group of it has arrived or exited, the phase of a barrier is over and its
number advances; while a group has not arrived, it stays. -/
def Obligations.GridBarriers : Prop :=
  (∀ (f : Y) (s : State) (v : View) (g : Group) (t : Team) (gr : Grid), s.view = some v → v.Home → s.group? v.g.id = some g →
    s.team? v.g.id.team = some t → s.grid? v.g.id.team.grid = some gr → f.point < 8 → s.Drained v allTracks →
    gr.relaunch = false → gr.kept = [] →
    let ph := gr.barPhase f.point
    ∃ u, exec (.gbarArrive f) s = .next u ∧ u.mem = s.mem ∧ u.grids = s.grids ∧
      u.group? v.g.id = some ({ g with allAt := s.tick, barArr := g.barArr.set f.point (some ph)
                                       barWait := g.barWait.set f.point (some ph) }.advance v.c.cid 1)) ∧
  (∀ (f : Y) (s : State) (v : View) (g : Group) (gr : Grid), s.view = some v → v.Home → v.Dst f.a → s.group? v.g.id = some g →
    s.grid? v.g.id.team.grid = some gr → f.point < 8 → v.c.prog = .none →
    let k := ((v.g.barArr[f.point]?).getD none).getD (gr.barPhase f.point)
    let ends := fun (word : W64) => ∃ u, exec (.gbarWait f) s = .next u ∧ u.mem = s.mem ∧
      u.group? v.g.id = some ({ (v.writeD g f.a word) with barArr := g.barArr.set f.point none, allAt := s.tick }.advance v.c.cid 1)
    (gr.failed = none → k < gr.barPhase f.point → ends (BitVec.ofNat 64 (k % 128))) ∧
    (∀ code < 256, gr.failed = some code → ends (BitVec.ofNat 64 (k % 128 + 2 ^ 7 + code * 2 ^ 8))) ∧
    (gr.failed = none → gr.barPhase f.point ≤ k →
      exec (.gbarWait f) s = .next (s.putGroup (g.hold v.c.cid (.phase true f.point k f.a))))) ∧
  (∀ (s : State) (id : GridId) (gr : Grid) (n : Nat), s.grid? id = some gr → n < 8 → gr.bars.length = 8 → gr.kept = [] →
    let ph := gr.barPhase n
    let here := fun t i => ∃ g, s.group? ⟨⟨gr.id, t⟩, i⟩ = some g ∧ g.barWait[n]? = some (some ph)
    let gone := fun t i => s.group? ⟨⟨gr.id, t⟩, i⟩ = none ∧ (s.team? ⟨gr.id, t⟩).isSome = true
    (gr.q.teams ≤ gr.next → (∀ t < gr.q.teams, t ∈ gr.ended ∨ ∀ i < gr.q.groups, here t i ∨ gone t i) →
      (∃ t < gr.q.teams, ∃ i < gr.q.groups, here t i) →
      ∃ u, exec (.gbarPhaseComplete id n) s = .next u ∧ u.mem = s.mem ∧ u.grid? id = some { gr with bars := gr.bars.set n ⟨ph + 1⟩ }) ∧
    (∀ t < gr.q.teams, t ∉ gr.ended → ∀ i < gr.q.groups, ∀ g, s.group? ⟨⟨gr.id, t⟩, i⟩ = some g → (g.barWait[n]?).getD none ≠ some ph →
      exec (.gbarPhaseComplete id n) s = .next s))

/-- R67, R245, R246: `watch` places the group's monitor on a line and completes once the home has armed it; `sleep` ends at once with
reason 1 where the monitor has fired, with 2 where the timeout is over, and otherwise sleeps until then; the armed monitor is disarmed
at the wake. R247, R299, R300: `yield` gives its group's place away and moves on; a ready pending group enters the active set while it
has a free place, or takes that of a group that is blocked or has given way; a group that stands at a clause boundary after 4,096 cc
gives way to a ready pending one. -/
def Obligations.WatchSleepAndActiveSet : Prop :=
  ((∀ (f : Y) (s : State) (v : View), s.view = some v → v.Home → v.UniPair f.a → v.c.prog ≠ .watch →
    exec (.watch f) s = .next (s.putGroup { (v.g.hold v.c.cid .watch) with
      monitor := some ⟨s.lineKey v.g.asid (v.addrVal f.a).toNat, false, false⟩ })) ∧
  (∀ (s : State) (id : GroupId) (g : Group) (c : Cohort), s.group? id = some g → g.cohorts = [c] → c.prog = .watch → c.stopped = false →
    exec (.monitorArmed id) s = .next (s.putGroup ({ g with
      monitor := g.monitor.map fun (m : Monitor) => { m with armed := true } }.advance c.cid 1))) ∧
  (∀ (f : Y) (s : State) (v : View) (g : Group), s.view = some v → v.Home → v.Uni f.a → v.Dst f.b → v.c.prog = .none →
    s.group? v.g.id = some g →
    let now := s.now v.g.core
    let wait := (v.uni f.a).toNat % 2 ^ 32
    let fired := ∃ m, v.g.monitor = some m ∧ m.fired = true
    let wakes := fun (why : Nat) => Goes s (.sleep f) { ((v.writeD v.g f.b (BitVec.ofNat 64 why)).advance v.c.cid 1) with
      monitor := v.g.monitor.bind fun m => if m.armed = true then none else some m }
    (fired → wakes 1) ∧ (¬fired → wait = 0 → wakes 2) ∧
    (¬fired → 0 < wait → exec (.sleep f) s = .next (s.putGroup (g.hold v.c.cid (.sleep (now + wait) f.b))))) ∧
  ∀ (s : State) (id : GroupId) (g : Group) (c : Cohort) (till : Nat) (d : Code) (r : Nat), s.resident? id = some g →
    g.cohort? c.cid = some c → c.stopped = false → c.prog = .sleep till d → opd d = .s r → (g.sreg r).full = true →
    (till ≤ s.now g.core →
      exec (.sleepTimeout id c.cid) s = .next (s.putGroup { ((g.setS r 2).advance c.cid 1) with
        monitor := g.monitor.bind fun m => if m.armed = true then none else some m })) ∧
    (s.now g.core < till → exec (.sleepTimeout id c.cid) s = .next s)) ∧
  ((∀ (y : Y) (s : State) (v : View), s.view = some v → v.Home → Does s v (.yield y) 1 { v.g with yielded := true }) ∧
  ∀ (s : State) (id : GroupId) (g : Group), s.resident? id = some g →
    let act := (s.quadGroups g).filter (·.active)
    (g.active = false → g.blocked = false →
      (act.length < 8 → exec (.activeSetEntry id) s =
        .next (s.putGroup { g with active := true, placed := s.now g.core, yielded := false })) ∧
      (8 ≤ act.length → ∀ x ∈ act, act.find? (fun x => x.blocked || x.yielded) = some x → exec (.activeSetEntry id) s =
        .next ((s.putGroup { x with active := false, yielded := false }).putGroup
          { g with active := true, placed := s.now g.core, yielded := false })) ∧
      (8 ≤ act.length → (∀ x ∈ act, x.blocked = false ∧ x.yielded = false) → exec (.activeSetEntry id) s = .next s)) ∧
    (g.active = true → g.placed + 4096 ≤ s.now g.core → (∃ c ∈ g.cohorts, c.entered = false) →
      (∃ x ∈ s.quadGroups g, x.active = false ∧ x.blocked = false) →
      exec (.activePlaceTimeout id) s = .next (s.putGroup { g with active := false, yielded := false })))

/-- R38, R39, R282: a `recruit` of a cohort of one, its release having nothing to wait for: RECRUIT.WHY and D hold the grant, which
lies between 1 and the least of the request and the chunks; helper 0 is the recruiter at the entry clause, and the recruitment holds
its chunks, exports and depth. R41, R42, R45, R283, R341: `hnext` hands out the lowest chunk left, −1 once none is or under forced
release; `hsum` deposits a contribution in the frame; outside helper bodies both raise HELPER. R37, R43, R64: a hosted helper with no
load on its way ends at `hdone`: its cohort is gone, one helper fewer is hosted, and its host has the lend registers it wrote and
waits at its join again. -/
def Obligations.RecruitsAndHelpers : Prop :=
  (∀ (f : RecruitF) (s : State) (v : View) (g : Group) (i : Nat), s.view = some v → v.Home → s.group? v.g.id = some g →
    s.Drained v allTracks → v.lanes = [i] → v.c.cid < g.nextCid → v.Dst f.d → v.Uni f.a → v.Uni f.b →
    let req := (v.uni f.a).toNat
    let chunks := (v.uni f.b).toNat
    let e := f.imm.toNat
    let x := f.xb.toNat
    e ≤ 8 → 1 ≤ req → req ≤ 64 → chunks ≤ 256 →
    (∀ j < e, x + j < v.g.vregs ∧ (v.g.vreg (x + j)).tag ≠ .g ∧ (v.g.vreg (x + j)).full = true ∧ (v.g.vreg (x + j)).bad = false) →
    (e ≠ 0 → x < 64) →
    ∃ (u : State) (g' : Group) (r : Recruitment) (n why : Nat), exec (.recruit f) s = .next u ∧ u.mem = s.mem ∧
      u.group? v.g.id = some g' ∧ 1 ≤ n ∧ n ≤ min req (max chunks 1) ∧ (v.shadow = true ∨ g.lendCount = 0 → n = 1) ∧
      g'.why = BitVec.ofNat 64 (why + n * 2 ^ 8 + chunks * 2 ^ 16) ∧ why ≤ 4 ∧ (why = 0 → n = min req (max chunks 1)) ∧
      g'.recruits = g.recruits ++ [r] ∧ r.lane = i ∧ r.depth = (g.thread i).depth ∧ r.chunks = chunks ∧ r.next = 0 ∧
      r.deposits = [] ∧ r.hosted = n - 1 ∧ r.exports.length = e ∧
      (∀ j < e, r.exports[j]? = some (v.elem (x + j) i, if (g.vreg (x + j)).tag = .a then v.elem (x + j) 1 - v.elem (x + j) 0 else 0)) ∧
      (∀ c ∈ g'.cohorts, c.cid ≠ v.c.cid) ∧
      (∃ c ∈ g'.cohorts, c.cid = g.nextCid ∧ c.lanes = oneLane i ∧ c.clause = target v.c.clause f.entry ∧ c.word = 1 ∧
        c.helper.map (fun h => (h.recr, h.k, h.lane)) = some (r.id, 0, i)) ∧
      (∀ k < n - 1, ∃ c ∈ g'.cohorts, c.cid = g.nextCid + 1 + k ∧ c.lanes = oneLane i ∧ c.clause = target v.c.clause f.entry ∧
        c.helper.map (fun h => (h.recr, h.k, h.lane)) = some (r.id, k + 1, i)) ∧
      (∀ k, opd f.d = .s k → k < g.s.length → g'.sreg k = ⟨BitVec.ofNat 64 n, true, false⟩)) ∧
  (∀ (f : Y) (s : State) (v : View), s.view = some v →
    (v.c.prog.begun = false → v.Home →
      (v.dDst f.a = true → v.isEmpty f.a 1 = false → exec (.hnext f) s = .next (s.raiseAt v codeHELPER 1 0 0)) ∧
      (v.Src f.a → v.Src f.b → f.imm.toNat < v.g.vregs → ∀ i ∈ [Instr.hsumF32 f, .hsumI32 f],
        exec i s = .next (s.raiseAt v codeHELPER 1 0 0))) ∧
    ∀ (h : Helper) (r : Recruitment), v.c.helper = some h → v.recruitment = some r →
      (v.dDst f.a = true → v.isEmpty f.a 1 = false → (isS f.a = false → v.Free f.a 1) →
        let put := fun (g : Group) (x : W32) => match opd f.a with
          | .v n => v.writeV g n v.c.lanes (fun _ => x) .g
          | _ => g.setS (regNo f.a) (x.setWidth 64)
        (s.underForce v h r = false → r.next < r.chunks →
          Does s v (.hnext f) 1 (put (v.g.mapRecruit r.id fun r => { r with next := r.next + 1 }) (BitVec.ofNat 32 r.next))) ∧
        (s.underForce v h r = true ∨ r.chunks ≤ r.next → Does s v (.hnext f) 1 (put v.g 0xFFFFFFFF#32))) ∧
      ∀ p ∈ [(Instr.hsumF32 f, true), (.hsumI32 f, false)], v.Src f.a → v.Src f.b → f.imm.toNat < v.g.vregs →
        let chunk := (v.r32 .word f.b v.lane0).toNat
        let dest := f.imm.toNat
        chunk < r.chunks → (∀ d ∈ r.deposits, d.dest = dest → d.chunk ≠ chunk ∧ d.isF32 = p.2) →
        ((∃ d ∈ r.deposits, d.dest = dest) ∨ ∃ k, ∀ d ∈ r.deposits, d.dest = k) →
        Does s v p.1 1 (v.g.mapRecruit r.id fun r => { r with
          deposits := r.deposits ++ [⟨dest, chunk, p.2, v.r32 .word f.a v.lane0⟩] })) ∧
  (∀ (f : Y) (s : State) (v : View) (h : Helper), s.view = some v → v.c.helper = some h → h.k ≠ 0 → h.host ≠ v.g.id →
    (∀ l ∈ h.lend, l.written = true → l.full = true) →
    ∃ u, exec (.hdone f) s = .next u ∧ u.mem = s.mem ∧ u.ops = s.ops ∧
      u.group? v.g.id = some ((v.g.mapRecruit h.recr fun r => { r with hosted := r.hosted - 1
                                                                       forced := r.forced.filter fun k => k != h.k }).dropCohort v.c.cid) ∧
      ∀ hg, s.group? h.host = some hg → h.hostLane < hg.threads.length → ∃ hg', u.group? h.host = some hg' ∧
        hg' = { hg with v := hg'.v, threads := hg'.threads } ∧ (hg'.thread h.hostLane).hosting = false ∧
        (∀ i, i ≠ h.hostLane → hg'.thread i = hg.thread i) ∧
        (∀ r i, (i ≠ h.hostLane ∨ r < hg.lend0 ∨ hg.lend0 + h.lend.length ≤ r) → hg'.elem r i = hg.elem r i) ∧
        ∀ (j : Nat) (l : Lend), h.lend[j]? = some l → hg.lend0 + j < hg.v.length →
          h.hostLane < (hg.vreg (hg.lend0 + j)).lanes.length →
          hg'.elem (hg.lend0 + j) h.hostLane = (if l.written = true then l.val else hg.elem (hg.lend0 + j) h.hostLane))

/-- R42, R43: `hjoin`, or its completion once the last hosted helper is done: each destination of a deposit takes the sum of its
contributions in ascending chunk order, in the recruiter's lane; the recruitment is over. Before that the recruiter waits. R28: once
every thread that owes a meeting has arrived at it, and none of them hosts a helper, they are one cohort at the word after the `join`,
that of the lowest lane where they wait at several (the model's reading, log entry 45), their meeting registers popped; while one has
not, nothing happens. R45: a meeting that is due while threads of it host helpers forces those helpers: they take no further chunk. -/
def Obligations.RecruitmentsEnd : Prop :=
  (∀ (s s' : State) (v : View) (h : Helper) (r : Recruitment) (i : Instr), s'.view = some v → v.c.helper = some h → h.k = 0 →
    v.recruitment = some r →
    ((∃ f, i = .hjoin f ∧ s = s') ∨
      (i = .hjoinComplete v.g.id r.id ∧ s' = s.focus v.g.id v.c.cid ∧ v.c.prog = .hjoin ∧ v.c.stopped = false ∧
        ∃ g, s.group? v.g.id = some g ∧ g.cohorts = [v.c])) →
    (r.hosted = 0 → (∀ d ∈ r.deposits, (v.g.vreg d.dest).full = true ∧ d.dest < v.g.v.length) → r.lane < v.g.width → v.g.width ≤ 64 →
      ∃ W : Group, W = { v.g with v := W.v } ∧
        (∀ d ∈ r.deposits, ∃ l : List Deposit, l.Perm (r.deposits.filter fun x => x.dest == d.dest) ∧ l.Pairwise (fun a b => a.chunk ≤ b.chunk) ∧
          W.elem d.dest r.lane = l.foldl (fun acc x => if x.isF32 then fadd acc x.val else acc + x.val) 0) ∧
        (∀ k j, j < v.g.width → ((∀ d ∈ r.deposits, d.dest ≠ k) ∨ j ≠ r.lane) → W.elem k j = v.g.elem k j) ∧
        exec i s = .next (s.putGroup ({ (W.putCohort { v.c with helper := none }) with
          recruits := v.g.recruits.filter (fun x => x.id != r.id), allAt := s.tick }.advance v.c.cid 1))) ∧
    (r.hosted ≠ 0 → (∀ f g, i = .hjoin f → s'.group? v.g.id = some g → exec i s = .next (s.putGroup (g.hold v.c.cid .hjoin))) ∧
      (i = .hjoinComplete v.g.id r.id → exec i s = .next s))) ∧
  (∀ (s : State) (id : GroupId) (g : Group) (m : Meeting), s.resident? id = some g →
    let waits := fun i => (g.thread i).meet = m ∧ (g.thread i).wait.isSome = true
    let owes := fun i => (g.thread i).meet = m ∨ m ∈ (g.thread i).stack
    ((∃ i < g.width, owes i ∧ ¬waits i) → exec (.joinRelease id m.at_ m.depth) s = .next (s.putGroup g)) ∧
    ∀ (i : Nat) (w : Waiting), i < g.width → waits i → (∀ j < i, ¬waits j) → (g.thread i).wait = some w →
      (∀ j < g.width, owes j → waits j) → (∀ j < g.width, waits j → (g.thread j).hosting = false) →
      (∀ c ∈ g.cohorts, c.cid ≠ g.nextCid) → g.width ≤ 64 → g.threads.length = g.width →
      ∃ (g' : Group) (c : Cohort), exec (.joinRelease id m.at_ m.depth) s = .next (s.putGroup g') ∧ g'.cohorts = g.cohorts ++ [c] ∧
        c.cid = g.nextCid ∧ g'.nextCid = g.nextCid + 1 ∧ (∀ j < 64, c.lanes.getLsbD j = true ↔ j < g.width ∧ waits j) ∧
        (w.word + 1 ≤ w.count → c.clause = m.at_ ∧ c.word = w.word + 1 ∧ c.entered = true ∧ c.count = w.count) ∧
        (w.count < w.word + 1 → c.clause = (m.at_ + 4 * (w.count + 1)) % 2 ^ 56 ∧ c.word = 1 ∧ c.entered = false) ∧
        (∀ j < g.width, waits j → g'.thread j = (g.thread j).released) ∧ (∀ j < g.width, ¬waits j → g'.thread j = g.thread j) ∧
        ∀ k j, g'.elem k j = g.elem k j) ∧
  (∀ (s : State) (id : GroupId) (g : Group) (m : Meeting), s.resident? id = some g →
    (g.due m = false → exec (.forcedRelease id m.at_ m.depth) s = .next s) ∧
    (g.due m = true → ∃ u, exec (.forcedRelease id m.at_ m.depth) s = .next u ∧ u = { s with groups := u.groups } ∧
      ∀ (x : Group) (c : Cohort) (h : Helper), s.group? x.id = some x → x.cohorts = [c] → c.helper = some h →
        (h.k ≠ 0 → h.host = id → h.hostLane < g.width → (g.thread h.hostLane).arrived m = true → (g.thread h.hostLane).hosting = true →
          u.group? x.id = some (x.mapRecruit h.recr fun r => { r with forced := r.forced ++ [h.k] })) ∧
        (h.k = 0 ∨ h.host ≠ id → u.group? x.id = some x)))

/-! ## Class K and `exit`: state registers, traps, bank modes, events (12_engines_system R283 to R288; 03 R79; 08 R190; 17 R311, R312) -/

/-- R79, R284, R39, R129, R131, R145, R264, R308, R359: what `sr.rd` reads of each listed state register; PANTRY.FREE and PANTRY.HELD
are asked of the pantry home and leave the destination empty; an SRN that is not listed raises OPERAND. That VAULT.REFRESH is rounded
up (log entry 74) and when bank 0's refresh slots begin (log entry 40) are the model's choices. R79, R149, R150, R284: `sr.wr` writes
RANDKEY of the group, and PANTRY.WATERMARK, BALLOON.LIST, the ACK of BALLOON.REQ and the mailboxes of the context; a write of a
read-only register changes nothing. R145: the reading of PANTRY.FREE or PANTRY.HELD arrives and fills its destination. -/
def Obligations.StateRegisters : Prop :=
  (∀ (f : K) (s : State) (v : View) (g : Group), s.view = some v → v.Home → v.Dst f.d → s.group? v.g.id = some g →
    let n := f.srn.toNat
    let reads := fun (x : Nat) => Does s v (.srRd f) 1 (v.writeD v.g f.d (BitVec.ofNat 64 x))
    (n = 0x000 → reads (s.now v.g.core)) ∧ (n = 0x001 → reads s.time) ∧ (n = 0x002 → reads (v.g.id.team.grid.tok % 2 ^ 40)) ∧
    (n = 0x003 → ∀ gr, s.grid? v.g.id.team.grid = some gr → reads gr.q.teams) ∧
    (n = 0x004 → reads (v.g.core + v.g.quad * 2 ^ 8)) ∧
    (n = 0x005 → ∀ p, s.part? v.g.id.team.grid.part = some p →
      reads (v.g.id.team.grid.part % 8 + p.first % 8 * 2 ^ 8 + p.tiles % 16 * 2 ^ 16)) ∧
    (n = 0x006 → reads (v.g.asid % 2 ^ 16)) ∧
    (n = 0x015 → ∀ p, s.part? v.g.id.team.grid.part = some p → reads (p.ratio % 2 ^ 10)) ∧
    (∀ c, s.ctx? v.g.asid = some c → (n = 0x012 → reads (c.watermark % 2 ^ 40)) ∧ (n = 0x013 → reads (c.balloonReq % 2 ^ 40)) ∧
      (n = 0x014 → reads (c.balloonList % 2 ^ 56)) ∧
      (∀ k < 8, ∀ m, c.mboxes[k]? = some m → n = 0x20 + k →
        reads (m.val.toNat + m.seq % 2 ^ 31 * 2 ^ 32 + if m.valid = true then 2 ^ 63 else 0)) ∧
      (n = 0x010 ∨ n = 0x011 → ∀ r, opd f.d = .s r → ∃ u, exec (.srRd f) s = .next u ∧
        u.ctx? v.g.asid = some { c with
          reads := c.reads ++ [⟨s.nextId, v.g.id, n == 0x011, v.c.lanes, .s r⟩] } ∧
        u.group? v.g.id = some ((v.g.emptyS r).advance v.c.cid 1) ∧ u.mem = s.mem)) ∧
    (n = 0x030 → let rows := (s.core v.g.core).rows
      (rows.map (·.e)).Nodup → (∀ r ∈ rows, r.e < 16) → ∃ x < 2 ^ 32, reads x ∧ ∀ i < 16,
        (x.testBit i = true ↔ ∃ r ∈ rows, r.e = i) ∧ (x.testBit (16 + i) = true ↔ ∃ r ∈ rows, r.e = i ∧ ∃ why, r.st = .expired why)) ∧
    (let cc := fun (ns : Nat) => (ns * s.mhz v.g.core + 999) / 1000
     n = 0x031 → ((s.vault v.g.core).window = none → reads 0) ∧ ∀ w, (s.vault v.g.core).window = some w →
      (w.active = false → reads (cc (w.start - s.time) % 2 ^ 32 + cc w.len % 2 ^ 16 * 2 ^ 32)) ∧
      (w.active = true → reads (cc (w.start + w.len - s.time) % 2 ^ 32 + cc w.len % 2 ^ 16 * 2 ^ 32 + 2 ^ 48))) ∧
    (let runs := fun (b t : Nat) => b < 192 ∧ (s.vault v.g.core).bankState b = .refreshing t
     let left := fun (t : Nat) => t + s.dramCc v.g.core 200 - s.now v.g.core
     let due := fun (b k : Nat) => b < 192 ∧ ((s.vault v.g.core).dbank b).slots ≤ k ∧ 7 * s.time ≤ slotStart b k
     n = 0x032 → ((∃ b t, runs b t) → ∃ b t, runs b t ∧ reads (left t % 2 ^ 16 + b * 2 ^ 16 + 2 ^ 24) ∧
        ∀ b' t', runs b' t' → left t < left t' ∨ (left t = left t' ∧ b ≤ b')) ∧
      ((¬∃ b t, runs b t) → ∃ b k, due b k ∧
        reads (((slotStart b k - 7 * s.time) * s.mhz v.g.core + 6999) / 7000 % 2 ^ 16 + b * 2 ^ 16) ∧
        ∀ b' k', due b' k' → slotStart b k < slotStart b' k' ∨ (slotStart b k = slotStart b' k' ∧ b ≤ b'))) ∧
    (n = 0x040 → reads v.g.why.toNat) ∧ (n = 0x041 → reads v.g.randkey.toNat) ∧
    (n = 0x042 → reads (16 - ((s.groups.filter fun y => y.core == v.g.core && y.quad == v.g.quad && !y.slots.isEmpty).map
      fun y => (y.recruits.filter fun r => r.frame).length).sum)) ∧
    (n = 0x050 → Does s v (.srRd f) 1 { (v.writeD v.g f.d (BitVec.ofNat 64 v.g.stamp)) with stamp := (v.g.stamp + 1) % 512 }) ∧
    (n = 0x060 → ∃ x, reads x ∧ x < 2 ^ 16 ∧ ∀ t < 16, x.testBit t = (v.g.count t != 0)) ∧
    (v.c.prog.begun = false → n ∉ [0, 1, 2, 3, 4, 5, 6, 0x10, 0x11, 0x12, 0x13, 0x14, 0x15, 0x20, 0x21, 0x22, 0x23, 0x24, 0x25, 0x26, 0x27, 0x30, 0x31, 0x32,
      0x40, 0x41, 0x42, 0x50, 0x60] → exec (.srRd f) s = .next (s.raiseAt v codeOPERAND 8 0 0))) ∧
  (∀ (f : K) (s : State) (v : View) (g : Group) (c : Context), s.view = some v → v.Home → v.Uni f.d → s.group? v.g.id = some g →
    s.ctx? v.g.asid = some c →
    let n := f.srn.toNat
    let x := v.uni f.d
    let puts := fun (c' : Context) => exec (.srWr f) s = .next ((s.putCtx c').putGroup (g.advance v.c.cid 1))
    (n = 0x041 → Does s v (.srWr f) 1 { v.g with randkey := x }) ∧
    (n = 0x012 → puts { c with watermark := x.toNat % 2 ^ 40 }) ∧ (n = 0x014 → puts { c with balloonList := x.toNat % 2 ^ 56 }) ∧
    (n = 0x013 → puts (if x.getLsbD 63 = true then { c with balloonReq := 0, owed := [] } else c)) ∧
    (∀ k < 8, ∀ m, c.mboxes[k]? = some m → n = 0x20 + k → puts { c with mboxes := c.mboxes.set k { m with val := x.setWidth 32 } }) ∧
    (n ∈ [0, 1, 2, 3, 4, 5, 6, 0x10, 0x11, 0x15, 0x30, 0x31, 0x32, 0x40, 0x42, 0x50, 0x60] → puts c)) ∧
  (∀ (s : State) (c : Context) (r : PantryRead) (g : Group), s.ctxs.find? (fun c => c.reads.any fun x => x.id == r.id) = some c →
    c.reads.find? (fun x => x.id == r.id) = some r → s.group? r.gid = some g →
    let x := BitVec.ofNat 64 ((if r.held = true then c.held else c.free) % 2 ^ 40)
    let s' := s.putCtx { c with reads := c.reads.filter fun y => y.id != r.id }
    (∀ n, r.dest = .s n → exec (.pantryReadReturn r.id) s = .next (s'.putGroup (g.setS n x))) ∧
    ∀ n k b, r.dest = .v n k b → exec (.pantryReadReturn r.id) s =
      .next (s'.putGroup ((g.setV n r.lanes (fun _ => x.setWidth 32) .u).fillV n)))

/-- R285, R328, R359: `trap` raises TRAP and `brk` BRK, at their own word, with DETAIL 0. R119, R287, R359: `bank.mode` begins the
change of a bank of its team, and the bank changes once every earlier access to it is done: it is then empty, and lines it held are
gone from the L1. R288, R311, R312: `evt.post`, its release having nothing to wait for, appends its event to its context's queue once
there is room; the entry is then written, its PHASE bit toggling with every lap, and a host queue raises its vector. -/
def Obligations.TrapsBankModesAndEvents : Prop :=
  (∀ (f : K) (s : State) (v : View), s.view = some v → v.Home →
    exec (.trap f) s = .next (s.raiseAt v codeTRAP 0 0 0) ∧ exec (.brk f) s = .next (s.raiseAt v codeBRK 0 0 0)) ∧
  ((∀ (f : K) (s : State) (v : View) (g : Group), s.view = some v → v.Home → isS f.d = true → v.Holds f.d 1 → s.group? v.g.id = some g →
    let n := (v.uni f.d).toNat
    let k := pairOf v.g.core
    let b := s.bankOf v.g.id.team (n * 65536)
    let x := (s.pair k).bank b
    let m : BankMode := if f.imm.toNat = 0 then .way else if f.imm.toNat = 1 then .scratch else .fifo
    (n < v.g.banks → x.switch = none → exec (.bankMode f) s =
      .next ((s.putPair k ((s.pair k).putBank b { x with switch := some (m, s.nextId) })).putGroup (g.advance v.c.cid 1))) ∧
    (n < v.g.banks → x.switch ≠ none → exec (.bankMode f) s = .next s) ∧
    (v.g.banks ≤ n → v.c.prog.begun = false → exec (.bankMode f) s = .next (s.raiseAt v codeOPERAND 0x11 0 0))) ∧
  ∀ (s : State) (k b at_ : Nat) (m : BankMode) (x : CBank), (s.pair k).banks[b]? = some x → x.switch = some (m, at_) →
    (s.bankBusy k b at_ = true → exec (.bankModeSwitch k b) s = .next s) ∧
    (s.bankBusy k b at_ = false → ∃ p, exec (.bankModeSwitch k b) s = .next (s.putPair k p) ∧
      p.banks[b]? = some ⟨m, x.owner, [], [], [], none⟩ ∧ (∀ c, c ≠ b → p.banks[c]? = (s.pair k).banks[c]?) ∧
      p.ep = (s.pair k).ep ∧ p.l1 = (s.pair k).l1.filter (fun l => l.bank != b))) ∧
  ((∀ (f : K) (s : State) (v : View) (g : Group) (c : Context) (x : EventQueue), s.view = some v → v.Home → isS f.d = true →
    v.Holds f.d 1 → s.group? v.g.id = some g → s.ctx? v.g.asid = some c → f.imm.toNat ≤ 15 → c.queues[f.imm.toNat]? = some x →
    s.Drained v allTracks → s.queueRoom v.g.asid x x.waiting.length = true →
    ∃ u, exec (.evtPost f) s = .next u ∧ u.mem = s.mem ∧ u.hostMem = s.hostMem ∧
      u.ctx? v.g.asid = some { c with queues := c.queues.set f.imm.toNat { x with
        waiting := x.waiting ++ [(0, v.g.core, v.uni f.d)] } } ∧
      u.group? v.g.id = some ({ g with allAt := s.tick }.advance v.c.cid 1)) ∧
  ∀ (s : State) (asid q a kind core : Nat) (payload : W64) (rest : List (Nat × Nat × W64)) (c : Context) (x : EventQueue),
    s.MemOk → s.ctx? asid = some c → c.queues[q]? = some x → x.waiting = (kind, core, payload) :: rest → kind < 256 → core < 256 →
    s.queueRoom asid x 0 = true →
    let at_ := a + 16 * (x.next % 4096)
    let tail := kind + core * 2 ^ 8 + if x.next / 4096 % 2 = 0 then 2 ^ 63 else 0
    let c' := { c with queues := c.queues.set q { x with next := x.next + 1, waiting := rest } }
    (x.base = .iova a → ∃ u, exec (.eventAppend asid q) s = .next u ∧ u.mem = s.mem ∧ u.ctx? asid = some c' ∧
      u.reports = s.reports ++ [.msix c.part q] ∧ cellsRead u.hostMem at_ 8 = payload.toNat ∧ cellsRead u.hostMem (at_ + 8) 8 = tail ∧
      ∀ k, (k < at_ ∨ at_ + 16 ≤ k) → cellGet u.hostMem k = cellGet s.hostMem k) ∧
    (x.base = .va a → s.entryOk asid at_ = true → (s.reach asid at_ 16 true (eventAccess asid q)).2 = true → at_ + 16 ≤ 2 ^ 56 → (∀ p, s.part? (s.partOf asid) = some p → p.synonyms = []) →
      ∃ u y, exec (.eventAppend asid q) s = .next u ∧ u.hostMem = s.hostMem ∧ u.ctx? asid = some y ∧ y.queues = c'.queues ∧
        u.load asid at_ 8 = payload.toNat ∧ u.load asid (at_ + 8) 8 = tail ∧
        ∀ k, (k < memKey asid at_ ∨ memKey asid at_ + 16 ≤ k) → cellGet u.mem k = cellGet s.mem k))

/-- R190, R31, R341: `exit` of a whole group that has nothing to wait for ends the group, and its team with its last group; a cohort
that is not the whole group raises DIVEXIT; while an engine operation of the group is under way, it waits. R297, R306, R335, R340: a
grid whose teams have all ended leaves the machine and its operation is complete, or failed where the grid has failed; a save area
that the free pool has not covered for 10 ms fails its grid with CAPACITY. -/
def Obligations.GroupsAndGridsEnd : Prop :=
  (∀ (f : BR) (s : State) (v : View), s.view = some v → v.Home → v.Steady →
    (v.whole = false → v.c.prog.begun = false → exec (.exit f) s = .next (s.raiseAt v codeDIVEXIT 0 0 0)) ∧
    (v.whole = true → s.Drained v allTracks → v.c.prog = .none →
      let waits := (∃ e ∈ s.engs, e.gid = v.g.id) ∨ (∃ o ∈ s.ops, o.gid = v.g.id ∧ o.kind = .pld) ∨
        ∃ r ∈ (s.core v.g.core).runs, r.team = v.g.id.team ∧ ∃ x ∈ r.instrs, x.grp = v.g.id.grp
      (¬waits → ∃ u, exec (.exit f) s = .next u ∧ u.mem = s.mem ∧ u.group? v.g.id = none ∧ (∀ o ∈ u.ops, o.gid = v.g.id → o.round.isSome = true ∧ o.pc = false) ∧
        (∀ r ∈ (u.core v.g.core).rows, r.gid ≠ v.g.id) ∧
        ((∀ g ∈ s.groups, g.id.team = v.g.id.team → g.id = v.g.id) → (∀ t, u.team? v.g.id.team = some t → False)) ∧
        ((∃ g ∈ s.groups, g.id.team = v.g.id.team ∧ g.id ≠ v.g.id) → (s.team? v.g.id.team).isSome = true →
          (u.team? v.g.id.team).isSome = true)) ∧
      (waits → ∃ u, exec (.exit f) s = .next u ∧ u.mem = s.mem ∧ ∀ g, s.group? v.g.id = some g →
        u.group? v.g.id = some (g.hold v.c.cid .ending)))) ∧
  ((∀ (s : State) (g : Grid), s.grid? g.id = some g →
    let tok := BitVec.ofNat 64 g.id.tok
    (s.gridOver g = false → exec (.gridCompletion g.id) s = .next s) ∧
    (s.gridOver g = true → ∃ u, exec (.gridCompletion g.id) s = .next u ∧ u.mem = s.mem ∧ u.grid? g.id = none ∧
      ∀ p, s.part? g.id.part = some p → ∃ p', u.part? g.id.part = some p' ∧ p'.isLive tok = false ∧
        (g.failed = none → p'.failed = p.failed) ∧
        (∀ code, g.failed = some code → p'.failed = p.failed ++ [⟨tokKind tok, tokSeq tok, code, 0⟩]) ∧
        ∀ x, s.group? x.id = some x → x.id.team.grid.part = g.id.part → ∃ x', u.group? x.id = some x' ∧
          x'.h = x.h.map fun h => if h.st = .pending ∧ sameOp h.tok tok = true then
            (match g.failed with | none => h.done 0 | some code => h.fail code 0) else h)) ∧
  ∀ (s : State) (part : Nat),
    let due := fun (g : Grid) => g.id.part = part ∧ g.failed = none ∧ s.freePool part < saveSectors g.q ∧
      ∃ t, g.waitSince = some t ∧ t + 10000000 ≤ s.time
    ((∀ g ∈ s.grids, ¬due g) → exec (.saveReserveTimeout part) s = .next s) ∧
    ∀ g, s.grids = [g] → due g → ∃ u g', exec (.saveReserveTimeout part) s = .next u ∧ u.mem = s.mem ∧ u.grid? g.id = some g' ∧
      g'.failed = some codeCAPACITY)

/-! ## Accesses under way (05_memory R121 to R123; 06_compression R142 to R144; 10_memory_sync R228 to R234; 20_faults_memory) -/

/-- Every byte of memory outside `n` bytes of a context from `va` is as it was. -/
def OnlyBytes (s u : State) (asid va n : Nat) : Prop :=
  ∀ k, (k < memKey asid va ∨ memKey asid va + n ≤ k) → cellGet u.mem k = cellGet s.mem k

/-- R121, R123, R130, R142, R155, R362: a load or store in its turn at its home: where the line is owned it is held by a recall, and
tried once that is over; where it is refused the group is parked and its track closed there; while a bank of the vault keeps it out it
waits; a load takes the bytes in memory, a store to a dirty line writes exactly its bytes, one to a clean line first asks for its
reservation; the two words of an aligned 8 bytes of private space go together. R166, R167, R233, R234: a drained reduction in its turn
at the home of a dirty line, which it can reach (R130): memory takes the reduction of its value and the operand, and no other byte
changes. -/
def Obligations.WorkAtHome : Prop :=
  ((∀ (s : State) (o : MemOp) (k : Nat) (p : Part) (va : Nat), Memory.wf s.mem = true → s.op? o.id = some o → o.parts[k]? = some p →
    o.mates k = [k] → p.loc = .glob va → s.closure o p = none → s.blocked o k p = false → (∀ q ∈ o.parts, q.passed = false) →
    (o.kind = .store ∨ ∃ sg acq, o.kind = .load sg acq) →
    let t := s.canon o.asid va
    let d := s.reach t.1 t.2.1 p.n o.kind.isWrite o.id
    let put := fun (q : Part) => some { o with parts := o.parts.set k q }
    (p.st = .waiting → (s.owner? (s.lineKey o.asid va)).isSome = true →
      exec (.accessAtHome o.id k) s = .next ((s.putOp { o with parts := o.parts.set k { p with st := .recalled } }).marker o.gid)) ∧
    (p.st = .recalled → (s.owner? (s.lineKey o.asid va)).isSome = true → exec (.recall o.id k) s = .next (s.marker o.gid)) ∧
    ∀ i ∈ [(Instr.accessAtHome o.id k, PSt.waiting), (.recall o.id k, .recalled)], p.st = i.2 →
      s.owner? (s.lineKey o.asid va) = none →
      (∀ code det, s.homeFault o va p.n false = some (code, det) → (code = codeUE → d.2 = true) →
        ∃ u, exec i.1 s = .next u ∧ u.mem = s.mem ∧
          u.op? o.id = put { p with st := .nack code det s.time, noted := false, replay := false } ∧
          ∀ g, s.group? o.gid = some g → ∃ g', u.group? o.gid = some g' ∧ g'.nacked = true ∧
            ∃ x ∈ g'.closed, x.trk = o.trk ∧ x.slice = s.home o.asid va ∧ x.replaying = false) ∧
      (s.homeFault o va p.n false = none → d.2 = false → exec i.1 s = .next (d.1.marker o.gid)) ∧
      (s.homeFault o va p.n false = none → d.2 = true → o.kind ≠ .store →
        ∃ u, exec i.1 s = .next u ∧ u.mem = s.mem ∧ u.op? o.id = put { p with st := .done, got := s.load t.1 t.2.1 p.n }) ∧
      (s.homeFault o va p.n false = none → d.2 = true → o.kind = .store → ∀ c, d.1.ctx? t.1 = some c →
        let need := d.1.need t.1 (t.2.1 / 512) (d.1.home t.1 t.2.1)
        ((c.dirty? (t.2.1 / 512)).isSome = true ∨ need = 0 → ∃ u, exec i.1 s = .next u ∧ u.hostMem = s.hostMem ∧
          u.op? o.id = put { p with st := .done, got := s.load t.1 t.2.1 p.n } ∧
          u.load t.1 t.2.1 p.n = p.val % 256 ^ p.n ∧ OnlyBytes s u t.1 t.2.1 p.n) ∧
        (c.dirty? (t.2.1 / 512) = none → need ≠ 0 →
          ∃ u, exec i.1 s = .next u ∧ u.mem = s.mem ∧ u.op? o.id = put { p with st := .reserving } ∧
            u.ctx? t.1 = some { c with reserves := c.reserves ++ [⟨o.id, k, need⟩] }))) ∧
  ∀ (s : State) (o : MemOp) (k : Nat) (p q : Part) (va vb : Nat) (sg acq : Bool), s.op? o.id = some o → o.kind = .load sg acq →
    o.mates (2 * k) = [2 * k, 2 * k + 1] → o.mates (2 * k + 1) = [2 * k, 2 * k + 1] → o.parts[2 * k]? = some p → o.parts[2 * k + 1]? = some q → p.loc = .glob va →
    q.loc = .glob vb → p.st = .waiting → q.st = .waiting → s.closure o p = none → s.closure o q = none →
    s.blocked o (2 * k) p = false → s.blocked o (2 * k + 1) q = false → s.owner? (s.lineKey o.asid va) = none →
    s.owner? (s.lineKey o.asid vb) = none → (∀ q ∈ o.parts, q.passed = false) →
    let a := s.canon o.asid va
    let b := s.canon o.asid vb
    let both := fun (x y : Part) => some { o with parts := (o.parts.set (2 * k) x).set (2 * k + 1) y }
    ∀ i ∈ [Instr.accessAtHome o.id (2 * k), .accessAtHome o.id (2 * k + 1)],
      (s.homeFault o va p.n false = none → s.homeFault o vb q.n false = none →
        (s.reachAll o.id [(a.1, a.2.1, p.n, false), (b.1, b.2.1, q.n, false)]).2 = true →
        ∃ u, exec i s = .next u ∧ u.mem = s.mem ∧ u.op? o.id =
          both { p with st := .done, got := s.load a.1 a.2.1 p.n } { q with st := .done, got := s.load b.1 b.2.1 q.n }) ∧
      (∀ code det, s.homeFault o va p.n false = some (code, det) → code ≠ codeUE →
        ∃ u, exec i s = .next u ∧ u.mem = s.mem ∧ u.op? o.id =
          both { p with st := .nack code det s.time, noted := false, replay := false }
            { q with st := .nack code det s.time, noted := false, replay := false })) ∧
  (∀ (s : State) (o : MemOp) (k : Nat) (p : Part) (va : Nat) (r : RedOp) (c : Context), Memory.wf s.mem = true →
    s.op? o.id = some o → o.parts[k]? = some p → p.loc = .glob va → o.kind = .red r → p.st = .waiting → (∀ q ∈ o.parts, q.passed = false) → s.closure o p = none →
    s.blocked o k p = false → s.owner? (s.lineKey o.asid va) = none → s.homeFault o va p.n false = none → p.n = o.width →
    let t := s.canon o.asid va
    let m := s.load t.1 t.2.1 p.n
    let d := s.reach t.1 t.2.1 p.n true o.id
    d.2 = true → d.1.ctx? t.1 = some c → (c.dirty? (t.2.1 / 512)).isSome = true →
    ∃ u, exec (.reductionDrain o.id k) s = .next u ∧ u.hostMem = s.hostMem ∧
      u.op? o.id = some { o with parts := o.parts.set k { p with st := .done, got := m } } ∧
      u.load t.1 t.2.1 p.n = r.apply m p.val % 256 ^ p.n ∧ OnlyBytes s u t.1 t.2.1 p.n)

/-- R142, R144, R370; what a request reserves where the block's owned size has fallen since is the model's choice (log entry 139): the
pantry home takes the oldest reservation of a context once its vault lets the access in (R128 to R130), grants it where FREE covers it,
and the store is then performed, or refuses it with CAPACITY. A dirty line whose vault lets its write-back in is settled and holds the
same bytes under the code of R132, its POISON 0, its reservation given back, and FREE and HELD together with the sectors of its code are
what they were; the premises leave out a line whose write-back reveals an error (R387), which is where POISON becomes 1 (the model's
reading, log entry 135). -/
def Obligations.ReservationsAndSettlements : Prop :=
  (∀ (s : State) (c : Context) (r : Reserve) (rest : List Reserve) (o : MemOp) (p : Part) (va : Nat), Memory.wf s.mem = true →
    s.ctx? c.asid = some c → c.reserves = r :: rest → s.op? r.op = some o → o.parts[r.part]? = some p → p.st = .reserving →
    o.mates r.part = [r.part] → (∀ q ∈ o.parts, q.passed = false) → p.loc = .glob va → o.kind = .store → (s.canon o.asid va).1 = c.asid → c.buckets = [] →
    let a := (s.canon o.asid va).2.1
    let put := fun (q : Part) => some { o with parts := o.parts.set r.part q }
    let d := s.reach c.asid a p.n true o.id
    (d.2 = false → exec (.reservation c.asid) s = .next (d.1.markerOf (some r.op))) ∧
    (d.2 = true → ∀ y, d.1.ctx? c.asid = some y → y.buckets = [] →
      let need := max r.need (d.1.need c.asid (a / 512) (d.1.home c.asid a))
      (y.free < need → ∃ u, exec (.reservation c.asid) s = .next u ∧ u.mem = s.mem ∧
        u.op? r.op = put { p with st := .nack codeCAPACITY 1 s.time, noted := false, replay := false } ∧
        u.ctx? c.asid = some { y with reserves := rest }) ∧
      (need ≤ y.free → ∃ u x, exec (.reservation c.asid) s = .next u ∧
        u.op? r.op = put { p with st := .done, got := s.load c.asid a p.n } ∧ u.load c.asid a p.n = p.val % 256 ^ p.n ∧
        OnlyBytes s u c.asid a p.n ∧ u.ctx? c.asid = some x ∧ (y.dirty? (a / 512) = none → (x.dirty? (a / 512)).isSome = true)))) ∧
  ∀ (s : State) (c : Context) (d : Dirty) (b : Nat), s.ctx? c.asid = some c → c.dirty? b = some d → d.owned ≤ 8 →
    ((c.dramHit b = true ∨ (c.entry b).poison = true) → (s.vault (s.home c.asid (b * 512))).valid c.asid b = BitVec.allOnes 8) →
    b ∉ c.l2Bad → c.balloonReq = 0 → (s.settleReach c.asid b 0).2 = true →
    let n := codeSize (s.blockCode c.asid b).1
    ∃ u x, exec (.settlement c.asid b) s = .next u ∧ u.mem = s.mem ∧ u.ctx? c.asid = some x ∧ x.dirty? b = none ∧
      (x.entry b).code = (s.blockCode c.asid b).1 ∧ (x.entry b).shared = false ∧ (x.entry b).poison = false ∧
      x.held = c.held - (8 - d.owned) ∧ x.free = c.free + 8 - n ∧ x.budget = c.budget

/-- R61, R228, R230, R259: the values of a load that is performed whole, or of a read of an accumulator, fill its destination, a
load's extended as its form says; an acquire load then acquires. R122, R229, R231: once every part of a store is performed its track
counts one less; a returning atomic also fills its destination with the old values; before that neither ends. -/
def Obligations.AccessesReturn : Prop :=
  ((∀ (s : State) (o : MemOp) (g : Group) (sg acq : Bool), s.op? o.id = some o → s.group? o.gid = some g → o.kind = .load sg acq →
    (∀ p ∈ o.parts, p.st = .done ∧ p.off = 0 ∧ p.n = o.width) → (o.parts.map (·.lane)).Nodup →
    let ext := fun (bits x : Nat) => if sg = true then (BitVec.ofNat (8 * o.width) x).signExtend bits
      else (BitVec.ofNat (8 * o.width) x).setWidth bits
    let t : State := { s with ops := s.ops.filter fun x => x.id != o.id }
    let ends := fun (g' : Group) => exec (.loadReturn o.id) s =
      .next (if acq = true then (t.putGroup g').acquire g else t.putGroup g')
    (∀ r p, o.dest = .s r → o.parts = [p] → (lanesOf g.width o.lanes).head? = some p.lane → o.width ∈ [1, 2, 4, 8] →
      ends (g.setS r (ext 64 p.got))) ∧
    (∀ r bc, o.dest = .v r 1 bc → o.width ∈ [1, 2, 4] → ∃ val : Nat → W32, (∀ p ∈ o.parts, val p.lane = ext 32 p.got) ∧
      ends ((g.setV r o.lanes val (if bc = true then .u else .g)).fillV r)) ∧
    (∀ r bc, o.dest = .v r 2 bc → o.width = 8 → ∃ lo hi : Nat → W32,
      (∀ p ∈ o.parts, lo p.lane = BitVec.ofNat 32 p.got ∧ hi p.lane = BitVec.ofNat 32 (p.got / 2 ^ 32)) ∧
      ends ((((g.setV r o.lanes lo (if bc = true then .u else .g)).fillV r).setV (r + 1) o.lanes hi
        (if bc = true then .u else .g)).fillV (r + 1)))) ∧
  ∀ (s : State) (o : MemOp) (g : Group), s.op? o.id = some o → s.group? o.gid = some g → o.kind = .acc →
    (∀ p ∈ o.parts, p.st = .done ∧ p.off = 0 ∧ p.n = o.width) → (o.parts.map (·.lane)).Nodup →
    let t : State := { s with ops := s.ops.filter fun x => x.id != o.id }
    (∀ r p, o.dest = .s r → o.parts = [p] → (lanesOf g.width o.lanes).head? = some p.lane → o.width = 8 →
      exec (.loadReturn o.id) s = .next (t.putGroup (g.setS r (BitVec.ofNat 64 p.got)))) ∧
    ∀ r n bc, o.dest = .v r n bc → o.width = 4 * n → ∃ val : Nat → Nat → W32,
      (∀ p ∈ o.parts, ∀ j < n, val j p.lane = BitVec.ofNat 32 (p.got / 2 ^ (32 * j))) ∧
      exec (.loadReturn o.id) s = .next (t.putGroup ((List.range n).foldl (fun g j =>
        (g.setV (r + j) o.lanes (val j) (if bc = true then .u else .g)).fillV (r + j)) g))) ∧
  (∀ (s : State) (o : MemOp) (g : Group), s.op? o.id = some o → s.group? o.gid = some g →
    let t : State := { s with ops := s.ops.filter fun x => x.id != o.id }
    let down := fun (g : Group) => if o.pc = true then { g with pc := g.pc.set o.trk (((g.pc[o.trk]?).getD 0) - 1) } else g
    ((∃ p ∈ o.parts, p.st ≠ .done) → exec (.storeAck o.id) s = .next s ∧ exec (.atomicReturn o.id) s = .next s) ∧
    ((∀ p ∈ o.parts, p.st = .done) →
      (o.kind = .store ∨ (∃ r, o.kind = .red r) ∨ ((∃ a, o.kind = .atomic a) ∧ o.dest = .none) →
        exec (.storeAck o.id) s = .next (t.putGroup (down g))) ∧
      (∀ a r bc, o.kind = .atomic a → o.dest = .v r 1 bc → o.width = 4 → (o.parts.map (·.lane)).Nodup →
        (∀ p ∈ o.parts, p.off = 0 ∧ p.n = 4) → ∃ val : Nat → W32, (∀ p ∈ o.parts, val p.lane = BitVec.ofNat 32 p.got) ∧
        exec (.atomicReturn o.id) s = .next (t.putGroup (down ((g.setV r o.lanes val (if bc = true then .u else .g)).fillV r))))))

/-! ## The timetable and the dispatcher (13_scheduling R289 to R307; 17_system R309, R310; 23_prog_capacity R397) -/

/-- R309, R310, R295: a doorbell gives a ring its TAIL; RING.CFG keeps its writable fields; other words of the control window ignore
writes; a read there answers RING.CFG, its TAIL, its HEAD, SCRUB.PROGRESS or 0; an unread record of a ring that is on goes, once its
queue has room, to the end of that queue under a new token; the model chooses its core field 0 (log entry 41) and its context, the
partition's oldest (log entry 21). R292, R293, R294, R340, R403: the loader submits the records it has written, in their order, to
queue 16 × prio, its token's core field 0 (the model's choice, log entry 41); the head of a queue becomes eligible once its DEP grid
has completed; a record whose DEP grid has failed leaves its queue, its own operation failed with HANDLE. -/
def Obligations.LaunchRecordsReachQueues : Prop :=
  (∀ (s : State) (n q : Nat) (p : Partition) (r : Ring), s.part? n = some p → p.rings[q]? = some r → q < 64 →
    let puts := fun (r' : Ring) => (Host.Outcome.next (s.putPart n { p with rings := p.rings.set q r' }) : Out)
    (∀ x, exec (.ringDoorbell n q x) s = puts { r with tail := x % 2 ^ 15 }) ∧
    (∀ x : W64, exec (.controlRegisterWrite n (32 * q) x) s = puts { r with cfg := x &&& 0x8FFFFFFFFFFFF000 } ∧
      exec (.controlRegisterWrite n (32 * q + 8) x) s = puts { r with tail := x.toNat % 2 ^ 15 }) ∧
    (p.controlWord (32 * q) = r.cfg ∧ p.controlWord (32 * q + 8) = BitVec.ofNat 64 r.tail ∧
      p.controlWord (32 * q + 16) = BitVec.ofNat 64 r.head ∧
      p.controlWord 0x800 = BitVec.ofNat 64 (p.scrubDone % 2 ^ 40 + (if p.scrub = [] then 0 else 2 ^ 63)) ∧
      ∀ off, 0x800 < off ∨ (off < 0x800 ∧ off % 32 ∉ [0, 8, 16]) → p.controlWord off = 0) ∧
    (∀ off (x : W64), 0x800 ≤ off ∨ (off % 32 ≠ 0 ∧ off % 32 ≠ 8) → exec (.controlRegisterWrite n off x) s = .next s) ∧
    let size := 2 ^ (r.cfg.toNat / 2 ^ 56 % 16)
    (r.cfg.getLsbD 63 = false ∨ r.head % size = r.tail % size → exec (.hostRingRead n q) s = .next s) ∧
    ∀ (c : Context) (l : List Launch), s.hostCtx n = some c → p.queues[q]? = some l → l.length < 256 → r.cfg.getLsbD 63 = true →
      r.head % size ≠ r.tail % size →
      let a := r.cfg.toNat / 2 ^ 12 % 2 ^ 44 * 4096 + 64 * (r.head % size)
      let rec' := recordOf fun i => cellsRead s.hostMem (a + 8 * i) 8
      let tok := mkToken 3 0 0 ((p.seqs[3]?).getD 0)
      recordOk rec' = true → p.depOk rec' = true →
      ∃ u p' gr, exec (.hostRingRead n q) s = .next u ∧ u.mem = s.mem ∧ u.part? n = some p' ∧
        p'.queues[q]? = some (l ++ [⟨⟨n, tok.toNat⟩, p.depMet rec'⟩]) ∧ p'.rings[q]? = some { r with head := (r.head + 1) % size } ∧
        p'.isLive tok = true ∧ u.grids = s.grids ++ [gr] ∧ gr.id = ⟨n, tok.toNat⟩ ∧ gr.q = rec' ∧ gr.queue = q ∧ gr.asid = c.asid) ∧
  ((∀ (s : State) (c : Context) (p : Partition) (prio : Nat) (q : LaunchWords) (rest : List (Nat × LaunchWords)) (l : List Launch),
    s.ctx? c.asid = some c → s.part? c.part = some p → c.ending = false → c.loadStopped = false → c.toSubmit = (prio, q) :: rest →
    p.queues[16 * prio]? = some l →
    (256 ≤ l.length → exec (.loaderSubmit c.asid prio q) s = .next s) ∧
    (l.length < 256 →
    let tok := mkToken 3 0 0 ((p.seqs[3]?).getD 0)
    ∃ u p' x, exec (.loaderSubmit c.asid prio q) s = .next u ∧ u.mem = s.mem ∧ u.part? c.part = some p' ∧ u.ctx? c.asid = some x ∧
      x.toSubmit = rest ∧
      (recordOk q = true → p.depOk q = true → ∃ gr, p'.queues[16 * prio]? = some (l ++ [⟨⟨c.part, tok.toNat⟩, p.depMet q⟩]) ∧
        u.grids = s.grids ++ [gr] ∧ gr.id = ⟨c.part, tok.toNat⟩ ∧ gr.q = q ∧ gr.queue = 16 * prio ∧ gr.asid = c.asid) ∧
      (recordOk q = false → u.grids = s.grids ∧ p'.queues = p.queues ∧
        p'.failed.getLast? = some ⟨tokKind tok, tokSeq tok, codeOPERAND, 0⟩)) ∧
    ∀ prio' q', (prio', q') ≠ (prio, q) → exec (.loaderSubmit c.asid prio' q') s = .next s) ∧
  ∀ (s : State) (n q : Nat) (p : Partition) (x : Launch) (rest : List Launch) (g : Grid), s.part? n = some p →
    p.queues[q]? = some (x :: rest) → s.grid? x.grid = some g → x.grid.part = n →
    (p.depMet g.q = true → exec (.recordEligible n q) s =
      .next (s.putPart n { p with queues := p.queues.set q ({ x with eligible := true } :: rest) })) ∧
    (p.depMet g.q = false → exec (.recordEligible n q) s = .next s) ∧
    (p.depFailed g.q = true → g.next = 0 → ∃ u p', exec (.dependentRecordDrop n q) s = .next u ∧ u.mem = s.mem ∧
      u.grid? x.grid = none ∧ u.part? n = some p' ∧ (∀ l ∈ p'.queues, ∀ y ∈ l, y.grid ≠ x.grid) ∧
      p'.failed.getLast? = some ⟨tokKind (BitVec.ofNat 64 x.grid.tok), tokSeq (BitVec.ofNat 64 x.grid.tok), codeHANDLE, 0⟩))

/-- R51, R290, R296, R297: the next team of a partition placed at the least loaded base that fits it, its save area covered: every
group starts at the record's entry with PARAMS in s0, zero in every other scalar and vector register, all full, m0 the whole group,
handles idle and witness registers empty. R303, R304, R307, R384: a team that stands in the way of a blocked one of higher priority is
asked to stop; once it rests it is saved and its cores and banks are free; a saved team resumes at a base that fits, before new teams
of its priority. -/
def Obligations.TeamsComeAndGo : Prop :=
  (∀ (s : State) (part base : Nat) (p : Partition) (n : NextTeam) (c : Context), s.part? part = some p → s.nextTeam part = some n →
    n.grid.id.part = part → s.ctx? n.grid.asid = some c →
    let q := n.grid.q
    let id : TeamId := ⟨n.grid.id, n.team⟩
    s.savedFirst part n.grid.prio = false → s.leastLoaded q ((p.bases q).filter fun b => s.fitsAt q b) = some base →
    saveSectors q ≤ s.freePool part → (∀ t ∈ s.teams, t.id ≠ id) → (∀ g ∈ s.groups, g.id.team ≠ id) →
    ∃ u t, exec (.teamPlacement part) s = .next u ∧ u.mem = s.mem ∧ u.team? id = some t ∧ t.st = .running ∧ t.core = base ∧
      t.ident = p.nextIdent ∧ t.points = List.replicate q.rdv ⟨q.groups, 0, 0, none⟩ ∧ t.reserve = saveSectors q ∧
      ∀ i < q.groups, ∃ g, u.group? ⟨id, i⟩ = some g ∧ g.width = q.width ∧ g.core = q.groupCore base i ∧ g.quad = i % 4 ∧
        g.cohorts.map (fun c => (c.lanes, c.clause, c.word, c.entered)) = [(allLanes q.width, q.entry, 1, false)] ∧
        g.sreg 0 = ⟨BitVec.ofNat 64 q.params, true, false⟩ ∧ (∀ r, 1 ≤ r → g.sreg r = ⟨0, true, false⟩) ∧
        (∀ r < q.vregs, g.vreg r = ⟨List.replicate q.width 0, .u, true, false⟩) ∧
        g.mreg 0 = ⟨allLanes q.width, false⟩ ∧ (∀ r, 1 ≤ r → g.mreg r = ⟨0, false⟩) ∧
        (∀ r, g.handle r = ⟨.idle, 0, 0, 0, false, false⟩) ∧ (∀ r, g.witness r = ⟨.empty, 0, 0, 0, 0, [], false⟩) ∧
        g.pc = List.replicate 16 0 ∧ g.pot = [] ∧ g.stamp = 0 ∧ g.randkey = 0) ∧
  (∀ (s : State) (t : Team), s.team? t.id = some t →
    (t.st = .running → t.ending = false → t.stop = false → (∃ x ∈ s.preemptable t.id.grid.part, x.id = t.id) →
      exec (.preemption t.id) s = .next (s.putTeam { t with stop := true, halted := [] })) ∧
    (t.st = .running → t.ending = false → t.stop = true → (s.atRest t = false → exec (.preemption t.id) s = .next s) ∧
      (s.atRest t = true → ∃ u t', exec (.preemption t.id) s = .next u ∧ u.mem = s.mem ∧ u.team? t.id = some t' ∧ t'.st = .saved ∧
        t'.banks = [] ∧ t'.stop = false ∧ t'.points = t.points ∧
        ∀ g, s.group? g.id = some g → g.id.team = t.id → ∃ g', u.group? g.id = some g' ∧ g'.slots = [] ∧ g'.active = false ∧
          g'.v = g.v ∧ g'.s = g.s ∧ g'.m = g.m ∧ g'.h = g.h ∧ g'.w = g.w ∧ g'.c = g.c ∧ g'.threads = g.threads)) ∧
    ∀ (gr : Grid) (p : Partition) (base : Nat), s.grid? t.id.grid = some gr → s.part? t.id.grid.part = some p → t.st = .saved →
      (∀ x ∈ s.heads t.id.grid.part, x.prio ≤ gr.prio) → s.savedFirst t.id.grid.part (gr.prio + 1) = false → s.rowsFit t = true →
      s.leastLoaded gr.q ((if t.rows.isEmpty then p.bases gr.q else [t.core]).filter fun b => s.fitsAt gr.q b && s.consistsFit t b) = some base →
      ∃ u t', exec (.teamResume t.id) s = .next u ∧ u.mem = s.mem ∧ u.team? t.id = some t' ∧ t'.st = .running ∧ t'.core = base ∧
        t'.rows = [] ∧ t'.savedBanks = [] ∧ t'.points = t.points)

/-! ## Fault records and their service (18_faults R326 to R335; 20_faults_memory R363 to R375; 21_faults_containment R388) -/

/-- R327, R328, R329, R330, R363: the first record a group holds goes to the end of its context's fault queue once there is room, the
spill area is empty and no earlier access of the group may still be refused; the record of a refused load names its code, track,
address, the time of its refusal and the threads not performed; the first record of the spill area follows once there is room. -/
def Obligations.FaultRecords : Prop :=
  (∀ (s : State) (g : Group) (c : Context) (f : FaultRec) (rest : List FaultRec), s.group? g.id = some g → s.ctx? g.asid = some c →
    g.held = f :: rest → c.spill = [] → s.replayList f = [] → s.earlierOpen g.id f.tick = false →
    let writes := fun (i : Instr) => (c.fqUsed < 4096 → exec i s = .next ((s.putCtx { c with
        fq := c.fq ++ [⟨c.fqNext, f, [], false⟩], fqNext := c.fqNext + 1 }).putGroup { g with held := rest })) ∧
      (4096 ≤ c.fqUsed → exec i s = .next s)
    (g.nacked = false → writes (.faultRecordWrite g.id)) ∧ (s.groups.filter (fun x => x.asid == g.asid) = [g] → writes (.faultQueueRoom g.asid))) ∧
  (∀ (s : State) (g : Group) (c : Context) (o : MemOp) (p : Part) (code det at_ va : Nat) (sg acq : Bool), s.group? g.id = some g →
    s.ctx? g.asid = some c → g.held = [] → g.nacked = true → c.spill = [] → c.fqUsed < 4096 → s.ops = [o] → o.gid = g.id →
    o.kind = .load sg acq → o.parts = [p] → p.st = .nack code det at_ → p.noted = false → p.loc = .glob va → code ≠ codeUE → code ≠ 0x0F →
    ∃ u x r, exec (.faultRecordWrite g.id) s = .next u ∧ u.mem = s.mem ∧ u.ctx? g.asid = some x ∧ x.fq = c.fq ++ [r] ∧ r.served = false ∧
      r.idx = c.fqNext ∧ r.fault.code = code ∧ r.fault.detail = det ∧ r.fault.gid = some g.id ∧ r.fault.cid = o.cid ∧
      r.fault.trk = o.trk ∧ r.fault.va = va ∧ r.fault.time = at_ ∧ r.fault.done = lanesFrom [] ∧ r.fault.pending = lanesFrom [p.lane] &&& ~~~lanesFrom [] ∧
      r.fault.org = o.org ∧ r.fault.ops = [o.id] ∧ ∃ g', u.group? g.id = some g' ∧ g'.records = g.records + 1 ∧ g'.nacked = false) ∧
  ∀ (s : State) (c : Context) (f : FaultRec) (rest : List FaultRec), s.ctx? c.asid = some c → c.spill = f :: rest →
    (c.fqUsed < 4096 → exec (.spillAreaAppend c.asid) s = .next (s.putCtx { c with
      fq := c.fq ++ [⟨c.fqNext, f, [], false⟩], fqNext := c.fqNext + 1, spill := rest })) ∧
    (4096 ≤ c.fqUsed → exec (.spillAreaAppend c.asid) s = .next s)

/-- R297, R327, R332, R333, R334, R373, R396: the return from a fault found at issue. RESUME: the faulting cohort is to issue its
instruction again, or after TRAP and BRK stands at the next word; RESUME.AT: it stands at the trap entry with CLAUSE and WORD in s30
and Q0 in s31. The stopped cohorts of the group go on once no record of it is left. The refused accesses of a record are tried again.
A record of a team that is no more resumes no group. R335, R388: KILL.TEAM ends the team of a record and fails its grid with the
record's code; RELAUNCH.TEAM ends it and places its index anew, at most three times; neither changes memory. While an access of the
team is open, its groups issue nothing. A record whose team has been replaced, and whose accesses are gone, ends no team. -/
def Obligations.ServiceOfFaults : Prop :=
  (∀ (s : State) (asid rec : Nat) (c : Context) (f : FaultRec) (a : Action) (id : GroupId) (g : Group) (x : Cohort),
    s.service? asid rec = some (c, f, a) → f.gid = some id → f.code ≠ codeENGINE → s.group? id = some g → g.cohort? f.cid = some x →
    (s.sameTeam f = false → f.ops = [] → a = .resume → exec (.resume asid rec) s = .next (s.putCtx (c.fqServe rec))) ∧
    (s.sameTeam f = true →
    let back := fun (x' : Cohort) (g : Group) =>
      let h : Group := { (g.putCohort x') with records := g.records - 1 }
      if h.records = 0 ∧ h.nacked = false then { h with cohorts := h.cohorts.map fun c => { c with stopped := false } } else h
    (f.ops = [] →
      (a = .resume ∨ a = .hold → exec (.resume asid rec) s = .next (((s.putCtx (c.fqServe rec)).putGroup
        (if f.code = codeTRAP ∨ f.code = codeBRK then (back x g).advance f.cid 1 else back x g)).marker id)) ∧
      (a = .resumeAt → exec (.resumeAt asid rec) s = .next (((s.putCtx (c.fqServe rec)).putGroup
        (back (x.goto (s.trapEntry f)) ((g.setS 30 (BitVec.ofNat 64 (f.org.clause + f.org.word * 2 ^ 56))).setS 31
          (f.q0 asid)))).marker id))) ∧
    (∀ o, f.ops = [o.id] → s.op? o.id = some o → f.code ≠ codeUE → a = .resume → f.code ≠ codeTRAP → f.code ≠ codeBRK →
      ∃ u g', exec (.resume asid rec) s = .next u ∧ u.mem = s.mem ∧
        u.op? o.id = some { o with
          parts := o.parts.map fun p => if p.st.isNack = true then { p with st := .waiting, replay := true, noted := false } else p } ∧
        u.group? id = some g' ∧ g'.records = g.records - 1 ∧ (∀ y ∈ g'.closed, y.trk = f.trk → y.replaying = true) ∧
        g'.v = g.v ∧ g'.s = g.s))) ∧
  (∀ (s : State) (asid rec : Nat) (c : Context) (f : FaultRec) (a : Action) (id : GroupId) (t : Team) (gr : Grid),
    s.service? asid rec = some (c, f, a) → f.gid = some id → s.team? id.team = some t → s.grid? id.team.grid = some gr →
    (s.sameTeam f = false → (∀ x ∈ f.ops, s.op? x = none) → a = .killTeam →
      exec (.killTeam asid rec) s = .next (s.putCtx (c.fqServe rec))) ∧
    (s.sameTeam f = true →
    let ended := fun (u : State) => u.mem = s.mem ∧ u.team? id.team = none ∧ (∀ g ∈ u.groups, g.id.team ≠ id.team) ∧
      ∃ x, u.ctx? asid = some x ∧ x.record? rec = none
    (a = .killTeam →
      (s.endable id.team = false → exec (.killTeam asid rec) s = .next (s.putTeam { t with ending := true })) ∧
      (s.endable id.team = true → ∃ u g', exec (.killTeam asid rec) s = .next u ∧ ended u ∧ u.grid? id.team.grid = some g' ∧
        (gr.failed = none → g'.failed = some f.code))) ∧
    (a = .relaunchTeam → gr.failed = none → (gr.keptOf id.team.team).relaunches < 3 → s.endable id.team = true →
      ∃ u g', exec (.relaunchTeam asid rec) s = .next u ∧ ended u ∧ u.grid? id.team.grid = some g' ∧ g'.failed = none ∧
        g'.again = gr.again ++ [id.team.team] ∧ (g'.keptOf id.team.team).relaunches = (gr.keptOf id.team.team).relaunches + 1) ∧
    (a = .relaunchTeam → 3 ≤ (gr.keptOf id.team.team).relaunches → exec (.relaunchTeam asid rec) s = .next s)))

/-- R148, R368, R371: the recovery of a fetch in a backing region maps its page, filled from the region's source, and resumes; a
CAPACITY fault that FREE covers is resumed, one that FREE and the free pool do not cover 10 ms after the balloon requests ends its
team; a context below its watermark is topped up from the free pool. -/
def Obligations.Recoveries : Prop :=
  (∀ (s s1 : State) (asid rec : Nat) (c c' : Context) (f : FaultRec) (id : GroupId) (r : BackingRegion), Memory.wf s.mem = true →
    s.service? asid rec = some (c, f, .recover) → s.sameTeam f = true → s.begun f = false → s.inBacking asid f = true → f.ops = [] → f.gid = some id →
    let t := s.canon asid f.va
    let page := t.2.1 / 65536 * 65536
    let src := r.src + (page - r.va)
    s.ctx? t.1 = some c' → c'.backed t.2.1 = some r → c'.page? page = none →
    s.mapPage t.1 page ((r.rights &&& 0x38) ||| 1) = some s1 → s.backingSize src ≤ c'.free → t.2.1 < 2 ^ 56 →
    ∃ u x, exec (.backingRegionRecovery asid rec) s = .next u ∧ u.ctx? asid = some x ∧ x.record? rec = none ∧
      (∀ i < 65536, u.byte t.1 (page + i) = cellGet s.hostMem (src + i)) ∧ OnlyBytes s u t.1 page 65536 ∧
      ∀ g, s.group? id = some g → g.cohort? f.cid ≠ none → g.records = 1 → g.nacked = false →
        ∃ g' x', u.group? id = some g' ∧ g'.records = 0 ∧
        g'.cohort? f.cid = some x' ∧ x'.stopped = false) ∧
  (∀ (s : State) (asid rec : Nat) (c : Context) (f : FaultRec) (id : GroupId) (o : MemOp), s.service? asid rec = some (c, f, .recover) →
    s.sameTeam f = true → s.begun f = false → f.code = codeCAPACITY → f.gid = some id → f.ops = [o.id] → s.op? o.id = some o →
    (s.needOf f ≤ c.free → ∃ u x, exec (.capacityRecovery asid rec) s = .next u ∧ u.mem = s.mem ∧ u.ctx? asid = some x ∧
      x.record? rec = none ∧ u.op? o.id = some { o with
        parts := o.parts.map fun p => if p.st.isNack = true then { p with st := .waiting, replay := true, noted := false } else p }) ∧
    (∀ t0 t, assoc (recKey asid rec) c.waitSince = some t0 → t0 + 10000000 ≤ s.time → c.free + s.freePool c.part < s.needOf f →
      s.team? id.team = some t → s.endable id.team = true →
      ∃ u, exec (.balloonWaitExpiry asid rec) s = .next u ∧ u.mem = s.mem ∧ u.team? id.team = none) ∧
    (∀ t0, assoc (recKey asid rec) c.waitSince = some t0 → s.time < t0 + 10000000 → c.free + s.freePool c.part < s.needOf f →
      ∃ u, exec (.balloonWaitExpiry asid rec) s = .next u ∧ u.mem = s.mem ∧ u.teams = s.teams ∧ u.ops = s.ops)) ∧
  ∀ (s : State) (c : Context), s.ctx? c.asid = some c →
    (c.watermark ≤ c.free → exec (.topUp c.asid) s = .next s) ∧
    (c.ending = false → c.free < c.watermark → 2 * c.watermark - c.free ≤ s.freePool c.part →
      ∃ u, exec (.topUp c.asid) s = .next u ∧ u.mem = s.mem ∧ u.ctx? c.asid = some { c with
        budget := c.budget + (2 * c.watermark - c.free), free := c.free + (2 * c.watermark - c.free) })

/-! ## Host, boot and environment (17_system R308 to R323; 05_memory R116, R147; 21_faults_containment R393 to R395) -/

/-- R308, R316, R317, R321, R394, with the model's choices of what else fails a boot and of the numbers of its steps (log entries 98,
99): a boot reads the straps; one whose checks all pass sets up the image's partitions, in exactly one of which each tile and port
lies, and holds its measurements; one that fails is reported and retried 10 s later; start-up stages end as their sensors and
conditions allow; each vault that fails training counts. -/
def Obligations.DeviceStarts : Prop :=
  ∀ (s : State),
    (∀ img : BootImage, s.stage = 3 → s.bootStep = 2 → ∃ u : State, exec (.powerOnBoot img) s = .next u ∧
      u.slot = img.slotNumber ∧ u.macOffset = img.macOffset ∧
      (∀ (n : Nat) (p : Port), s.ports[n]? = some p → u.ports[n]? = some { p with enabled := img.ports.contains n }) ∧
      (img.flashUnsealed = false → u.parts = s.parts ∧ u.bootStep = 9 ∧ u.reports = s.reports ++ [.env 3 3]) ∧
      (img.flashUnsealed = true → BootOk img s.flash.owner = true → u.bootStep = 8 ∧
        u.measurements = img.sections.map (·.digest) ∧
        u.parts.map (fun p => (p.first, p.tiles, p.ratio, p.ports)) = img.parts.map (fun p => (p.first, p.tiles, p.ratio, p.ports)) ∧
        (∀ n < 8, (u.parts.filter fun p => decide (p.first ≤ n) && decide (n < p.first + p.tiles)).length = 1) ∧
        ∀ n < 16, (u.parts.filter fun p => p.ports.contains n).length = 1) ∧
      (img.flashUnsealed = true → BootOk img s.flash.owner = false → u.parts = s.parts ∧ u.bootStep = 0 ∧
        u.bootTime = s.time ∧ u.reports = s.reports ++ [.env 3 3])) ∧
    (s.stage = 3 → s.bootStep = 0 → exec .bootRetry s =
      .next (if s.bootTime + 10000000000 ≤ s.time then { s with bootStep := 2 } else s)) ∧
    (∀ d, exec (.ownerKeyEnrolment d) s = .next { s with
      flash := { s.flash with owner := some d }, bootStep := if s.bootStep = 9 then 2 else s.bootStep }) ∧
    (∃ sig, exec .getMeasurements s = .next { s with reports := s.reports ++ [.measurements s.measurements sig] }) ∧
    exec .spdmSecureSession s = .next { s with spdm := true } ∧
    (∀ vf, vf < 8 → vf ∉ s.locked → exec (.deviceInterfaceLock vf) s = .next { s with locked := s.locked ++ [vf] }) ∧
    (∀ deg : Int, (s.stage = 0 → -20 ≤ deg → ∃ u, exec (.startStageAdvance deg) s = .next u ∧ u.stage = 2) ∧
      (s.stage = 0 → deg < -20 → ∃ u, exec (.startStageAdvance deg) s = .next u ∧ u.stage = 1) ∧
      (s.stage = 1 → exec (.startStageAdvance deg) s = .next (if -20 ≤ deg then { s with stage := 2 } else s)) ∧
      (s.stage = 2 → ∃ u, exec (.startStageAdvance deg) s = .next u ∧ u.stage = 3 ∧ ∀ n < 128, (u.vault n).trained = true) ∧
      (s.stage = 3 → exec (.startStageAdvance deg) s = .next (if s.bootStep = 8 then { s with stage := 4 } else s)) ∧
      (s.stage = 4 → exec (.startStageAdvance deg) s = .next (if -10 ≤ deg then { s with stage := 5 } else s))) ∧
    (s.stage = 1 → s.bootTime ≤ s.time → exec .stage1Timeout s =
      .next { s with bootTime := s.time + 60000000000, reports := s.reports ++ [.env 1 1] }) ∧
    (∀ n < 128, s.stage = 2 → (s.vault n).degraded = false → ∃ u, exec (.vaultTrainingFailure n) s = .next u ∧
      (u.vault n).trainFails = (s.vault n).trainFails + 1 ∧ ((u.vault n).degraded = true ↔ 3 ≤ (s.vault n).trainFails + 1) ∧
      u.reports = s.reports ++ [.env 2 2])

/-- R322, R394: a tile's clock moves by 25 MHz, at most once per µs, between 800 MHz and its cap; a missed edge steps it down by 100
MHz; above +30 °C it goes down while the module nears its power limit (when that is, is a free value, and which steps the governor
makes is the schedule's: the model's choices, log entries 103 and 144), above +45 °C every tile runs at 800 MHz at most while the
reading stands (the model's reading, log entry 103), and above +55 °C the module powers down. R153, R393, R394: the scrubber counts a
bank's corrected errors; with more than 16 within an hour the bank moves to the stronger code, its sectors leave the pool, and flash
keeps the choice; a port that fails retraining three times leaves every rank set. -/
def Obligations.ClocksAndDegradedHardware : Prop :=
  ((∀ (s : State) (n : Nat) (x : TileState) (up : Bool), s.tiles[n]? = some x →
    let rise := up && !(s.above30 && Config.nearLimit s.tick)
    let mhz := if rise = true then x.mhz + 25 else x.mhz - 25
    (s.time < x.lastStep + 1000 ∨ mhz < 800 ∨ (rise = true ∧ s.clockCap < mhz) → exec (.clockGovernorStep n up) s = .next s) ∧
    (x.lastStep + 1000 ≤ s.time → 800 ≤ mhz → (rise = true → mhz ≤ s.clockCap) →
      exec (.clockGovernorStep n up) s = .next { s with tiles := s.tiles.set n { x with mhz := mhz, lastStep := s.time } }) ∧
    (800 < x.mhz → exec (.timingEdgeMiss n) s =
      .next { s with tiles := s.tiles.set n { x with mhz := max 800 (x.mhz - 100), lastStep := s.time } }) ∧
    (x.mhz ≤ 800 → x.closed = false → ∃ u y, exec (.timingEdgeMiss n) s = .next u ∧ u.tiles[n]? = some y ∧
      (y.closed = true ↔ 16 < ((x.misses.filter fun t => decide (s.time < t + 1000000)) ++ [s.time]).length))) ∧
  ∀ (s : State) (deg : Int),
    (deg ≤ 45 → exec (.overtemperature deg) s = .next { s with hot := false, above30 := decide (30 < deg) }) ∧
    (45 < deg → ∃ u, exec (.overtemperature deg) s = .next u ∧ u.mem = s.mem ∧ u.hot = true ∧ u.above30 = true ∧ (∀ x ∈ u.tiles, x.mhz ≤ 800) ∧
      (55 < deg → u.dead = true) ∧ (deg ≤ 55 → u.dead = s.dead))) ∧
  ((∀ (s : State) (n b k : Nat), n < 128 → b < 192 → 0 < k → ∃ u x, exec (.scrubberPass n b k) s = .next u ∧ u.mem = s.mem ∧
    (u.vault n).dbank b = x ∧ x.errs.getLast? = some (s.time, k) ∧ x.st = ((s.vault n).dbank b).st ∧
    x.recent s.time = ((s.vault n).dbank b).recent s.time + k) ∧
  (∀ (s : State) (n b k : Nat) (p : Partition), s.partOfVault n = some (k, p) → s.part? k = some p → b < 192 →
    ((s.vault n).dbank b).strong = false → s.ctxs = [] → (s.vault n).runs = [] → (s.vault n).rows = [] →
    (((s.vault n).dbank b).recent s.time ≤ 16 → exec (.eccUpgrade n b) s = .next s) ∧
    (16 < ((s.vault n).dbank b).recent s.time → ∃ u p', exec (.eccUpgrade n b) s = .next u ∧ u.mem = s.mem ∧
      ((u.vault n).dbank b).strong = true ∧ u.part? k = some p' ∧ p'.pool = p.pool - 98304 ∧
      u.flash.strong = s.flash.strong ++ [(n, b)])) ∧
  ∀ (s : State) (n : Nat) (p : Port), s.ports[n]? = some p →
    (p.toSend = [] → exec (.ilurosLinkRetraining n true) s = .next { s with ports := s.ports.set n { p with up := true, fails := 0 } }) ∧
    exec (.ilurosLinkRetraining n false) s = .next { s with ports := s.ports.set n { p with up := false, fails := p.fails + 1 } } ∧
    (p.fails < 3 → exec (.portRetrainFailure n) s = .next s) ∧
    (3 ≤ p.fails → p.enabled = true → ∃ u, exec (.portRetrainFailure n) s = .next u ∧ u.mem = s.mem ∧
      u.ports[n]? = some { p with enabled := false } ∧ ∀ q ∈ u.parts, ∀ r ∈ q.rankSets, ∀ a ∈ r.2.ports, a.2 ≠ n))

/-- R311, R318, R320, R395: a context that can be met is created with its whole budget free; a protected one needs a secure session, a
locked interface and a free key slot, and takes that slot; its teardown ends its teams and grids, zeroes its key and its memory,
changes no byte of another context, and gives its sectors up to the scrubber, which works them off one by one; with the last the pool
has its tables, segments and row pages back (R147). R111, R116, R147, R314, R319, R397, R402, R403: a page within the promise is
mapped under its descriptor, by the signal box, by the loader, which writes its data and its launch records, CQ, CEV and the reserved
fields 0, or in place of an invalid descriptor; a page that cannot be mapped stops the load, and a context whose load has stopped
takes no further one (the model's choices, log entries 119 and 143; R397 states the stop where the free pool is short); a valid
descriptor waits until no team of its context is resident; aliases and rank sets are registered where they are valid, a rank set's
places anew (the model's choice, log entry 101). -/
def Obligations.ContextsAndHostTables : Prop :=
  ((∀ (s : State) (r : ContextRequest), (s.requestOk r = false → exec (.contextCreate r) s = .next s) ∧
    (s.requestOk r = true → ∃ u c, exec (.contextCreate r) s = .next u ∧ u.mem = s.mem ∧ u.ctx? r.asid = some c ∧ c.budget = r.budget ∧
      c.free = r.budget ∧ c.held = 0 ∧ c.part = r.part ∧ c.key = none ∧ c.entries = [] ∧ c.descs = [] ∧ c.fq = []) ∧
    ((s.spdm = false ∨ r.part ∉ s.locked ∨ ∀ k ∈ s.keys, k.owner ≠ none) → exec (.protectedContextCreate r) s = .next s) ∧
    (s.requestOk r = true → s.spdm = true → r.part ∈ s.locked → ∀ n, s.keys.findIdx? (fun k => k.owner.isNone) = some n →
      ∃ u c k, exec (.protectedContextCreate r) s = .next u ∧ u.mem = s.mem ∧ u.ctx? r.asid = some c ∧ c.key = some n ∧
        u.keys = s.keys.set n k ∧ k.owner = some r.asid)) ∧
  (∀ (s : State) (c : Context) (n : Nat), Memory.wf s.mem = true → s.ctx? c.asid = some c → c.key = some n → c.ending = false →
    ∃ u, exec (.contextTeardown c.asid) s = .next u ∧ (∀ t ∈ u.teams, t.asid ≠ c.asid) ∧ (∀ g ∈ u.grids, g.asid ≠ c.asid) ∧
      (∀ o ∈ u.ops, o.asid ≠ c.asid) ∧ (∀ k, u.keys[n]? = some k → k.key = 0) ∧ (∀ va, u.byte c.asid va = 0) ∧
      (∀ a va, a ≠ c.asid → u.byte a va = s.byte a va) ∧ ∀ x, u.ctx? c.asid = some x → x.ending = true) ∧
  (∀ (s : State) (c : Context), s.ctx? c.asid = some c → c.key = none → (∀ p, s.part? c.part = some p → p.scrub ≠ []) →
    exec (.contextTeardown c.asid) s = .next s) ∧
  ∀ (s : State) (n v x : Nat) (p : Partition) (rest : List (Nat × Nat)), s.part? n = some p → p.scrub = (v, x) :: rest →
    ∃ u p', exec (.scrubSector n) s = .next u ∧ u.mem = s.mem ∧ u.part? n = some p' ∧ p'.scrub = rest ∧
      p'.scrubDone = p.scrubDone + 1 ∧ (∃ k ≤ 1, p'.pool = p.pool - k + (if rest = [] then p.returning else 0)) ∧
      (rest = [] → p'.scrubbing = [] ∧ p'.scrubBanks = [] ∧ p'.returning = 0 ∧ ∀ c ∈ u.ctxs, c.part = n → c.ending = false)) ∧
  ((∀ (s s1 : State) (asid va : Nat) (d : W64) (c : Context), s.mapPage asid va d = some s1 → s.ctx? asid = some c →
    exec (.pageMap asid va d) s = .next s1 ∧ s1.mem = s.mem ∧
    (c.loadStopped = false → exec (.loaderLoad asid [.page va d]) s = .next s1) ∧
    (∃ c' y, s1.ctx? asid = some c' ∧ c'.page? va = some y ∧ y.desc = d ∧ y.va = va ∧ va % y.size = 0) ∧
    (∀ level, kindLevel (descKind d) = some level → c.ending = false →
      exec (.descriptorChange asid level (va / 2 ^ levelShift level) d) s = .next s1) ∧
    (∀ off (b : Byte), Memory.wf s.mem = true → c.loadStopped = false → d.getLsbD 7 = false → off < 65536 →
      s1.growth asid (va + off / 512 * 512) 512 (b.toNat * 256 ^ (off % 512)) ≤ s1.freePool (s.partOf asid) →
      ∃ u, exec (.loaderLoad asid [.page va d, .data (va + off), .values 1 [b.toNat]]) s = .next u ∧ u.byte asid (va + off) = b) ∧
    (∀ prio q, Memory.wf s.mem = true → c.loadStopped = false → d.getLsbD 7 = false → prio < 4 →
      s1.growth asid va 512 (recordNumber (recordLoaded q)) ≤ s1.freePool (s.partOf asid) →
      ∃ u x, exec (.loaderLoad asid [.page va d, .launch prio q]) s = .next u ∧ u.load asid va 64 = recordNumber (recordLoaded q) ∧
        u.ctx? asid = some x ∧ x.toSubmit = c.toSubmit ++ [(prio, recordLoaded q)])) ∧
  (∀ (s : State) (asid va : Nat) (d : W64) (l : List LoadItem) (c : Context), s.mapPage asid va d = none → s.ctx? asid = some c →
    exec (.pageMap asid va d) s = .next s ∧ (c.loadStopped = true → exec (.loaderLoad asid (.page va d :: l)) s = .next s) ∧
    (c.loadStopped = false → exec (.loaderLoad asid (.page va d :: l)) s =
      .next { s.putCtx { c with loadStopped := true } with reports := s.reports ++ [.load asid] })) ∧
  (∀ (s : State) (asid level pre : Nat) (d : W64) (c : Context), s.ctx? asid = some c → level < 4 → pre * 2 ^ levelShift level < 2 ^ 56 →
    c.ending = false → descV (c.desc level (pre * 2 ^ levelShift level)) = true → (∃ t ∈ s.teams, t.asid = asid ∧ t.st = .running) →
    exec (.descriptorChange asid level pre d) s = .next { s with
      teams := s.teams.map fun t => if t.asid = asid ∧ t.st = .running ∧ t.stop = false then { t with stop := true, halted := [] } else t }) ∧
  (∀ (s : State) (n : Nat) (p : Partition) (y : Synonym) (a b : Context), s.part? n = some p → p.synonyms.length < 64 →
    y.va % 65536 = 0 → y.len % 65536 = 0 → y.canonVa % 65536 = 0 → y.va + y.len ≤ 2 ^ 56 → y.canonVa + y.len ≤ 2 ^ 56 →
    s.ctx? y.asid = some a → s.ctx? y.canonAsid = some b → a.part = n → b.part = n →
    exec (.synonymRegister n y) s = .next (s.putPart n { p with synonyms := p.synonyms ++ [y] })) ∧
  ∀ (s : State) (n i : Nat) (p : Partition) (x : RankSet), s.part? n = some p → i < 256 → 1 ≤ x.ranks → x.ranks ≤ 4096 →
    x.own < x.ranks → (∀ a ∈ x.ports, a.1 < x.ranks ∧ a.1 ≠ x.own ∧ a.2 ∈ p.ports) →
    (∀ r < x.ranks, r ≠ x.own → ∃ a ∈ x.ports, a.1 = r) → (∀ e ∈ s.engs, e.part = n → e.kind.tender = true ∨ e.rset ≠ i) →
    exec (.rankSetWrite n i x) s = .next (s.putPart n { p with
      rankSets := assocSet i x p.rankSets, collectives := p.collectives.filter fun c => c.1 % 256 != i }))

/-- R345 to R348: a word that is no instruction of its clause raises its fault at the word its cohort stands at; a bad header at word
0. R405, R320, R321, R323, R393, R395: a device reset leaves what the flash holds (the banks on the stronger code, the scrub queue,
the owner's key) and the reset state of everything else: start-up stage 0, TIME 0, no context, no key in use. R70, R345: a header's
word carries COUNT, CLASS, YLD and HWAIT, and is read back; a word at a header position with another signature raises HDR 1, COUNT 0
HDR 2, CLASS 7 HDR 3, a reserved bit HDR 4, in that order. -/
def Obligations.WordsThatAreNoInstruction : Prop :=
  ((∀ (s : State) (v : View), s.view = some v →
    let org := v.c.origin v.iss.w0 v.iss.w1
    let raises := fun (e : WordFault) (code det : Nat) (o : Origin) =>
      exec (.undecodableWord e) s = .next (s.raise v.g v.c o code det 0 0 0 v.c.lanes [])
    (∀ d, raises (.enc d) codeENC d org ∧ raises (.cls d) codeCLASS d org) ∧ raises (.hdr 5) codeHDR 5 org ∧
    ∀ d, d ≠ 5 → raises (.hdr d) codeHDR d { org with word := 0, w1 := 0 }) ∧
  ∀ s : State, ∃ u, exec .deviceReset s = .next u ∧ u.flash = s.flash ∧ u.hostMem = s.hostMem ∧ u.stage = 0 ∧ u.time = 0 ∧ u.parts = [] ∧
    u.ctxs = [] ∧ u.grids = [] ∧ u.teams = [] ∧ u.groups = [] ∧ u.mem = [] ∧ (∀ k, u.pair k = Pair.reset) ∧
    ∀ b < 32, (Pair.reset.banks[b]?).map (·.mode) = some .way) ∧
  ((∀ h : Header, 1 ≤ h.count → h.count ≤ 15 → decodeHeader (encodeHeader h) = .ok h) ∧
  ∀ w : W32, (w.toNat / 2 ^ 28 ≠ 10 → decodeHeader w = .error (.hdr 1)) ∧
    (w.toNat / 2 ^ 28 = 10 → (w.toNat % 16 = 0 → decodeHeader w = .error (.hdr 2)) ∧
      (w.toNat % 16 ≠ 0 → (w.toNat / 16 % 8 = 7 → decodeHeader w = .error (.hdr 3)) ∧
        (w.toNat / 16 % 8 ≠ 7 → (w.toNat / 2 ^ 24 % 16 ≠ 0 → decodeHeader w = .error (.hdr 4)) ∧
          (w.toNat / 2 ^ 24 % 16 = 0 → ∃ h, decodeHeader w = .ok h ∧ h.count = w.toNat % 16 ∧
            h.cls.code = w.toNat / 16 % 8 ∧ (h.yld = true ↔ w.toNat / 128 % 2 = 1) ∧ h.hwait.toNat = w.toNat / 256 % 2 ^ 16)))))

/-! ## Encoding, decoding, a step, reset (03_encoding R70 to R78; 19_faults_isa R343 to R345; 17_system R316, R321) -/

/-- R70, R73, R77, R78: words written from the encoding tables decode to the instructions they stand for; the first five are those of
the example of a fragment and its encoding. -/
def Obligations.WordsDecode : Prop :=
  decodeHeader 0xA0002412#32 = .ok ⟨2, .v, false, 0x0024#16⟩ ∧
  decode .v 0x000C0C10#32 none = .ok (.vAdd ⟨3, 1, 1, 2, 0, 0⟩) ∧
  decode .v 0x661433F2#32 none = .ok (.vFma ⟨5, 6, 0, 0x7E, 0, 2⟩) ∧
  decodeHeader 0xA0000022#32 = .ok ⟨2, .m, false, 0#16⟩ ∧
  decode .m 0x881E20C0#32 (some 0x02800040#32) = .ok (.ldB32Ml ⟨7, 0x44, 0, 3, 0, 0, 0, 1, 0, 2, 0x40⟩) ∧
  decode .s 0x4F140380#32 (some 0x12345678#32) = .ok (.sLi ⟨0x45, 0, 0, 0x70, 0, 0, 0x12345678⟩) ∧
  decode .v 0x94401018#32 (some 0x00050001#32) = .ok (.vPack ⟨0x10, 2, 0, 3, 0, 0, 0, 0, 0, 0, 5, 1⟩) ∧
  decode .e 0x003122C6#32 none = .ok (.cp ⟨1, 0x44, 0x45, 0x46⟩) ∧
  decode .k 0x010C0400#32 none = .ok (.srRd ⟨0x43, 0x010, 0⟩) ∧
  decode .s 0x02000000#32 none ≠ .ok (.sAdd ⟨0, 0, 0, 0, 0, 0⟩)

/-- R73 to R79: decoding the words of a well-formed instruction gives it back, every operand at every value its fields admit. -/
def Obligations.EncodeDecode : Prop :=
  ∀ (i : Instr) (c : Cls) (w0 : W32) (w1 : Option W32), WellFormed i = true → encode i = some (c, w0, w1) →
    decode c w0 w1 = .ok i

/-- R71, R301, R343, R367: a step whose move is the issue of a cohort inside a clause, which goes on with an instruction it has begun or
whose turn it is, fetches the word it stands at (and the next, for an instruction of two words within COUNT), decodes it under the
clause's class and is `exec` of that instruction, whatever `exec` answers; a cohort whose turn it is not issues nothing; a fetch that no
check refuses, no error meets, the vault lets in (R130) and the L1 does not answer reads the bytes of memory. -/
def Obligations.StepRunsDecoded : Prop :=
  (∀ (s s1 : State) (gid : GroupId) (cid : Nat) (rest : List Move) (g : Group) (c : Cohort) (w0 : W32) (i : Instr),
    s.dead = false → s.agenda = .issue gid cid :: rest →
    let s0 := { s with agenda := rest, tick := s.tick + 1, cur := none }
    s0.resident? gid = some g → g.cohort? cid = some c → s0.mayIssue g c = true → c.entered = true →
    let waits : Prop := c.prog ≠ .none ∨ s0.able g cid = false
    (¬waits → s0.mayGo g c = false → step s = .next s0) ∧
    let t0 : State := if waits then s0 else s0.markIssue g c
    let gt : Group := if waits then g else { g.putCohort { c with lastIssue := s0.tick } with lastIssue := s0.tick, readySince := none }
    (waits ∨ s0.mayGo g c = true) → t0.fetchWord gt c.cid (c.wordVa c.word) = (s1, .ok w0) →
    let runs := fun (t : State) => step s = match exec i t with
      | .next u => .next (u.noteWait t)
      | .fault r => .fault r
      | .refused r => .refused r
    ((twoWords c.cls (opOf w0) = false ∨ c.count < c.word + 1) → decode c.cls w0 none = .ok i →
      runs (s1.executing g.id c.cid w0 0)) ∧
    ∀ (s2 : State) (w1 : W32), twoWords c.cls (opOf w0) = true → c.word + 1 ≤ c.count →
      s1.fetchWord gt c.cid (c.wordVa (c.word + 1)) = (s2, .ok w1) → decode c.cls w0 (some w1) = .ok i →
      runs (s2.executing g.id c.cid w0 w1)) ∧
  ∀ (s : State) (g : Group) (cid va : Nat), s.fetchFault g va = none → s.codeHit g va = none → s.fetchError g va = none →
    (s.reach (s.canon g.asid va).1 (s.canon g.asid va).2.1 4 false (accessId g.id cid false)).2 = true →
    (s.fetchWord g cid va).2 = .ok (BitVec.ofNat 32 (s.load (s.canon g.asid va).1 (s.canon g.asid va).2.1 4)) ∧
    (s.fetchWord g cid va).1.mem = s.mem ∧ (s.fetchWord g cid va).1.groups = s.groups

/-- R326, R328, R332, R344: a fault found at issue stops the faulting cohort at its instruction and parks its group with one more
record, which names the instruction, DONE 0 and PENDING the cohort; registers, tags, masks, handles, tiles, counters and memory keep
their values, and no other group changes. A step in a module that has powered down runs nothing (R394). R328: the words of a fault
record that names a team and has no replay list. -/
def Obligations.ExceptionsAndRecords : Prop :=
  ((∀ (s : State) (v : View) (code detail va trk : Nat) (x : Group), s.view = some v → s.group? v.g.id = some x → code ≠ codeSHADOW →
    let t := s.raiseAt v code detail va trk
    t = { s with groups := t.groups } ∧ (∀ id, id ≠ v.g.id → t.group? id = s.group? id) ∧
    ∃ g r, t.group? v.g.id = some g ∧ g.records = v.g.records + 1 ∧ g.held = v.g.held ++ [r] ∧ g.parked = true ∧
      g.cohort? v.c.cid = some { v.c with stopped := true } ∧
      g.v = v.g.v ∧ g.s = v.g.s ∧ g.m = v.g.m ∧ g.w = v.g.w ∧ g.h = v.g.h ∧ g.c = v.g.c ∧ g.pc = v.g.pc ∧ g.pot = v.g.pot ∧
      g.threads = v.g.threads ∧ (∀ cid, cid ≠ v.c.cid → g.cohort? cid = v.g.cohort? cid) ∧
      r.code = code ∧ r.detail = detail ∧ r.va = va ∧ r.trk = trk ∧ r.done = 0 ∧ r.pending = v.c.lanes ∧ r.gid = some v.g.id ∧
      r.cid = v.c.cid ∧ r.core = v.g.core ∧ r.time = s.time ∧ r.ops = [] ∧ r.org.clause = v.c.clause ∧ r.org.word = v.c.word ∧
      r.org.w0 = v.iss.w0 ∧ r.org.w1 = v.iss.w1) ∧
  ∀ s : State, s.dead = true → step s = .fault .poweredDown) ∧
  (∀ (f : FaultRec) (id : GroupId) (asid idx : Nat), f.gid = some id → f.code < 2 ^ 8 → f.detail < 2 ^ 8 → id.grp < 64 →
    id.team.team < 2 ^ 24 → asid < 2 ^ 16 → id.team.grid.tok < 2 ^ 40 → f.core < 128 → f.org.hidx < 64 → f.trk < 16 →
    f.org.word < 16 → f.org.clause < 2 ^ 56 → f.va < 2 ^ 56 → f.time < 2 ^ 48 →
    ∃ q0 q1 q2 q3 q4 q5 q6 q7 : W64, f.words asid idx 0 = [q0, q1, q2, q3, q4, q5, q6, q7] ∧
      q0.toNat % 2 ^ 8 = f.code ∧ q0.toNat / 2 ^ 8 % 2 ^ 8 = f.detail ∧ q0.toNat / 2 ^ 16 % 2 ^ 8 = id.grp ∧
      q0.toNat / 2 ^ 24 % 2 ^ 24 = id.team.team ∧ q0.toNat / 2 ^ 48 = asid ∧
      q1.toNat % 2 ^ 40 = id.team.grid.tok ∧ q1.toNat / 2 ^ 40 % 2 ^ 7 = f.core ∧ (q1.toNat / 2 ^ 47 % 2 = 1 ↔ f.org.hv = true) ∧
      q1.toNat / 2 ^ 48 % 2 ^ 6 = f.org.hidx ∧ q1.toNat / 2 ^ 54 % 2 ^ 4 = f.trk ∧ q1.toNat / 2 ^ 58 % 2 ^ 4 = f.org.word ∧
      q2.toNat = f.org.clause ∧ q3.toNat = f.org.w0.toNat + f.org.w1.toNat * 2 ^ 32 ∧ q4 = f.done ∧ q5 = f.pending ∧
      q6.toNat = f.va ∧ q7.toNat = f.time)

/-- R332, R343, R344: an instruction of class S or V other than `exit` that gives a next state waits with nothing changed, or
raises a fault as taking an exception does (R326), or changes its own group alone, and of that group only registers and masks, threads,
cohorts and deferred copies (R179): handles, tiles, counters, the stockpot, records and everything outside the group keep their values. -/
def Obligations.FrameOfClassesSAndV : Prop :=
  ∀ (i : Instr) (c : Cls) (w0 : W32) (w1 : Option W32) (s t : State) (v : View), encode i = some (c, w0, w1) → c = .s ∨ c = .v →
    (∀ f, i ≠ .exit f) → s.view = some v → exec i s = .next t →
    t = s ∨ (∃ code detail va, t = s.raiseAt v code detail va 0) ∨
    ∃ g, t = s.putGroup g ∧ g = { v.g with
      v := g.v, s := g.s, m := g.m, w := g.w, threads := g.threads, cohorts := g.cohorts, nextCid := g.nextCid, yielded := g.yielded
      copies := g.copies }

/-- R123, R142, R148, R312: no instruction writes memory as it issues: every byte of memory and of the host's memory keeps its
value, and the accesses of instructions are performed at home, by events; of the events only those named here change memory. -/
def Obligations.OnlyTheseWriteMemory : Prop :=
  ∀ (i : Instr) (s t : State), exec i s = .next t →
    (t.mem = s.mem ∧ t.hostMem = s.hostMem) ∨
    isEvent i = true ∧ ((∃ op part, i = .accessAtHome op part) ∨ (∃ a b, i = .reductionDrain a b) ∨ (∃ a, i = .reservation a) ∨
      (∃ a b, i = .recall a b) ∨ (∃ a, i = .tenderChunkCommit a) ∨ (∃ a, i = .engineOperationComplete a) ∨
      (∃ a, i = .engineStallRecovery a) ∨ (∃ a b, i = .eventAppend a b) ∨ (∃ a b, i = .loaderLoad a b) ∨
      (∃ a b, i = .backingRegionRecovery a b) ∨ (∃ a b, i = .capacityRecovery a b) ∨ (∃ a b, i = .balloonWaitExpiry a b) ∨
      (∃ a b c d, i = .descriptorChange a b c d) ∨ (∃ a, i = .contextTeardown a) ∨ i = .deviceReset)

/-- An event whose conditions do not hold leaves the state as it is, which is the model's choice (log entry 1). Every instruction goes
on (R344: a fault is taken; R62: a wait is a next state): `exec` answers a next state for every row of the opcode table, whatever the
operands, once a cohort executes it, and for every event at every state; an instruction without a cohort is refused by that name. -/
def Obligations.NothingStops : Prop :=
  ∀ (i : Instr) (s : State), (isEvent i = true → Completes i s) ∧
    (isEvent i = false → (∀ v, s.view = some v → Completes i s) ∧ (s.view = none → exec i s = .refused .noCohort))

/-- Every step keeps the canonical form of memory, which is the model's (log entry 23): addresses strictly rising, no entry 0. -/
def Obligations.StepKeepsMemory : Prop :=
  ∀ s t : State, s.MemOk → step s = .next t → t.MemOk

/-- The state after reset has memories in canonical form, which is the model's (log entry 23). R2, R51, R152, R290, R316, R321, R405:
what device reset leaves: stage 0 with the boot at its first step, TIME and CLOCK 0, no partition, context, grid or group, memory that
reads 0, every cluster bank in way mode with nothing cached, every DRAM bank idle with no refresh postponed; and a group as a launch
starts it: PARAMS in s0, every other v, s and m register 0 and full, m0 all threads, handles idle, witness registers empty. -/
def Obligations.StateAfterReset : Prop :=
  (State.reset.MemOk) ∧
  (State.reset.stage = 0 ∧ State.reset.time = 0 ∧ State.reset.dead = false ∧ State.reset.parts = [] ∧ State.reset.ctxs = [] ∧
  State.reset.grids = [] ∧ State.reset.teams = [] ∧ State.reset.groups = [] ∧ (∀ t, State.reset.cycles t = 0) ∧
  (∀ k, (State.reset.pair k).l1 = [] ∧ (State.reset.pair k).banks.length = 32 ∧
    ∀ b ∈ (State.reset.pair k).banks, b.mode = .way ∧ b.bytes = []) ∧
  (∀ a, cellGet State.reset.mem a = 0) ∧ State.reset.bootStep = 1 ∧
  (∀ n b, (State.reset.vault n).bankState b = .idle ∧ ((State.reset.vault n).dbank b).postponed = 0 ∧ (State.reset.vault n).l2 = []) ∧
  ∀ (id : GroupId) (asid core : Nat) (slots : List Nat) (q : LaunchWords),
    let g := newGroup id asid core slots q
    (∀ r < q.vregs, g.vreg r = ⟨List.replicate q.width 0, .u, true, false⟩) ∧ g.sreg 0 = ⟨BitVec.ofNat 64 q.params, true, false⟩ ∧
    (∀ r, 1 ≤ r → g.sreg r = ⟨0, true, false⟩) ∧ g.mreg 0 = ⟨allLanes q.width, false⟩ ∧ (∀ r, 1 ≤ r → g.mreg r = ⟨0, false⟩) ∧
    (∀ r, g.handle r = ⟨.idle, 0, 0, 0, false, false⟩) ∧ ∀ r, g.witness r = ⟨.empty, 0, 0, 0, 0, [], false⟩)

/-! ## State registers, whatever they hold (12_engines_system R284; 03 R79; 06 R145) -/

/-- R79, R145, R284: a read or write of any listed state register completes, whatever it holds; the return of a reading that was asked
of the pantry home does too. -/
def Obligations.StateRegisterAccessesComplete : Prop :=
  (∀ (f : K) (s : State) (v : View), s.view = some v → v.Home →
    f.srn.toNat ∈ [0, 1, 2, 3, 4, 5, 6, 0x10, 0x11, 0x12, 0x13, 0x14, 0x15, 0x20, 0x21, 0x22, 0x23, 0x24, 0x25, 0x26, 0x27, 0x30, 0x31,
      0x32, 0x40, 0x41, 0x42, 0x50, 0x60] →
    (v.Dst f.d → ∃ (t : State) (g : Group), exec (.srRd f) s = .next t ∧ t.group? v.g.id = some (g.advance v.c.cid 1) ∧
      g = { v.g with s := g.s, v := g.v, stamp := g.stamp } ∧ t.mem = s.mem ∧ t.hostMem = s.hostMem ∧ t.ops = s.ops) ∧
    (v.Uni f.d → ∃ (t : State) (g : Group), exec (.srWr f) s = .next t ∧ t.group? v.g.id = some (g.advance v.c.cid 1) ∧
      g = { v.g with randkey := g.randkey } ∧ t = { s with groups := t.groups, ctxs := t.ctxs })) ∧
  ∀ (s : State) (id : Nat), ∃ t : State, exec (.pantryReadReturn id) s = .next t ∧ t = { s with groups := t.groups, ctxs := t.ctxs } ∧
    ((total s.ctxs fun c => (c.reads.filter fun x => x.id == id).length) ≤ 1 → ∀ c ∈ t.ctxs, ∀ x ∈ c.reads, x.id ≠ id)
end

