-- ==== Sys2Proof/Laws/Bits.lean ====
section
/-! SUPPORT. Laws/Bits.lean: the operations on words as operations on the numbers they stand for (04_arithmetic R82, R83). -/

namespace Sys2Proof.Machine

theorem bv_add {w : Nat} (a b : BitVec w) : a + b = BitVec.ofNat w (a.toNat + b.toNat) := by
  apply BitVec.eq_of_toNat_eq; simp
theorem bv_sub {w : Nat} (a b : BitVec w) : a - b = BitVec.ofInt w (a.toInt - b.toInt) := by
  apply BitVec.eq_of_toInt_eq; simp [BitVec.toInt_sub]
theorem bv_mul {w : Nat} (a b : BitVec w) : a * b = BitVec.ofNat w (a.toNat * b.toNat) := by
  apply BitVec.eq_of_toNat_eq; simp
theorem bv_shl {w : Nat} (a : BitVec w) (n : Nat) : a <<< n = BitVec.ofNat w (a.toNat * 2 ^ n) := by
  apply BitVec.eq_of_toNat_eq; simp [Nat.shiftLeft_eq]
theorem bv_shr {w : Nat} (a : BitVec w) (n : Nat) : a >>> n = BitVec.ofNat w (a.toNat / 2 ^ n) := by
  apply BitVec.eq_of_toNat_eq
  simp only [BitVec.toNat_ushiftRight, Nat.shiftRight_eq_div_pow, BitVec.toNat_ofNat]
  exact (Nat.mod_eq_of_lt (Nat.lt_of_le_of_lt (Nat.div_le_self _ _) a.isLt)).symm
theorem bv_sar {w : Nat} (a : BitVec w) (n : Nat) : a.sshiftRight n = BitVec.ofInt w (a.toInt / 2 ^ n) := by
  rw [BitVec.sshiftRight, Int.shiftRight_eq_div_pow]; norm_cast
theorem bv_ofInt_toInt {w : Nat} (a : BitVec w) : BitVec.ofInt w a.toInt = a := by simp
theorem bv_minI {w : Nat} (a b : BitVec w) : (if b.slt a then b else a) = BitVec.ofInt w (min a.toInt b.toInt) := by
  rcases lt_or_ge b.toInt a.toInt with h | h <;> simp [BitVec.slt, min_eq_right_of_lt, h, not_lt.mpr]
theorem bv_maxI {w : Nat} (a b : BitVec w) : (if a.slt b then b else a) = BitVec.ofInt w (max a.toInt b.toInt) := by
  rcases lt_or_ge a.toInt b.toInt with h | h <;> simp [BitVec.slt, max_eq_right_of_lt, h, not_lt.mpr]
theorem bv_minN {w : Nat} (a b : BitVec w) : (if b.ult a then b else a) = BitVec.ofNat w (min a.toNat b.toNat) := by
  rcases lt_or_ge b.toNat a.toNat with h | h <;> simp [BitVec.ult, min_eq_right_of_lt, h, not_lt.mpr]
theorem bv_maxN {w : Nat} (a b : BitVec w) : (if a.ult b then b else a) = BitVec.ofNat w (max a.toNat b.toNat) := by
  rcases lt_or_ge a.toNat b.toNat with h | h <;> simp [BitVec.ult, max_eq_right_of_lt, h, not_lt.mpr]


theorem bv_high64 (x : BitVec 128) : x.extractLsb' 64 64 = BitVec.ofInt 64 (x.toInt / 2 ^ 64) := by
  apply BitVec.eq_of_toNat_eq
  rw [BitVec.extractLsb'_toNat, Nat.shiftRight_eq_div_pow, BitVec.toNat_ofInt, BitVec.toInt_eq_toNat_cond]
  have := x.isLt
  split <;> omega
theorem bv_high32 (x : BitVec 64) : x.extractLsb' 32 32 = BitVec.ofInt 32 (x.toInt / 2 ^ 32) := by
  apply BitVec.eq_of_toNat_eq
  rw [BitVec.extractLsb'_toNat, Nat.shiftRight_eq_div_pow, BitVec.toNat_ofInt, BitVec.toInt_eq_toNat_cond]
  have := x.isLt
  split <;> omega

theorem toInt_product {w : Nat} (h : 0 < w) (a b : BitVec w) :
    (a.signExtend (2 * w) * b.signExtend (2 * w)).toInt = a.toInt * b.toInt := by
  rw [BitVec.toInt_mul, BitVec.toInt_signExtend_of_le (by omega), BitVec.toInt_signExtend_of_le (by omega)]
  have ha := BitVec.le_two_mul_toInt (x := a)
  have ha' := BitVec.two_mul_toInt_lt (x := a)
  have hb := BitVec.le_two_mul_toInt (x := b)
  have hb' := BitVec.two_mul_toInt_lt (x := b)
  have hp : ((2 ^ (2 * w) : Nat) : Int) = 2 ^ w * 2 ^ w := by push_cast; ring
  have h2 : (2 : Int) ≤ 2 ^ w := by
    calc (2 : Int) = 2 ^ 1 := by norm_num
      _ ≤ 2 ^ w := by gcongr <;> omega
  generalize (2 : Int) ^ w = m at *
  apply Int.bmod_eq_of_le_mul_two <;> rw [hp] <;> nlinarith

theorem bv_mulhI64 (a b : BitVec 64) :
    (a.signExtend 128 * b.signExtend 128).extractLsb' 64 64 = BitVec.ofInt 64 (a.toInt * b.toInt / 2 ^ 64) := by
  rw [bv_high64]; exact congrArg (fun z => BitVec.ofInt 64 (z / 2 ^ 64)) (toInt_product (by decide) a b)
theorem bv_mulhI32 (a b : BitVec 32) :
    (a.signExtend 64 * b.signExtend 64).extractLsb' 32 32 = BitVec.ofInt 32 (a.toInt * b.toInt / 2 ^ 32) := by
  rw [bv_high32]; exact congrArg (fun z => BitVec.ofInt 32 (z / 2 ^ 32)) (toInt_product (by decide) a b)
theorem bv_mulhN64 (a b : BitVec 64) :
    (a.setWidth 128 * b.setWidth 128).extractLsb' 64 64 = BitVec.ofNat 64 (a.toNat * b.toNat / 2 ^ 64) := by
  have ha := a.isLt
  have hb := b.isLt
  have : a.toNat * b.toNat < 2 ^ 128 := by
    calc a.toNat * b.toNat < 2 ^ 64 * 2 ^ 64 := Nat.mul_lt_mul'' ha hb
      _ = 2 ^ 128 := by norm_num
  apply BitVec.eq_of_toNat_eq
  rw [BitVec.extractLsb'_toNat, Nat.shiftRight_eq_div_pow, BitVec.toNat_ofNat, BitVec.toNat_mul, BitVec.toNat_setWidth,
    BitVec.toNat_setWidth, Nat.mod_eq_of_lt (a := a.toNat) (by omega), Nat.mod_eq_of_lt (a := b.toNat) (by omega),
    Nat.mod_eq_of_lt this]

theorem bv_divI64 (a b : BitVec 64) : a.sdiv b = BitVec.ofInt 64 (a.toInt.tdiv b.toInt) := by
  apply BitVec.eq_of_toInt_eq
  rw [BitVec.toInt_sdiv, BitVec.toInt_ofInt]
theorem bv_divN64 (a b : BitVec 64) : a.udiv b = BitVec.ofNat 64 (a.toNat / b.toNat) := by
  apply BitVec.eq_of_toNat_eq
  rw [BitVec.toNat_ofNat]
  exact (Nat.mod_eq_of_lt (Nat.lt_of_le_of_lt (Nat.div_le_self _ _) a.isLt)).symm

theorem clz_bounds (w n : Nat) (h : n < 2 ^ w) :
    clz w n ≤ w ∧ n < 2 ^ (w - clz w n) ∧ (clz w n < w → 2 ^ (w - 1 - clz w n) ≤ n) := by
  unfold clz
  split
  · next hn => subst hn; simp
  · next hn =>
    have hl : Nat.log2 n < w := (Nat.log2_lt hn).2 h
    have h1 : n < 2 ^ (Nat.log2 n + 1) := Nat.lt_log2_self
    have h2 : 2 ^ Nat.log2 n ≤ n := Nat.log2_self_le hn
    have e1 : w - (w - 1 - Nat.log2 n) = Nat.log2 n + 1 := by omega
    have e2 : w - 1 - (w - 1 - Nat.log2 n) = Nat.log2 n := by omega
    refine ⟨by omega, ?_, fun _ => ?_⟩
    · rw [e1]; exact h1
    · rw [e2]; exact h2

theorem bitAt_toNat {w : Nat} (a : BitVec w) (i : Nat) : bitAt a.toNat i = a.getLsbD i := by
  rw [bitAt, BitVec.getLsbD, Nat.testBit_eq_decide_div_mod_eq]; rfl
theorem popc_card {w : Nat} (a : BitVec w) (n : Nat) :
    popc n a.toNat = ((Finset.range n).filter fun k => a.getLsbD k = true).card := by
  simp only [popc, bitAt_toNat]
  rw [← List.toFinset_card_of_nodup (List.Nodup.filter _ List.nodup_range)]
  congr 1; ext k; simp

theorem addsI_eq (a b : W32) :
    addsI a b = BitVec.ofInt 32 (max (-2 ^ 31) (min (2 ^ 31 - 1) (a.toInt + b.toInt))) := rfl

theorem signed_field (w x : Nat) (h : 0 < w) (hx : x < 2 ^ w) :
    (signedOf w x = x ∨ signedOf w x = x - 2 ^ w) ∧ -(2 : Int) ^ (w - 1) ≤ signedOf w x ∧ signedOf w x < 2 ^ (w - 1) := by
  have e : (2 : Nat) ^ w = 2 * 2 ^ (w - 1) := by
    conv_lhs => rw [← Nat.sub_add_cancel h, pow_succ]
    ring
  have e' : (2 : Int) ^ w = 2 * 2 ^ (w - 1) := by exact_mod_cast e
  have c : ((2 ^ (w - 1) : Nat) : Int) = (2 : Int) ^ (w - 1) := by push_cast; rfl
  unfold signedOf
  rw [Nat.mod_eq_of_lt hx]
  split <;> refine ⟨by simp, ?_, ?_⟩ <;> omega

theorem le_iff_testBit (n : Nat) (h : n < 2 ^ 32) : 2 ^ 31 ≤ n ↔ n.testBit 31 = true := by
  rw [Nat.testBit_eq_decide_div_mod_eq, decide_eq_true_iff]
  omega
theorem decode_flip (b : W32) : fv (b ^^^ 0x80000000#32) = (fv b).flip := by
  have hx : (b ^^^ 0x80000000#32).toNat = b.toNat ^^^ 2 ^ 31 := by rw [BitVec.toNat_xor]; rfl
  have h1 : (b ^^^ 0x80000000#32).toNat % 2 ^ 31 = b.toNat % 2 ^ 31 := by
    rw [hx, Nat.xor_mod_two_pow]; simp
  have h2 : 2 ^ 31 ≤ (b ^^^ 0x80000000#32).toNat ↔ ¬2 ^ 31 ≤ b.toNat := by
    rw [le_iff_testBit _ (b ^^^ 0x80000000#32).isLt, le_iff_testBit _ b.isLt, hx, Nat.testBit_xor, Nat.testBit_two_pow_self]
    simp
  have l1 := b.isLt
  have l2 := (b ^^^ 0x80000000#32).isLt
  have s1 : f32.signBit = 2 ^ 31 := rfl
  unfold fv Fmt.decode
  simp only [s1]
  rw [Nat.mod_eq_of_lt (a := b.toNat) (by omega), Nat.mod_eq_of_lt (a := (b ^^^ 0x80000000#32).toNat) (by omega), h1]
  have e : decide (2 ^ 31 ≤ (b ^^^ 0x80000000#32).toNat) = !decide (2 ^ 31 ≤ b.toNat) := by
    rw [← decide_not, decide_eq_decide]; exact h2
  rw [e]
  split
  · split <;> rfl
  · split
    · rfl
    · split <;> rfl
/-- R90: a difference is the sum with the sign of the subtrahend changed. -/
theorem fsub_eq (a b : W32) : fsub a b = fadd a (b ^^^ 0x80000000#32) := by
  rw [fsub, fadd, decode_flip]

end Sys2Proof.Machine
end

