-- ==== Sys2Proof/Laws/Encode.lean ====
section
/-! SUPPORT. Laws/Encode.lean: reading a format's fields back from the words of its fields, and its opcode. -/

namespace Sys2Proof

theorem A3.ofWord_word (op : BitVec 7) (f : A3) : A3.ofWord (A3.word op f) = f := by
  cases f
  simp only [A3.ofWord, A3.word, A3.mk.injEq]
  refine ⟨?_, ?_, ?_, ?_, ?_, ?_⟩ <;>
    first | trivial | (apply BitVec.eq_of_getLsbD_eq; intro i hi; simp only [BitVec.getLsbD_extractLsb', BitVec.getLsbD_cast, BitVec.getLsbD_append]; interval_cases i <;> simp)

theorem A3.opOf_word (op : BitVec 7) (f : A3) : opOf (A3.word op f) = op.toNat := by
  refine congrArg BitVec.toNat ?_
  apply BitVec.eq_of_getLsbD_eq; intro i hi; simp only [A3.word, BitVec.getLsbD_extractLsb', BitVec.getLsbD_cast, BitVec.getLsbD_append]; interval_cases i <;> simp

theorem AI.ofWord_word (op : BitVec 7) (f : AI) : AI.ofWord (AI.word op f) = f := by
  cases f
  simp only [AI.ofWord, AI.word, AI.mk.injEq]
  refine ⟨?_, ?_, ?_, ?_⟩ <;>
    first | trivial | (apply BitVec.eq_of_getLsbD_eq; intro i hi; simp only [BitVec.getLsbD_extractLsb', BitVec.getLsbD_cast, BitVec.getLsbD_append]; interval_cases i <;> simp)

theorem AI.opOf_word (op : BitVec 7) (f : AI) : opOf (AI.word op f) = op.toNat := by
  refine congrArg BitVec.toNat ?_
  apply BitVec.eq_of_getLsbD_eq; intro i hi; simp only [AI.word, BitVec.getLsbD_extractLsb', BitVec.getLsbD_cast, BitVec.getLsbD_append]; interval_cases i <;> simp

theorem A4.ofWords_word (op : BitVec 7) (f : A4) : A4.ofWords (A4.word0 op f) (A4.word1 f) = f := by
  cases f
  simp only [A4.ofWords, A4.word0, A4.word1, A4.mk.injEq]
  refine ⟨?_, ?_, ?_, ?_, ?_, ?_, ?_, ?_, ?_, ?_, ?_, ?_⟩ <;>
    first | trivial | (apply BitVec.eq_of_getLsbD_eq; intro i hi; simp only [BitVec.getLsbD_extractLsb', BitVec.getLsbD_cast, BitVec.getLsbD_append]; interval_cases i <;> simp)

theorem A4.opOf_word (op : BitVec 7) (f : A4) : opOf (A4.word0 op f) = op.toNat := by
  refine congrArg BitVec.toNat ?_
  apply BitVec.eq_of_getLsbD_eq; intro i hi; simp only [A4.word0, BitVec.getLsbD_extractLsb', BitVec.getLsbD_cast, BitVec.getLsbD_append]; interval_cases i <;> simp

theorem AL.ofWords_word (op : BitVec 7) (f : AL) : AL.ofWords (AL.word0 op f) (AL.word1 f) = f := by
  cases f
  simp only [AL.ofWords, AL.word0, AL.word1, AL.mk.injEq]
  refine ⟨?_, ?_, ?_, ?_, ?_, ?_, ?_⟩ <;>
    first | trivial | (apply BitVec.eq_of_getLsbD_eq; intro i hi; simp only [BitVec.getLsbD_extractLsb', BitVec.getLsbD_cast, BitVec.getLsbD_append]; interval_cases i <;> simp)

theorem AL.opOf_word (op : BitVec 7) (f : AL) : opOf (AL.word0 op f) = op.toNat := by
  refine congrArg BitVec.toNat ?_
  apply BitVec.eq_of_getLsbD_eq; intro i hi; simp only [AL.word0, BitVec.getLsbD_extractLsb', BitVec.getLsbD_cast, BitVec.getLsbD_append]; interval_cases i <;> simp

theorem MS.ofWord_word (op : BitVec 7) (f : MS) : MS.ofWord (MS.word op f) = f := by
  cases f
  simp only [MS.ofWord, MS.word, MS.mk.injEq]
  refine ⟨?_, ?_, ?_, ?_, ?_, ?_, ?_⟩ <;>
    first | trivial | (apply BitVec.eq_of_getLsbD_eq; intro i hi; simp only [BitVec.getLsbD_extractLsb', BitVec.getLsbD_cast, BitVec.getLsbD_append]; interval_cases i <;> simp)

theorem MS.opOf_word (op : BitVec 7) (f : MS) : opOf (MS.word op f) = op.toNat := by
  refine congrArg BitVec.toNat ?_
  apply BitVec.eq_of_getLsbD_eq; intro i hi; simp only [MS.word, BitVec.getLsbD_extractLsb', BitVec.getLsbD_cast, BitVec.getLsbD_append]; interval_cases i <;> simp

theorem ML.ofWords_word (op : BitVec 7) (f : ML) : ML.ofWords (ML.word0 op f) (ML.word1 f) = f := by
  cases f
  simp only [ML.ofWords, ML.word0, ML.word1, ML.mk.injEq]
  refine ⟨?_, ?_, ?_, ?_, ?_, ?_, ?_, ?_, ?_, ?_, ?_⟩ <;>
    first | trivial | (apply BitVec.eq_of_getLsbD_eq; intro i hi; simp only [BitVec.getLsbD_extractLsb', BitVec.getLsbD_cast, BitVec.getLsbD_append]; interval_cases i <;> simp)

theorem ML.opOf_word (op : BitVec 7) (f : ML) : opOf (ML.word0 op f) = op.toNat := by
  refine congrArg BitVec.toNat ?_
  apply BitVec.eq_of_getLsbD_eq; intro i hi; simp only [ML.word0, BitVec.getLsbD_extractLsb', BitVec.getLsbD_cast, BitVec.getLsbD_append]; interval_cases i <;> simp

theorem BR.ofWord_word (op : BitVec 7) (f : BR) : BR.ofWord (BR.word op f) = f := by
  cases f
  simp only [BR.ofWord, BR.word, BR.mk.injEq]
  refine ⟨?_, ?_, ?_⟩ <;>
    first | trivial | (apply BitVec.eq_of_getLsbD_eq; intro i hi; simp only [BitVec.getLsbD_extractLsb', BitVec.getLsbD_cast, BitVec.getLsbD_append]; interval_cases i <;> simp)

theorem BR.opOf_word (op : BitVec 7) (f : BR) : opOf (BR.word op f) = op.toNat := by
  refine congrArg BitVec.toNat ?_
  apply BitVec.eq_of_getLsbD_eq; intro i hi; simp only [BR.word, BitVec.getLsbD_extractLsb', BitVec.getLsbD_cast, BitVec.getLsbD_append]; interval_cases i <;> simp

theorem SplitF.ofWords_word (op : BitVec 7) (f : SplitF) : SplitF.ofWords (SplitF.word0 op f) (SplitF.word1 f) = f := by
  cases f
  simp only [SplitF.ofWords, SplitF.word0, SplitF.word1, SplitF.mk.injEq]
  refine ⟨?_, ?_, ?_, ?_, ?_⟩ <;>
    first | trivial | (apply BitVec.eq_of_getLsbD_eq; intro i hi; simp only [BitVec.getLsbD_extractLsb', BitVec.getLsbD_cast, BitVec.getLsbD_append]; interval_cases i <;> simp)

theorem SplitF.opOf_word (op : BitVec 7) (f : SplitF) : opOf (SplitF.word0 op f) = op.toNat := by
  refine congrArg BitVec.toNat ?_
  apply BitVec.eq_of_getLsbD_eq; intro i hi; simp only [SplitF.word0, BitVec.getLsbD_extractLsb', BitVec.getLsbD_cast, BitVec.getLsbD_append]; interval_cases i <;> simp

theorem XM.ofWord_word (op : BitVec 7) (f : XM) : XM.ofWord (XM.word op f) = f := by
  cases f
  simp only [XM.ofWord, XM.word, XM.mk.injEq]
  refine ⟨?_, ?_, ?_, ?_, ?_, ?_, ?_⟩ <;>
    first | trivial | (apply BitVec.eq_of_getLsbD_eq; intro i hi; simp only [BitVec.getLsbD_extractLsb', BitVec.getLsbD_cast, BitVec.getLsbD_append]; interval_cases i <;> simp)

theorem XM.opOf_word (op : BitVec 7) (f : XM) : opOf (XM.word op f) = op.toNat := by
  refine congrArg BitVec.toNat ?_
  apply BitVec.eq_of_getLsbD_eq; intro i hi; simp only [XM.word, BitVec.getLsbD_extractLsb', BitVec.getLsbD_cast, BitVec.getLsbD_append]; interval_cases i <;> simp

theorem XR.ofWord_word (op : BitVec 7) (f : XR) : XR.ofWord (XR.word op f) = f := by
  cases f
  simp only [XR.ofWord, XR.word, XR.mk.injEq]
  refine ⟨?_, ?_, ?_, ?_, ?_⟩ <;>
    first | trivial | (apply BitVec.eq_of_getLsbD_eq; intro i hi; simp only [BitVec.getLsbD_extractLsb', BitVec.getLsbD_cast, BitVec.getLsbD_append]; interval_cases i <;> simp)

theorem XR.opOf_word (op : BitVec 7) (f : XR) : opOf (XR.word op f) = op.toNat := by
  refine congrArg BitVec.toNat ?_
  apply BitVec.eq_of_getLsbD_eq; intro i hi; simp only [XR.word, BitVec.getLsbD_extractLsb', BitVec.getLsbD_cast, BitVec.getLsbD_append]; interval_cases i <;> simp

theorem XE.ofWord_word (op : BitVec 7) (f : XE) : XE.ofWord (XE.word op f) = f := by
  cases f
  simp only [XE.ofWord, XE.word, XE.mk.injEq]
  refine ⟨?_, ?_, ?_⟩ <;>
    first | trivial | (apply BitVec.eq_of_getLsbD_eq; intro i hi; simp only [BitVec.getLsbD_extractLsb', BitVec.getLsbD_cast, BitVec.getLsbD_append]; interval_cases i <;> simp)

theorem XE.opOf_word (op : BitVec 7) (f : XE) : opOf (XE.word op f) = op.toNat := by
  refine congrArg BitVec.toNat ?_
  apply BitVec.eq_of_getLsbD_eq; intro i hi; simp only [XE.word, BitVec.getLsbD_extractLsb', BitVec.getLsbD_cast, BitVec.getLsbD_append]; interval_cases i <;> simp

theorem E.ofWord_word (op : BitVec 7) (f : E) : E.ofWord (E.word op f) = f := by
  cases f
  simp only [E.ofWord, E.word, E.mk.injEq]
  refine ⟨?_, ?_, ?_, ?_⟩ <;>
    first | trivial | (apply BitVec.eq_of_getLsbD_eq; intro i hi; simp only [BitVec.getLsbD_extractLsb', BitVec.getLsbD_cast, BitVec.getLsbD_append]; interval_cases i <;> simp)

theorem E.opOf_word (op : BitVec 7) (f : E) : opOf (E.word op f) = op.toNat := by
  refine congrArg BitVec.toNat ?_
  apply BitVec.eq_of_getLsbD_eq; intro i hi; simp only [E.word, BitVec.getLsbD_extractLsb', BitVec.getLsbD_cast, BitVec.getLsbD_append]; interval_cases i <;> simp

theorem Y.ofWord_word (op : BitVec 7) (f : Y) : Y.ofWord (Y.word op f) = f := by
  cases f
  simp only [Y.ofWord, Y.word, Y.mk.injEq]
  refine ⟨?_, ?_, ?_, ?_⟩ <;>
    first | trivial | (apply BitVec.eq_of_getLsbD_eq; intro i hi; simp only [BitVec.getLsbD_extractLsb', BitVec.getLsbD_cast, BitVec.getLsbD_append]; interval_cases i <;> simp)

theorem Y.opOf_word (op : BitVec 7) (f : Y) : opOf (Y.word op f) = op.toNat := by
  refine congrArg BitVec.toNat ?_
  apply BitVec.eq_of_getLsbD_eq; intro i hi; simp only [Y.word, BitVec.getLsbD_extractLsb', BitVec.getLsbD_cast, BitVec.getLsbD_append]; interval_cases i <;> simp

theorem RecruitF.ofWords_word (op : BitVec 7) (f : RecruitF) : RecruitF.ofWords (RecruitF.word0 op f) (RecruitF.word1 f) = f := by
  cases f
  simp only [RecruitF.ofWords, RecruitF.word0, RecruitF.word1, RecruitF.mk.injEq]
  refine ⟨?_, ?_, ?_, ?_, ?_, ?_, ?_, ?_⟩ <;>
    first | trivial | (apply BitVec.eq_of_getLsbD_eq; intro i hi; simp only [BitVec.getLsbD_extractLsb', BitVec.getLsbD_cast, BitVec.getLsbD_append]; interval_cases i <;> simp)

theorem RecruitF.opOf_word (op : BitVec 7) (f : RecruitF) : opOf (RecruitF.word0 op f) = op.toNat := by
  refine congrArg BitVec.toNat ?_
  apply BitVec.eq_of_getLsbD_eq; intro i hi; simp only [RecruitF.word0, BitVec.getLsbD_extractLsb', BitVec.getLsbD_cast, BitVec.getLsbD_append]; interval_cases i <;> simp

theorem K.ofWord_word (op : BitVec 7) (f : K) : K.ofWord (K.word op f) = f := by
  cases f
  simp only [K.ofWord, K.word, K.mk.injEq]
  refine ⟨?_, ?_, ?_⟩ <;>
    first | trivial | (apply BitVec.eq_of_getLsbD_eq; intro i hi; simp only [BitVec.getLsbD_extractLsb', BitVec.getLsbD_cast, BitVec.getLsbD_append]; interval_cases i <;> simp)

theorem K.opOf_word (op : BitVec 7) (f : K) : opOf (K.word op f) = op.toNat := by
  refine congrArg BitVec.toNat ?_
  apply BitVec.eq_of_getLsbD_eq; intro i hi; simp only [K.word, BitVec.getLsbD_extractLsb', BitVec.getLsbD_cast, BitVec.getLsbD_append]; interval_cases i <;> simp

end Sys2Proof
end

