-- ==== Sys2Proof/Laws/Issue.lean ====
section
/-! SUPPORT. Laws/Issue.lean: an instruction whose checks all hold is not stopped at issue, and takes its effect. -/

namespace Sys2Proof.Machine

theorem firstFail_none {l : List (Bool × Nat)} (h : ∀ p ∈ l, p.1 = true) : firstFail l = none := by
  simp only [firstFail, Option.map_eq_none_iff, List.find?_eq_none]
  intro p hp; simp [h p hp]

/-- R343: nothing stops an instruction whose gate is open. -/
theorem stop_open {k : Gate} {v : View} (h : Opens k v) : k.stop v = none := by
  have hsrc : (k.src.any fun a => v.isEmpty a.code a.n) = false := by
    simpa using h.full
  have hdst : (k.dst.any fun d => v.isEmpty d.1 d.2) = false := by
    simpa using h.room
  have htrap : (k.src.find? fun a => a.trap && v.isEmpty a.code a.n) = none := by
    simp only [List.find?_eq_none]; intro a ha; simp [h.full a ha]
  have hbad : (k.src.any fun a => v.isBad a.code a.n) = false := by simpa using h.sound
  have hmask : (k.masks.any fun r => r != 0 && (v.g.mreg r).bad) = false := by
    simp only [List.any_eq_false]; intro r hr
    rcases h.maskSound r hr with h | h <;> simp [h]
  have hl1 : (k.late.find? fun l => !l.ok && stateCode l.code) = none := by
    simp only [List.find?_eq_none]; intro l hl; simp [h.ready l hl]
  have hl2 : (k.late.find? fun l => !l.ok) = none := by
    simp only [List.find?_eq_none]; intro l hl; simp [h.ready l hl]
  have hhelp : (v.helping && (!k.helps || (k.src.any fun a => v.foreign a.code a.n) ||
      k.dst.any fun d => v.readOnly d.1 d.2)) = false := by
    cases hv : v.helping
    · rfl
    · obtain ⟨a, b, c⟩ := h.helper hv
      have b' : (k.src.any fun a => v.foreign a.code a.n) = false := by simpa using b
      have c' : (k.dst.any fun d => v.readOnly d.1 d.2) = false := by simpa using c
      simp only [a, b', c']; rfl
  have hs : (v.shadow && v.c.flaw && k.unit != 0) = false := by
    have := h.steady
    cases h1 : v.shadow <;> cases h2 : v.c.flaw <;> simp_all
  simp only [Gate.stop, firstFail_none h.legal, htrap, hsrc, hdst, hbad, hmask, firstFail_none h.values, hl1, hhelp, hl2, hs]
  rfl

/-- Nothing else lets an instruction through. -/
theorem open_of_stop {k : Gate} {v : View} (h : k.stop v = none) : Opens k v := by
  unfold Gate.stop at h
  split at h
  · cases h
  rename_i h1
  split at h
  · cases h
  split at h
  · cases h
  rename_i h2
  split at h
  · cases h
  rename_i h3
  split at h
  · cases h
  rename_i h4
  split at h
  · cases h
  split at h
  · cases h
  rename_i h5
  split at h
  · cases h
  rename_i h6
  split at h
  · cases h
  rename_i h7
  simp only [firstFail, Option.map_eq_none_iff, List.find?_eq_none, Bool.not_eq_true, Bool.or_eq_true,
    not_or, List.any_eq_true, not_exists, not_and, Bool.and_eq_true, bne_iff_ne, ne_eq, Bool.not_eq_eq_eq_not, Bool.not_true] at h1 h2 h3 h4 h5 h6 h7
  refine ⟨fun p hp => by simpa using h1 p hp, h2.1, h2.2, h3.1, ?_, fun p hp => by simpa using h4 p hp, fun p hp => by simpa using h6 p hp, ?_, ?_⟩
  · intro r hr
    by_cases hz : r = 0
    · exact .inl hz
    · exact .inr (h3.2 r hr hz)
  · intro hv
    have := h5 hv
    simpa [and_assoc] using this
  · intro a b
    simpa using h7 ⟨a, b⟩

theorem runLocal_open {n : Nat} {k : View → Gate} {go : View → Group} {s : State} {v : View} (hv : s.view = some v)
    (h : Opens (k v) v) : runLocal n k go s = .next (s.putGroup ((go v).advance v.c.cid n)) := by
  simp only [runLocal, hv, stop_open h]

theorem runMove_open {k : View → Gate} {go : View → Group} {s : State} {v : View} (hv : s.view = some v)
    (h : Opens (k v) v) : runMove k go s = .next (s.putGroup (go v)) := by
  simp only [runMove, hv, stop_open h]

/-- An open gate stops an instruction neither as it issues nor after. -/
theorem check_open {k : Gate} {v : View} (h : Opens k v) : k.check v = none := by
  have hdst : (k.dst.any fun d => v.isEmpty d.1 d.2) = false := by simpa using h.room
  simp only [Gate.check, Gate.again, stop_open h, hdst]
  split <;> rfl

/-- As an instruction issues all its checks are made. -/
theorem check_fresh {k : Gate} {v : View} (h : v.c.prog.begun = false) : k.check v = k.stop v := by
  simp only [Gate.check, h]; rfl

theorem runFull_open {trk : Nat} {k : State → View → Gate} {go : State → View → Except Stop State} {s t : State} {v : View}
    (hv : s.view = some v) (h : Opens (k s v) v) (hg : go s v = .ok t) : runFull trk k go s = .next t := by
  simp only [runFull, hv, check_open h, hg]

/-- An instruction that something stops waits where it stands or raises its fault, and does nothing else. -/
theorem runLocal_stops {n : Nat} {k : View → Gate} {go : View → Group} {s : State} {v : View} {st : Stop} (hv : s.view = some v)
    (h : (k v).stop v = some st) : runLocal n k go s = .next (s.halt v st 0) := by
  simp only [runLocal, hv, h]

theorem runMove_stops {k : View → Gate} {go : View → Group} {s : State} {v : View} {st : Stop} (hv : s.view = some v)
    (h : (k v).stop v = some st) : runMove k go s = .next (s.halt v st 0) := by
  simp only [runMove, hv, h]

theorem runFull_stops {trk : Nat} {k : State → View → Gate} {go : State → View → Except Stop State} {s : State} {v : View}
    {st : Stop} (hv : s.view = some v) (h : (k s v).check v = some st) : runFull trk k go s = .next (s.halt v st trk) := by
  simp only [runFull, hv, h]

/-- Everything `runLocal` can do. -/
theorem runLocal_cases {n : Nat} {k : View → Gate} {go : View → Group} {s t : State} (h : runLocal n k go s = .next t) :
    ∃ v, s.view = some v ∧ ((∃ st, (k v).stop v = some st ∧ t = s.halt v st 0) ∨
      ((k v).stop v = none ∧ t = s.putGroup ((go v).advance v.c.cid n))) := by
  unfold runLocal at h
  split at h
  · cases h
  · rename_i v hv
    refine ⟨v, hv, ?_⟩
    split at h
    · rename_i st hst; cases h; exact .inl ⟨st, hst, rfl⟩
    · rename_i hst; cases h; exact .inr ⟨hst, rfl⟩

/-- Everything `runMove` can do. -/
theorem runMove_cases {k : View → Gate} {go : View → Group} {s t : State} (h : runMove k go s = .next t) :
    ∃ v, s.view = some v ∧ ((∃ st, (k v).stop v = some st ∧ t = s.halt v st 0) ∨
      ((k v).stop v = none ∧ t = s.putGroup (go v))) := by
  unfold runMove at h
  split at h
  · cases h
  · rename_i v hv
    refine ⟨v, hv, ?_⟩
    split at h
    · rename_i st hst; cases h; exact .inl ⟨st, hst, rfl⟩
    · rename_i hst; cases h; exact .inr ⟨hst, rfl⟩

/-- Everything `runFull` can do. -/
theorem runFull_cases {trk : Nat} {k : State → View → Gate} {go : State → View → Except Stop State} {s t : State}
    (h : runFull trk k go s = .next t) :
    ∃ v, s.view = some v ∧ ((∃ st, (k s v).check v = some st ∧ t = s.halt v st trk) ∨
      (∃ st, (k s v).check v = none ∧ go s v = .error st ∧ t = s.halt v st trk) ∨
      ((k s v).check v = none ∧ go s v = .ok t)) := by
  unfold runFull at h
  split at h
  · cases h
  · rename_i v hv
    refine ⟨v, hv, ?_⟩
    split at h
    · rename_i st hst; cases h; exact .inl ⟨st, hst, rfl⟩
    · rename_i hst
      split at h
      · rename_i st hg; cases h; exact .inr (.inl ⟨st, hst, hg, rfl⟩)
      · rename_i u hg; cases h; exact .inr (.inr ⟨hst, hg⟩)

end Sys2Proof.Machine
end

