-- ==== Sys2Proof/Laws/Gates.lean ====
section
/-! SUPPORT. Laws/Gates.lean: the checks of each form of classes S and V hold when its operands may be used. -/

namespace Sys2Proof.Machine

theorem View.Pred.mask {v : View} {p : BitVec 2} (h : v.Pred p) : p.toNat = 0 ∨ (v.g.mreg p.toNat).bad = false :=
  h.imp (fun h => by simp [h]) id

section scalar

variable {v : View}

theorem opens_gateS2 {f : A3} (hs : v.Steady) (hh : v.Home) (hd : v.Dst f.d) (ha : v.Uni f.a) (hb : v.Uni f.b) :
    Opens (gateS2 f v) v := by
  obtain ⟨hd1, hd2, hd3⟩ := hd; obtain ⟨ha1, ha2, ha3, ha4⟩ := ha; obtain ⟨hb1, hb2, hb3, hb4⟩ := hb
  constructor <;> simp_all [gateS2, arg, View.Home, View.Steady]

theorem opens_gateS1 {d a : Code} {e : BitVec 1} (hs : v.Steady) (hh : v.Home) (hd : v.Dst d) (ha : v.Uni a) :
    Opens (gateS1 d a e v) v := by
  obtain ⟨hd1, hd2, hd3⟩ := hd; obtain ⟨ha1, ha2, ha3, ha4⟩ := ha
  constructor <;> simp_all [gateS1, arg, View.Home, View.Steady]

theorem opens_gateS3 {f : A4} (hs : v.Steady) (hh : v.Home) (hd : v.Dst f.d) (ha : v.Uni f.a) (hb : v.Uni f.b)
    (hc : v.Uni f.c) : Opens (gateS3 f v) v := by
  obtain ⟨hd1, hd2, hd3⟩ := hd; obtain ⟨ha1, ha2, ha3, ha4⟩ := ha; obtain ⟨hb1, hb2, hb3, hb4⟩ := hb
  obtain ⟨hc1, hc2, hc3, hc4⟩ := hc
  constructor <;> simp_all [gateS3, arg, View.Home, View.Steady]

theorem opens_gateAddsh {f : A4} (hs : v.Steady) (hh : v.Home) (hd : v.Dst f.d) (ha : v.Uni f.a) (hb : v.Uni f.b) :
    Opens (gateAddsh f v) v := by
  obtain ⟨hd1, hd2, hd3⟩ := hd; obtain ⟨ha1, ha2, ha3, ha4⟩ := ha; obtain ⟨hb1, hb2, hb3, hb4⟩ := hb
  constructor <;> simp_all [gateAddsh, arg, View.Home, View.Steady]

theorem opens_gateMask {f : A3} (hs : v.Steady) (hh : v.Home) (hd : mDst f.d = true) (ha : v.Uni f.a) (hb : v.Uni f.b) :
    Opens (gateMask f v) v := by
  obtain ⟨ha1, ha2, ha3, ha4⟩ := ha; obtain ⟨hb1, hb2, hb3, hb4⟩ := hb
  constructor <;> simp_all [gateMask, arg, View.Home, View.Steady]

theorem opens_gateBallot {f : A3} (hs : v.Steady) (hh : v.Home) (hd : mDst f.d = true) (ha : v.Src f.a) :
    Opens (gateBallot f v) v := by
  obtain ⟨ha1, ha2, ha3, ha4⟩ := ha
  constructor <;> simp_all [gateBallot, arg, View.Home, View.Steady]

theorem opens_gateMget {f : A3} (hs : v.Steady) (hh : v.Home) (hd : v.Dst f.d) (ha : isM f.a = true) (h : v.Holds f.a 1) :
    Opens (gateMget f v) v := by
  obtain ⟨hd1, hd2, hd3⟩ := hd; obtain ⟨ha2, ha3, ha4⟩ := h
  constructor <;> simp_all [gateMget, arg, View.Home, View.Steady]

theorem opens_gateMset {f : A3} (hs : v.Steady) (hh : v.Home) (hd : mDst f.d = true) (ha : isS f.a = true)
    (h : v.Holds f.a 1) : Opens (gateMset f v) v := by
  obtain ⟨ha2, ha3, ha4⟩ := h
  constructor <;> simp_all [gateMset, arg, View.Home, View.Steady]

theorem opens_gateLi {f : AL} (hs : v.Steady) (hh : v.Home) (hd : isS f.d = true) (h : v.isEmpty f.d 1 = false) :
    Opens (gateLi f v) v := by
  constructor <;> simp_all [gateLi, View.Home, View.Steady]

theorem opens_gateLih {f : AL} (hs : v.Steady) (hh : v.Home) (hd : isS f.d = true) (h : v.Holds f.d 1) :
    Opens (gateLih f v) v := by
  obtain ⟨ha2, ha3, ha4⟩ := h
  constructor <;> simp_all [gateLih, arg, View.Home, View.Steady]

theorem opens_gateNone {n : Nat} (hs : v.Steady) (hh : v.Home) : Opens (gateNone n v) v := by
  constructor <;> simp_all [gateNone, View.Home, View.Steady]

theorem opens_gateHelp (hs : v.Steady) : Opens (execBr.gateHelp 1 v) v := by
  constructor <;> simp_all [execBr.gateHelp, gateNone, View.Steady]

theorem opens_gateBrz {f : BR} (hs : v.Steady) (ha : v.Src f.a) : Opens (gateBrz f v) v := by
  obtain ⟨ha1, ha2, ha3, ha4⟩ := ha
  constructor <;> simp_all [gateBrz, arg, View.Steady]

theorem opens_gateFar {f : AL} (hs : v.Steady) (hh : v.Home) (h : f.imm.toNat % 4 = 0) : Opens (gateFar f v) v := by
  constructor <;> simp_all [gateFar, View.Home, View.Steady]

theorem opens_gateCall {f : BR} (hs : v.Steady) (hh : v.Home) (ha : v.VDst f.a)
    (h : ∀ i ∈ v.lanes, (v.g.thread i).depth ≠ 255) : Opens (gateCall f v) v := by
  obtain ⟨ha1, ha2, ha3⟩ := ha
  constructor <;> simp_all [gateCall, View.Home, View.Steady]

theorem opens_gateJmp {f : BR} {ret : Bool} (hs : v.Steady) (hh : v.Home) (hv : v.vDst f.a = true) (ha : v.Holds f.a 1)
    (h : ∀ i ∈ v.lanes, (v.r32 .word f.a i).toNat % 4 = 0)
    (hr : ret = true → ∀ i ∈ v.lanes, (v.g.thread i).depth ≠ 0) : Opens (gateJmp f ret v) v := by
  obtain ⟨ha2, ha3, ha4⟩ := ha
  cases ret <;> (constructor <;> simp_all [gateJmp, arg, View.Home, View.Steady])

theorem opens_gateSplit {f : SplitF} (hs : v.Steady) (hh : v.Home) (ha : v.Uni f.a)
    (h : ∀ i ∈ v.lanes, (v.g.thread i).stack.length < 8) : Opens (gateSplit f v) v := by
  obtain ⟨ha1, ha2, ha3, ha4⟩ := ha
  constructor <;> simp_all [gateSplit, arg, View.Home, View.Steady]

theorem opens_gateJoin {f : BR} (hs : v.Steady) (hh : v.Home)
    (h : ∀ i ∈ v.lanes, (v.g.thread i).meet = ⟨v.c.clause, (v.g.thread i).depth⟩) : Opens (gateJoin f v) v := by
  constructor <;> simp_all [gateJoin, View.Home, View.Steady]

end scalar

section vector

variable {v : View}

theorem opens_gateV2 {f : A3} (hs : v.Steady) (hd : v.VDst f.d) (ha : v.Src f.a) (hb : v.Src f.b) (hp : v.Pred f.p) :
    Opens (gateV2 f v) v := by
  have hp := hp.mask
  obtain ⟨hd1, hd2, hd3⟩ := hd; obtain ⟨ha1, ha2, ha3, ha4⟩ := ha; obtain ⟨hb1, hb2, hb3, hb4⟩ := hb
  constructor <;> simp_all [gateV2, arg, View.Steady]

/-- What a helper body may write it may also read (R40). -/
theorem foreign_of_readOnly {c : Code} {n : Nat} (h : v.readOnly c n = false) : v.foreign c n = false := by
  simp only [View.readOnly, Bool.or_eq_false_iff] at h; exact h.1

theorem opens_gateV2d {f : A3} (hs : v.Steady) (hd : v.VDst f.d) (ha : v.Src f.a) (hb : v.Src f.b) (hp : v.Pred f.p)
    (h : v.isBad f.d 1 = false) : Opens (gateV2d f v) v := by
  have hp := hp.mask
  obtain ⟨hd1, hd2, hd3⟩ := hd; obtain ⟨ha1, ha2, ha3, ha4⟩ := ha; obtain ⟨hb1, hb2, hb3, hb4⟩ := hb
  have hd4 := fun h => foreign_of_readOnly (hd3 h)
  constructor <;> simp_all [gateV2d, gateV2, arg, View.Steady]

theorem opens_gateV1 {f : A3} (hs : v.Steady) (hd : v.VDst f.d) (ha : v.Src f.a) (hp : v.Pred f.p) :
    Opens (gateV1 f v) v := by
  have hp := hp.mask
  obtain ⟨hd1, hd2, hd3⟩ := hd; obtain ⟨ha1, ha2, ha3, ha4⟩ := ha
  constructor <;> simp_all [gateV1, arg, View.Steady]

theorem opens_gateV4_1 {f : A4} {l : List (Bool × Nat)} (hs : v.Steady) (hd : v.VDst f.d) (ha : v.Src f.a) (hp : v.Pred f.p)
    (hl : ∀ p ∈ l, p.1 = true) : Opens (gateV4 f 1 l v) v := by
  have hp := hp.mask
  obtain ⟨hd1, hd2, hd3⟩ := hd; obtain ⟨ha1, ha2, ha3, ha4⟩ := ha
  constructor <;> simp_all [gateV4, arg, View.Steady]

theorem opens_gateV4_2 {f : A4} {l : List (Bool × Nat)} (hs : v.Steady) (hd : v.VDst f.d) (ha : v.Src f.a) (hb : v.Src f.b)
    (hp : v.Pred f.p) (hl : ∀ p ∈ l, p.1 = true) : Opens (gateV4 f 2 l v) v := by
  have hp := hp.mask
  obtain ⟨hd1, hd2, hd3⟩ := hd; obtain ⟨ha1, ha2, ha3, ha4⟩ := ha; obtain ⟨hb1, hb2, hb3, hb4⟩ := hb
  constructor <;> simp_all [gateV4, arg, View.Steady]

theorem opens_gateV4_3 {f : A4} {l : List (Bool × Nat)} (hs : v.Steady) (hd : v.VDst f.d) (ha : v.Src f.a) (hb : v.Src f.b)
    (hc : v.Src f.c) (hp : v.Pred f.p) (hl : ∀ p ∈ l, p.1 = true) : Opens (gateV4 f 3 l v) v := by
  have hp := hp.mask
  obtain ⟨hd1, hd2, hd3⟩ := hd; obtain ⟨ha1, ha2, ha3, ha4⟩ := ha; obtain ⟨hb1, hb2, hb3, hb4⟩ := hb
  obtain ⟨hc1, hc2, hc3, hc4⟩ := hc
  constructor <;> simp_all [gateV4, arg, View.Steady]

theorem opens_gateSel {f : A4} (hs : v.Steady) (hd : v.VDst f.d) (ha : v.Src f.a) (hb : v.Src f.b) (hm : isM f.c = true)
    (hc : v.Holds f.c 1) (hp : v.Pred f.p) : Opens (gateSel f v) v := by
  have hp := hp.mask
  obtain ⟨hd1, hd2, hd3⟩ := hd; obtain ⟨ha1, ha2, ha3, ha4⟩ := ha; obtain ⟨hb1, hb2, hb3, hb4⟩ := hb
  obtain ⟨hc2, hc3, hc4⟩ := hc
  constructor <;> simp_all [gateSel, gateV4, arg, View.Steady]

theorem opens_gateCmp {f : A3} (hs : v.Steady) (hd : mDst f.d = true) (ha : v.Src f.a) (hb : v.Src f.b) (hp : v.Pred f.p) :
    Opens (gateCmp f v) v := by
  have hp := hp.mask
  obtain ⟨ha1, ha2, ha3, ha4⟩ := ha; obtain ⟨hb1, hb2, hb3, hb4⟩ := hb
  constructor <;> simp_all [gateCmp, gateV2, arg, View.Steady]

theorem opens_gateV0 {d : Code} {p : BitVec 2} (hs : v.Steady) (hd : v.VDst d) (hp : v.Pred p) : Opens (gateV0 d p v) v := by
  have hp := hp.mask
  obtain ⟨hd1, hd2, hd3⟩ := hd
  constructor <;> simp_all [gateV0, View.Steady]

theorem opens_gateTagof {f : A3} (hs : v.Steady) (hd : v.VDst f.d) (ha : v.srcOk f.a = true)
    (hf : v.helping = true → v.foreign f.a 1 = false) (hp : v.Pred f.p) : Opens (gateTagof f v) v := by
  have hp := hp.mask
  obtain ⟨hd1, hd2, hd3⟩ := hd
  cases hv : v.helping <;> (constructor <;> simp_all [gateTagof, gateV1, View.Steady])

theorem opens_gateBcast {f : A3} (hs : v.Steady) (hh : v.Home) (hd : v.VDst f.d) (ha : v.Src f.a) (hb : v.Uni f.b)
    (hp : v.Pred f.p) : Opens (gateBcast f v) v := by
  have hp := hp.mask
  obtain ⟨hd1, hd2, hd3⟩ := hd; obtain ⟨ha1, ha2, ha3, ha4⟩ := ha; obtain ⟨hb1, hb2, hb3, hb4⟩ := hb
  constructor <;> simp_all [gateBcast, gateV2, arg, View.Steady, View.Home]

theorem opens_gateShuf {f : A3} (hs : v.Steady) (hh : v.Home) (hd : v.VDst f.d) (ha : v.Src f.a) (hb : v.Src f.b)
    (hp : v.Pred f.p) : Opens (gateShuf f v) v := by
  have hp := hp.mask
  obtain ⟨hd1, hd2, hd3⟩ := hd; obtain ⟨ha1, ha2, ha3, ha4⟩ := ha; obtain ⟨hb1, hb2, hb3, hb4⟩ := hb
  constructor <;> simp_all [gateShuf, gateV2, arg, View.Steady, View.Home]

theorem opens_gateRot {f : AI} (hs : v.Steady) (hh : v.Home) (hd : v.VDst f.d) (ha : v.Src f.a) : Opens (gateRot f v) v := by
  obtain ⟨hd1, hd2, hd3⟩ := hd; obtain ⟨ha1, ha2, ha3, ha4⟩ := ha
  constructor <;> simp_all [gateRot, arg, View.Steady, View.Home]

theorem opens_gatePack {f : A4} (hs : v.Steady) (hd : v.VDst f.d) (ha : v.Src f.a) (hb : v.Src f.b) (hp : v.Pred f.p)
    (h : v.isBad f.d 1 = false) (hl : 2 * tyBits f.ty.toNat * (f.imm.toNat % 8 + 1) ≤ 32) : Opens (gatePack f v) v := by
  have hp := hp.mask
  obtain ⟨hd1, hd2, hd3⟩ := hd; obtain ⟨ha1, ha2, ha3, ha4⟩ := ha; obtain ⟨hb1, hb2, hb3, hb4⟩ := hb
  have hd4 := fun h => foreign_of_readOnly (hd3 h)
  constructor <;> simp_all [gatePack, gateV4, arg, View.Steady]

theorem opens_gateRnd {f : A3} (hs : v.Steady) (hd : v.VDst f.d) (hk : isS f.a = true ∨ f.a = 0x70) (ha : v.Holds f.a 1)
    (hb : v.Src f.b) (hp : v.Pred f.p) : Opens (gateRnd f v) v := by
  have hp := hp.mask
  obtain ⟨hd1, hd2, hd3⟩ := hd; obtain ⟨ha2, ha3, ha4⟩ := ha; obtain ⟨hb1, hb2, hb3, hb4⟩ := hb
  constructor <;> simp_all [gateRnd, gateV2, arg, View.Steady]

theorem opens_gateRed {f : A4} (hs : v.Steady) (hh : v.Home) (hd : v.VDst f.d) (ha : v.Src f.a) (hp : v.Pred f.p) :
    Opens (gateRed f v) v := by
  have hp := hp.mask
  obtain ⟨hd1, hd2, hd3⟩ := hd; obtain ⟨ha1, ha2, ha3, ha4⟩ := ha
  constructor <;> simp_all [gateRed, gateV4, arg, View.Steady, View.Home]

theorem opens_gateWred {f : A4} (hs : v.Steady) (hd : v.VDst f.d) (ha : v.Block f.a (wN f.imm)) (hp : v.Pred f.p) :
    Opens (gateWred f false v) v := by
  have hp := hp.mask
  obtain ⟨hd1, hd2, hd3⟩ := hd; obtain ⟨ha1, ha2, ha3, ha4⟩ := ha
  constructor <;> simp_all [gateWred, View.Steady]

theorem opens_gateWclamp {f : A4} (hs : v.Steady) (hd : v.VDst f.d) (hn : wN f.imm = 1) (ha : v.Block f.a 1) (hb : v.Src f.b)
    (hc : v.Src f.c) (hp : v.Pred f.p) : Opens (gateWred f true v) v := by
  have hp := hp.mask
  obtain ⟨hd1, hd2, hd3⟩ := hd; obtain ⟨ha1, ha2, ha3, ha4⟩ := ha; obtain ⟨hb1, hb2, hb3, hb4⟩ := hb
  obtain ⟨hc1, hc2, hc3, hc4⟩ := hc
  constructor <;> simp_all [gateWred, arg, View.Steady]

theorem opens_gateAdj {f : A4} (hs : v.Steady) (hd : v.vBlock f.d (wN f.imm) = true) (hf : v.Free f.d (wN f.imm)) (ha : v.Src f.a)
    (hp : v.Pred f.p) (hw : (v.g.witness (wReg f.imm)).bad = false) (hl : (v.g.witness (wReg f.imm)).st = .live)
    (ht : (v.g.witness (wReg f.imm)).stamp = wStamp f.imm) (hn : (v.g.witness (wReg f.imm)).nm1 + 1 = wN f.imm)
    (hb : wAcc f.imm = true → v.isBad f.d (wN f.imm) = false) : Opens (gateAdj f v) v := by
  have hp := hp.mask
  obtain ⟨hf1, hf2⟩ := hf; obtain ⟨ha1, ha2, ha3, ha4⟩ := ha
  have hf4 := fun h => foreign_of_readOnly (hf2 h)
  cases hacc : wAcc f.imm <;> (constructor <;> simp_all [gateAdj, wLive, arg, View.Steady])

end vector

/-- An instruction of one of the three shapes whose checks hold takes its effect. -/
theorem does_local {i : Instr} {n : Nat} {k : View → Gate} {go : View → Group} {s : State} {v : View} {g : Group}
    (hi : exec i s = runLocal n k go s) (hv : s.view = some v) (ho : Opens (k v) v) (hg : go v = g) : Does s v i n g := by
  subst hg; rw [Does, hi]; exact runLocal_open hv ho
theorem goes_move {i : Instr} {k : View → Gate} {go : View → Group} {s : State} {v : View} {g : Group}
    (hi : exec i s = runMove k go s) (hv : s.view = some v) (ho : Opens (k v) v) (hg : go v = g) : Goes s i g := by
  subst hg; rw [Goes, hi]; exact runMove_open hv ho
theorem does_S2 {f : A3} {s : State} {v : View} {i : Instr} {op : W64 → W64 → W64} {x : W64} (hi : exec i s = sBin f op s)
    (hv : s.view = some v) (hs : v.Steady) (hh : v.Home) (hd : v.Dst f.d) (ha : v.Uni f.a) (hb : v.Uni f.b)
    (hx : op (v.uni f.a) (v.uni f.b) = x) : Does s v i 1 (v.writeD v.g f.d x) :=
  does_local hi hv (opens_gateS2 hs hh hd ha hb) (congrArg _ hx)
theorem does_S1 {f : A3} {s : State} {v : View} {i : Instr} {op : W64 → W64} {x : W64} (hi : exec i s = sUn f op s)
    (hv : s.view = some v) (hs : v.Steady) (hh : v.Home) (hd : v.Dst f.d) (ha : v.Uni f.a)
    (hx : op (v.uni f.a) = x) : Does s v i 1 (v.writeD v.g f.d x) :=
  does_local hi hv (opens_gateS1 hs hh hd ha) (congrArg _ hx)
theorem does_SI {f : AI} {s : State} {v : View} {i : Instr} {op : W64 → W64 → W64} {x : W64} (hi : exec i s = sImm f op s)
    (hv : s.view = some v) (hs : v.Steady) (hh : v.Home) (hd : v.Dst f.d) (ha : v.Uni f.a)
    (hx : op (v.uni f.a) (f.imm.signExtend 64) = x) : Does s v i 1 (v.writeD v.g f.d x) :=
  does_local hi hv (opens_gateS1 hs hh hd ha) (congrArg _ hx)
theorem does_V2 {f : A3} {s : State} {v : View} {i : Instr} {tag : Tag → Tag → Tag} {op x : W32 → W32 → W32}
    (hi : exec i s = vBin f tag op s) (hv : s.view = some v) (hs : v.Steady) (hd : v.VDst f.d) (ha : v.Src f.a)
    (hb : v.Src f.b) (hp : v.Pred f.p) (hx : ∀ a b, op a b = x a b) : Does s v i 1 (v.writeV v.g (regNo f.d) (v.sel f.p)
      (fun l => x (v.r32 .word f.a l) (v.r32 .word f.b l)) (tag (v.tag f.a) (v.tag f.b))) :=
  does_local hi hv (opens_gateV2 hs hd ha hb hp) (by simp only [hx])
theorem does_V1 {f : A3} {s : State} {v : View} {i : Instr} {tag : Tag → Tag} {op x : W32 → W32}
    (hi : exec i s = vUn f tag op s) (hv : s.view = some v) (hs : v.Steady) (hd : v.VDst f.d) (ha : v.Src f.a)
    (hp : v.Pred f.p) (hx : ∀ a, op a = x a) : Does s v i 1 (v.writeV v.g (regNo f.d) (v.sel f.p)
      (fun l => x (v.r32 .word f.a l)) (tag (v.tag f.a))) :=
  does_local hi hv (opens_gateV1 hs hd ha hp) (by simp only [hx])

end Sys2Proof.Machine
end

