-- ==== Sys2Proof/Laws/Memory.lean ====
section
/-! SUPPORT. Laws/Memory.lean: the canonical form of cell lists is kept by every memory operation; reading after writing. -/

namespace Sys2Proof.Machine

theorem wf_nil : Memory.wf [] = true := rfl

theorem wf_cons {k : Nat} {b : Byte} {l : List Host.Cell} :
    Memory.wf ((k, b) :: l) = true ↔ b ≠ 0 ∧ (∀ p ∈ l, k < p.1) ∧ Memory.wf l = true := by
  simp [Memory.wf, and_assoc, List.all_eq_true]

/-- What a filter leaves of a canonical list is canonical. -/
theorem wf_filter (f : Host.Cell → Bool) {l : List Host.Cell} (h : Memory.wf l = true) : Memory.wf (l.filter f) = true := by
  induction l with
  | nil => rfl
  | cons p l ih =>
    obtain ⟨k, b⟩ := p
    obtain ⟨hb, hk, hl⟩ := wf_cons.1 h
    rw [List.filter_cons]
    split
    · exact wf_cons.2 ⟨hb, fun q hq => hk q (List.mem_filter.1 hq).1, ih hl⟩
    · exact ih hl

theorem wf_cellDrop {l : List Host.Cell} (lo hi : Nat) (h : Memory.wf l = true) : Memory.wf (cellDrop l lo hi) = true :=
  wf_filter _ h

theorem wf_cellsIn {l : List Host.Cell} (lo hi : Nat) (h : Memory.wf l = true) : Memory.wf (cellsIn l lo hi) = true :=
  wf_filter _ h

/-- The cells a write may leave: the one written, and those there were. -/
theorem mem_cellPut {l : List Host.Cell} {k : Nat} {b : Byte} {p : Host.Cell} (h : p ∈ cellPut l k b) : p.1 = k ∨ p ∈ l := by
  induction l with
  | nil =>
    unfold cellPut at h
    split at h
    · cases h
    · rw [List.mem_singleton] at h; exact .inl (by rw [h])
  | cons q l ih =>
    obtain ⟨k', b'⟩ := q
    unfold cellPut at h
    split at h
    · split at h
      · exact .inr h
      · rcases List.mem_cons.1 h with h | h
        · exact .inl (by rw [h])
        · exact .inr h
    · split at h
      · split at h
        · exact .inr (List.mem_cons_of_mem _ h)
        · rcases List.mem_cons.1 h with h | h
          · exact .inl (by rw [h])
          · exact .inr (List.mem_cons_of_mem _ h)
      · rcases List.mem_cons.1 h with h | h
        · exact .inr (by rw [h]; exact List.mem_cons_self ..)
        · rcases ih h with h | h
          · exact .inl h
          · exact .inr (List.mem_cons_of_mem _ h)

theorem wf_cellPut {l : List Host.Cell} (k : Nat) (b : Byte) (h : Memory.wf l = true) : Memory.wf (cellPut l k b) = true := by
  induction l with
  | nil =>
    unfold cellPut
    split
    · rfl
    · exact wf_cons.2 ⟨‹_›, fun _ hp => (List.not_mem_nil hp).elim, rfl⟩
  | cons q l ih =>
    obtain ⟨k', b'⟩ := q
    obtain ⟨hb, hk, hl⟩ := wf_cons.1 h
    unfold cellPut
    split
    · split
      · exact h
      · refine wf_cons.2 ⟨‹_›, fun p hp => ?_, h⟩
        rcases List.mem_cons.1 hp with hp | hp
        · rw [hp]; assumption
        · exact Nat.lt_trans ‹_› (hk p hp)
    · split
      · split
        · exact hl
        · refine wf_cons.2 ⟨‹_›, fun p hp => ?_, hl⟩
          have := hk p hp; omega
      · refine wf_cons.2 ⟨hb, fun p hp => ?_, ih hl⟩
        rcases mem_cellPut hp with hp | hp
        · omega
        · exact hk p hp

theorem wf_cellsWrite (n : Nat) : ∀ (l : List Host.Cell) (a v : Nat), Memory.wf l = true → Memory.wf (cellsWrite l a n v) = true := by
  induction n with
  | zero => intro l a v h; exact h
  | succ n ih => intro l a v h; exact ih _ _ _ (wf_cellPut _ _ h)

/-- An address below every entry reads 0. -/
theorem cellGet_below {l : List Host.Cell} {k : Nat} (h : ∀ p ∈ l, k < p.1) : cellGet l k = 0 := by
  cases l with
  | nil => rfl
  | cons p l =>
    obtain ⟨k', b⟩ := p
    have h' : k < k' := h (k', b) (List.mem_cons_self ..)
    simp only [cellGet]
    rw [if_neg (by omega), if_pos h']

/-- Reading after a write of one byte. -/
theorem cellGet_cellPut {l : List Host.Cell} (h : Memory.wf l = true) (k : Nat) (b : Byte) (j : Nat) :
    cellGet (cellPut l k b) j = if j = k then b else cellGet l j := by
  induction l with
  | nil =>
    simp only [cellPut]
    by_cases hb : b = 0
    · rw [if_pos hb]
      by_cases hj : j = k
      · rw [if_pos hj, hb]; rfl
      · rw [if_neg hj]
    · rw [if_neg hb]
      simp only [cellGet]
      by_cases hj : j = k
      · rw [if_pos hj, if_pos hj.symm]
      · rw [if_neg hj, if_neg (by omega), ite_self]
  | cons q l ih =>
    obtain ⟨k', b'⟩ := q
    obtain ⟨hb', hk, hl⟩ := wf_cons.1 h
    have below : ∀ i, i ≤ k' → i ≠ k' → cellGet l i = 0 := fun i hi hn =>
      cellGet_below fun p hp => by have := hk p hp; omega
    have here : cellGet l k' = 0 := cellGet_below hk
    simp only [cellPut]
    split
    · by_cases hb : b = 0
      · rw [if_pos hb]
        by_cases hj : j = k
        · rw [if_pos hj, hj, hb]; simp only [cellGet]; rw [if_neg (by omega), if_pos ‹_›]
        · rw [if_neg hj]
      · rw [if_neg hb]
        simp only [cellGet]
        by_cases hj : j = k
        · rw [if_pos hj, if_pos hj.symm]
        · rw [if_neg hj, if_neg (by omega)]
          by_cases hlt : j < k
          · rw [if_pos hlt, if_neg (by omega), if_pos (by omega)]
          · rw [if_neg hlt]
    · split
      · rename_i _ he
        subst he
        by_cases hb : b = 0
        · rw [if_pos hb]
          by_cases hj : j = k
          · rw [if_pos hj, hj, hb, here]
          · rw [if_neg hj]
            simp only [cellGet]
            rw [if_neg (by omega)]
            by_cases hlt : j < k
            · rw [if_pos hlt]; exact below j (by omega) (by omega)
            · rw [if_neg hlt]
        · rw [if_neg hb]
          simp only [cellGet]
          by_cases hj : j = k
          · rw [if_pos hj, if_pos hj.symm]
          · rw [if_neg hj, if_neg (by omega), if_neg (Ne.symm hj)]
      · simp only [cellGet]
        rw [ih hl]
        by_cases hj : j = k
        · rw [if_pos hj, if_pos hj, if_neg (by omega), if_neg (by omega)]
        · rw [if_neg hj, if_neg hj]

/-- Reading one byte after a write of `n`: byte `j − a` of the number written, or what was there. -/
theorem cellGet_cellsWrite (n : Nat) : ∀ (l : List Host.Cell) (a v j : Nat), Memory.wf l = true →
    cellGet (cellsWrite l a n v) j =
      if a ≤ j ∧ j < a + n then BitVec.ofNat 8 (v / 256 ^ (j - a)) else cellGet l j := by
  induction n with
  | zero => intro l a v j _; simp only [cellsWrite]; rw [if_neg (by omega)]
  | succ n ih =>
    intro l a v j h
    simp only [cellsWrite]
    rw [ih _ _ _ _ (wf_cellPut _ _ h), cellGet_cellPut h]
    by_cases hj : j = a
    · subst hj
      rw [if_neg (by omega), if_pos rfl, if_pos (by omega), Nat.sub_self, Nat.pow_zero, Nat.div_one]
    · by_cases hin : a + 1 ≤ j ∧ j < a + 1 + n
      · rw [if_pos hin, if_pos (by omega), Nat.div_div_eq_div_mul]
        congr 2
        rw [show j - a = (j - (a + 1)) + 1 by omega, Nat.pow_succ, Nat.mul_comm]
      · rw [if_neg hin, if_neg hj, if_neg (by omega)]

/-- A write leaves every other address as it was. -/
theorem cellGet_cellsWrite_other {l : List Host.Cell} (h : Memory.wf l = true) {a n v j : Nat} (hj : j < a ∨ a + n ≤ j) :
    cellGet (cellsWrite l a n v) j = cellGet l j := by
  rw [cellGet_cellsWrite n l a v j h, if_neg (by omega)]

/-- Reading what was written. -/
theorem cellsRead_cellsWrite (n : Nat) : ∀ (l : List Host.Cell) (a v : Nat), Memory.wf l = true →
    cellsRead (cellsWrite l a n v) a n = v % 256 ^ n := by
  have key : ∀ (n m : Nat) (l : List Host.Cell) (a v i : Nat), Memory.wf l = true → i + m = n →
      cellsRead (cellsWrite l a n v) (a + i) m = v / 256 ^ i % 256 ^ m := by
    intro n m
    induction m with
    | zero => intro l a v i _ _; simp [cellsRead, Nat.mod_one]
    | succ m ih =>
      intro l a v i h hi
      simp only [cellsRead]
      rw [cellGet_cellsWrite n l a v (a + i) h, if_pos (by omega), Nat.add_assoc, ih l a v (i + 1) h (by omega)]
      rw [show a + i - a = i by omega, BitVec.toNat_ofNat, Nat.pow_succ 256 i, ← Nat.div_div_eq_div_mul,
        Nat.pow_succ 256 m, Nat.mul_comm (256 ^ m) 256, Nat.mod_mul]
  intro l a v h
  have := key n n l a v 0 h (by omega)
  simpa using this

/-- A wide read does not see a write elsewhere. -/
theorem cellsRead_cellsWrite_other (m : Nat) : ∀ {l : List Host.Cell} {a n v b : Nat}, Memory.wf l = true →
    (b + m ≤ a ∨ a + n ≤ b) → cellsRead (cellsWrite l a n v) b m = cellsRead l b m := by
  induction m with
  | zero => intros; rfl
  | succ m ih =>
    intro l a n v b h hb
    simp only [cellsRead]
    rw [cellGet_cellsWrite_other h (by omega), ih h (by omega)]

/-! ## The machine's memory -/

theorem wf_store {s : State} (asid va n v : Nat) (h : Memory.wf s.mem = true) : Memory.wf (s.store asid va n v).mem = true :=
  wf_cellsWrite _ _ _ _ h

theorem wf_zeroBlock {s : State} (asid block : Nat) (h : Memory.wf s.mem = true) :
    Memory.wf (s.zeroBlock asid block).mem = true := wf_cellDrop _ _ h

theorem wf_fillBlock {s : State} (asid block pat : Nat) (h : Memory.wf s.mem = true) :
    Memory.wf (s.fillBlock asid block pat).mem = true := by
  have key : ∀ (l : List Nat) (s : State), Memory.wf s.mem = true →
      Memory.wf (l.foldl (fun (s : State) i => s.store asid (block * lineBytes + 4 * i) 4 pat) s).mem = true := by
    intro l
    induction l with
    | nil => intro s h; exact h
    | cons i l ih => intro s h; exact ih _ (wf_store _ _ _ _ h)
  exact key _ _ (wf_zeroBlock _ _ h)

/-- The machine right after reset holds canonical memories. -/
theorem wf_reset : Memory.wf State.reset.mem = true ∧ Memory.wf State.reset.hostMem = true := ⟨rfl, rfl⟩

end Sys2Proof.Machine
end

