-- ==== Sys2Proof/Laws/PerInstr.lean ====
section
/-! SUPPORT. Laws/PerInstr.lean: for every instruction, its opcode and the words of its fields read back as the instruction,
and its format has the number of words its opcode says. -/

namespace Sys2Proof.Laws

/-- R73 to R78: from the words of `i` its class's opcode table reads `i` back, and finds its length from class and opcode. -/
def Encodes.Statement (i : Instr) : Prop :=
  match encode i with
  | none => True
  | some (c, w0, w1) => build c (opOf w0) w0 (w1.getD 0) = some i ∧ twoWords c (opOf w0) = w1.isSome

theorem Encodes.intro {i : Instr} {c : Cls} {w0 : W32} {w1 : Option W32} {n : Nat} (he : encode i = some (c, w0, w1))
    (hn : opOf w0 = n) (hb : build c n w0 (w1.getD 0) = some i) (ht : twoWords c n = w1.isSome) : Encodes.Statement i := by
  subst hn; simp only [Encodes.Statement, he]; exact ⟨hb, ht⟩

theorem Encodes.sAdd (f : A3) : Encodes.Statement (.sAdd f) :=
  Encodes.intro (c := .s) (n := 0x00) (w1 := none) (by rfl) (A3.opOf_word 0x00 f) (congrArg (fun g => some (Instr.sAdd g)) (A3.ofWord_word 0x00 f)) rfl

theorem Encodes.sSub (f : A3) : Encodes.Statement (.sSub f) :=
  Encodes.intro (c := .s) (n := 0x01) (w1 := none) (by rfl) (A3.opOf_word 0x01 f) (congrArg (fun g => some (Instr.sSub g)) (A3.ofWord_word 0x01 f)) rfl

theorem Encodes.sMul (f : A3) : Encodes.Statement (.sMul f) :=
  Encodes.intro (c := .s) (n := 0x02) (w1 := none) (by rfl) (A3.opOf_word 0x02 f) (congrArg (fun g => some (Instr.sMul g)) (A3.ofWord_word 0x02 f)) rfl

theorem Encodes.sMulhI (f : A3) : Encodes.Statement (.sMulhI f) :=
  Encodes.intro (c := .s) (n := 0x03) (w1 := none) (by rfl) (A3.opOf_word 0x03 f) (congrArg (fun g => some (Instr.sMulhI g)) (A3.ofWord_word 0x03 f)) rfl

theorem Encodes.sMulhN (f : A3) : Encodes.Statement (.sMulhN f) :=
  Encodes.intro (c := .s) (n := 0x04) (w1 := none) (by rfl) (A3.opOf_word 0x04 f) (congrArg (fun g => some (Instr.sMulhN g)) (A3.ofWord_word 0x04 f)) rfl

theorem Encodes.sDivI (f : A3) : Encodes.Statement (.sDivI f) :=
  Encodes.intro (c := .s) (n := 0x05) (w1 := none) (by rfl) (A3.opOf_word 0x05 f) (congrArg (fun g => some (Instr.sDivI g)) (A3.ofWord_word 0x05 f)) rfl

theorem Encodes.sDivN (f : A3) : Encodes.Statement (.sDivN f) :=
  Encodes.intro (c := .s) (n := 0x06) (w1 := none) (by rfl) (A3.opOf_word 0x06 f) (congrArg (fun g => some (Instr.sDivN g)) (A3.ofWord_word 0x06 f)) rfl

theorem Encodes.sAnd (f : A3) : Encodes.Statement (.sAnd f) :=
  Encodes.intro (c := .s) (n := 0x07) (w1 := none) (by rfl) (A3.opOf_word 0x07 f) (congrArg (fun g => some (Instr.sAnd g)) (A3.ofWord_word 0x07 f)) rfl

theorem Encodes.sOr (f : A3) : Encodes.Statement (.sOr f) :=
  Encodes.intro (c := .s) (n := 0x08) (w1 := none) (by rfl) (A3.opOf_word 0x08 f) (congrArg (fun g => some (Instr.sOr g)) (A3.ofWord_word 0x08 f)) rfl

theorem Encodes.sXor (f : A3) : Encodes.Statement (.sXor f) :=
  Encodes.intro (c := .s) (n := 0x09) (w1 := none) (by rfl) (A3.opOf_word 0x09 f) (congrArg (fun g => some (Instr.sXor g)) (A3.ofWord_word 0x09 f)) rfl

theorem Encodes.sShl (f : A3) : Encodes.Statement (.sShl f) :=
  Encodes.intro (c := .s) (n := 0x0A) (w1 := none) (by rfl) (A3.opOf_word 0x0A f) (congrArg (fun g => some (Instr.sShl g)) (A3.ofWord_word 0x0A f)) rfl

theorem Encodes.sShrN (f : A3) : Encodes.Statement (.sShrN f) :=
  Encodes.intro (c := .s) (n := 0x0B) (w1 := none) (by rfl) (A3.opOf_word 0x0B f) (congrArg (fun g => some (Instr.sShrN g)) (A3.ofWord_word 0x0B f)) rfl

theorem Encodes.sShrI (f : A3) : Encodes.Statement (.sShrI f) :=
  Encodes.intro (c := .s) (n := 0x0C) (w1 := none) (by rfl) (A3.opOf_word 0x0C f) (congrArg (fun g => some (Instr.sShrI g)) (A3.ofWord_word 0x0C f)) rfl

theorem Encodes.sMinI (f : A3) : Encodes.Statement (.sMinI f) :=
  Encodes.intro (c := .s) (n := 0x0D) (w1 := none) (by rfl) (A3.opOf_word 0x0D f) (congrArg (fun g => some (Instr.sMinI g)) (A3.ofWord_word 0x0D f)) rfl

theorem Encodes.sMaxI (f : A3) : Encodes.Statement (.sMaxI f) :=
  Encodes.intro (c := .s) (n := 0x0E) (w1 := none) (by rfl) (A3.opOf_word 0x0E f) (congrArg (fun g => some (Instr.sMaxI g)) (A3.ofWord_word 0x0E f)) rfl

theorem Encodes.sMinN (f : A3) : Encodes.Statement (.sMinN f) :=
  Encodes.intro (c := .s) (n := 0x0F) (w1 := none) (by rfl) (A3.opOf_word 0x0F f) (congrArg (fun g => some (Instr.sMinN g)) (A3.ofWord_word 0x0F f)) rfl

theorem Encodes.sMaxN (f : A3) : Encodes.Statement (.sMaxN f) :=
  Encodes.intro (c := .s) (n := 0x10) (w1 := none) (by rfl) (A3.opOf_word 0x10 f) (congrArg (fun g => some (Instr.sMaxN g)) (A3.ofWord_word 0x10 f)) rfl

theorem Encodes.sSeq (f : A3) : Encodes.Statement (.sSeq f) :=
  Encodes.intro (c := .s) (n := 0x11) (w1 := none) (by rfl) (A3.opOf_word 0x11 f) (congrArg (fun g => some (Instr.sSeq g)) (A3.ofWord_word 0x11 f)) rfl

theorem Encodes.sSne (f : A3) : Encodes.Statement (.sSne f) :=
  Encodes.intro (c := .s) (n := 0x12) (w1 := none) (by rfl) (A3.opOf_word 0x12 f) (congrArg (fun g => some (Instr.sSne g)) (A3.ofWord_word 0x12 f)) rfl

theorem Encodes.sSltI (f : A3) : Encodes.Statement (.sSltI f) :=
  Encodes.intro (c := .s) (n := 0x13) (w1 := none) (by rfl) (A3.opOf_word 0x13 f) (congrArg (fun g => some (Instr.sSltI g)) (A3.ofWord_word 0x13 f)) rfl

theorem Encodes.sSltN (f : A3) : Encodes.Statement (.sSltN f) :=
  Encodes.intro (c := .s) (n := 0x14) (w1 := none) (by rfl) (A3.opOf_word 0x14 f) (congrArg (fun g => some (Instr.sSltN g)) (A3.ofWord_word 0x14 f)) rfl

theorem Encodes.sSleI (f : A3) : Encodes.Statement (.sSleI f) :=
  Encodes.intro (c := .s) (n := 0x15) (w1 := none) (by rfl) (A3.opOf_word 0x15 f) (congrArg (fun g => some (Instr.sSleI g)) (A3.ofWord_word 0x15 f)) rfl

theorem Encodes.sSleN (f : A3) : Encodes.Statement (.sSleN f) :=
  Encodes.intro (c := .s) (n := 0x16) (w1 := none) (by rfl) (A3.opOf_word 0x16 f) (congrArg (fun g => some (Instr.sSleN g)) (A3.ofWord_word 0x16 f)) rfl

theorem Encodes.sClz (f : A3) : Encodes.Statement (.sClz f) :=
  Encodes.intro (c := .s) (n := 0x17) (w1 := none) (by rfl) (A3.opOf_word 0x17 f) (congrArg (fun g => some (Instr.sClz g)) (A3.ofWord_word 0x17 f)) rfl

theorem Encodes.sPopc (f : A3) : Encodes.Statement (.sPopc f) :=
  Encodes.intro (c := .s) (n := 0x18) (w1 := none) (by rfl) (A3.opOf_word 0x18 f) (congrArg (fun g => some (Instr.sPopc g)) (A3.ofWord_word 0x18 f)) rfl

theorem Encodes.sMov (f : A3) : Encodes.Statement (.sMov f) :=
  Encodes.intro (c := .s) (n := 0x19) (w1 := none) (by rfl) (A3.opOf_word 0x19 f) (congrArg (fun g => some (Instr.sMov g)) (A3.ofWord_word 0x19 f)) rfl

theorem Encodes.sRdlane (f : A3) : Encodes.Statement (.sRdlane f) :=
  Encodes.intro (c := .s) (n := 0x1A) (w1 := none) (by rfl) (A3.opOf_word 0x1A f) (congrArg (fun g => some (Instr.sRdlane g)) (A3.ofWord_word 0x1A f)) rfl

theorem Encodes.sSel (f : A4) : Encodes.Statement (.sSel f) :=
  Encodes.intro (c := .s) (n := 0x1B) (w1 := some (A4.word1 f)) (by rfl) (A4.opOf_word 0x1B f) (congrArg (fun g => some (Instr.sSel g)) (A4.ofWords_word 0x1B f)) rfl

theorem Encodes.sAddsh (f : A4) : Encodes.Statement (.sAddsh f) :=
  Encodes.intro (c := .s) (n := 0x1C) (w1 := some (A4.word1 f)) (by rfl) (A4.opOf_word 0x1C f) (congrArg (fun g => some (Instr.sAddsh g)) (A4.ofWords_word 0x1C f)) rfl

theorem Encodes.sBfx (f : A4) : Encodes.Statement (.sBfx f) :=
  Encodes.intro (c := .s) (n := 0x1D) (w1 := some (A4.word1 f)) (by rfl) (A4.opOf_word 0x1D f) (congrArg (fun g => some (Instr.sBfx g)) (A4.ofWords_word 0x1D f)) rfl

theorem Encodes.sAddi (f : AI) : Encodes.Statement (.sAddi f) :=
  Encodes.intro (c := .s) (n := 0x20) (w1 := none) (by rfl) (AI.opOf_word 0x20 f) (congrArg (fun g => some (Instr.sAddi g)) (AI.ofWord_word 0x20 f)) rfl

theorem Encodes.sAndi (f : AI) : Encodes.Statement (.sAndi f) :=
  Encodes.intro (c := .s) (n := 0x21) (w1 := none) (by rfl) (AI.opOf_word 0x21 f) (congrArg (fun g => some (Instr.sAndi g)) (AI.ofWord_word 0x21 f)) rfl

theorem Encodes.sOri (f : AI) : Encodes.Statement (.sOri f) :=
  Encodes.intro (c := .s) (n := 0x22) (w1 := none) (by rfl) (AI.opOf_word 0x22 f) (congrArg (fun g => some (Instr.sOri g)) (AI.ofWord_word 0x22 f)) rfl

theorem Encodes.sXori (f : AI) : Encodes.Statement (.sXori f) :=
  Encodes.intro (c := .s) (n := 0x23) (w1 := none) (by rfl) (AI.opOf_word 0x23 f) (congrArg (fun g => some (Instr.sXori g)) (AI.ofWord_word 0x23 f)) rfl

theorem Encodes.sShli (f : AI) : Encodes.Statement (.sShli f) :=
  Encodes.intro (c := .s) (n := 0x24) (w1 := none) (by rfl) (AI.opOf_word 0x24 f) (congrArg (fun g => some (Instr.sShli g)) (AI.ofWord_word 0x24 f)) rfl

theorem Encodes.sShriN (f : AI) : Encodes.Statement (.sShriN f) :=
  Encodes.intro (c := .s) (n := 0x25) (w1 := none) (by rfl) (AI.opOf_word 0x25 f) (congrArg (fun g => some (Instr.sShriN g)) (AI.ofWord_word 0x25 f)) rfl

theorem Encodes.sShriI (f : AI) : Encodes.Statement (.sShriI f) :=
  Encodes.intro (c := .s) (n := 0x26) (w1 := none) (by rfl) (AI.opOf_word 0x26 f) (congrArg (fun g => some (Instr.sShriI g)) (AI.ofWord_word 0x26 f)) rfl

theorem Encodes.sLi (f : AL) : Encodes.Statement (.sLi f) :=
  Encodes.intro (c := .s) (n := 0x27) (w1 := some (AL.word1 f)) (by rfl) (AL.opOf_word 0x27 f) (congrArg (fun g => some (Instr.sLi g)) (AL.ofWords_word 0x27 f)) rfl

theorem Encodes.sLih (f : AL) : Encodes.Statement (.sLih f) :=
  Encodes.intro (c := .s) (n := 0x28) (w1 := some (AL.word1 f)) (by rfl) (AL.opOf_word 0x28 f) (congrArg (fun g => some (Instr.sLih g)) (AL.ofWords_word 0x28 f)) rfl

theorem Encodes.br (f : BR) : Encodes.Statement (.br f) :=
  Encodes.intro (c := .s) (n := 0x40) (w1 := none) (by rfl) (BR.opOf_word 0x40 f) (congrArg (fun g => some (Instr.br g)) (BR.ofWord_word 0x40 f)) rfl

theorem Encodes.brZ (f : BR) : Encodes.Statement (.brZ f) :=
  Encodes.intro (c := .s) (n := 0x41) (w1 := none) (by rfl) (BR.opOf_word 0x41 f) (congrArg (fun g => some (Instr.brZ g)) (BR.ofWord_word 0x41 f)) rfl

theorem Encodes.brNz (f : BR) : Encodes.Statement (.brNz f) :=
  Encodes.intro (c := .s) (n := 0x42) (w1 := none) (by rfl) (BR.opOf_word 0x42 f) (congrArg (fun g => some (Instr.brNz g)) (BR.ofWord_word 0x42 f)) rfl

theorem Encodes.brFar (f : AL) : Encodes.Statement (.brFar f) :=
  Encodes.intro (c := .s) (n := 0x43) (w1 := some (AL.word1 f)) (by rfl) (AL.opOf_word 0x43 f) (congrArg (fun g => some (Instr.brFar g)) (AL.ofWords_word 0x43 f)) rfl

theorem Encodes.call (f : BR) : Encodes.Statement (.call f) :=
  Encodes.intro (c := .s) (n := 0x44) (w1 := none) (by rfl) (BR.opOf_word 0x44 f) (congrArg (fun g => some (Instr.call g)) (BR.ofWord_word 0x44 f)) rfl

theorem Encodes.ret (f : BR) : Encodes.Statement (.ret f) :=
  Encodes.intro (c := .s) (n := 0x45) (w1 := none) (by rfl) (BR.opOf_word 0x45 f) (congrArg (fun g => some (Instr.ret g)) (BR.ofWord_word 0x45 f)) rfl

theorem Encodes.jmpV (f : BR) : Encodes.Statement (.jmpV f) :=
  Encodes.intro (c := .s) (n := 0x46) (w1 := none) (by rfl) (BR.opOf_word 0x46 f) (congrArg (fun g => some (Instr.jmpV g)) (BR.ofWord_word 0x46 f)) rfl

theorem Encodes.split (f : SplitF) : Encodes.Statement (.split f) :=
  Encodes.intro (c := .s) (n := 0x48) (w1 := some (SplitF.word1 f)) (by rfl) (SplitF.opOf_word 0x48 f) (congrArg (fun g => some (Instr.split g)) (SplitF.ofWords_word 0x48 f)) rfl

theorem Encodes.meet (f : BR) : Encodes.Statement (.meet f) :=
  Encodes.intro (c := .s) (n := 0x49) (w1 := none) (by rfl) (BR.opOf_word 0x49 f) (congrArg (fun g => some (Instr.meet g)) (BR.ofWord_word 0x49 f)) rfl

theorem Encodes.join (f : BR) : Encodes.Statement (.join f) :=
  Encodes.intro (c := .s) (n := 0x4A) (w1 := none) (by rfl) (BR.opOf_word 0x4A f) (congrArg (fun g => some (Instr.join g)) (BR.ofWord_word 0x4A f)) rfl

theorem Encodes.exit (f : BR) : Encodes.Statement (.exit f) :=
  Encodes.intro (c := .s) (n := 0x4B) (w1 := none) (by rfl) (BR.opOf_word 0x4B f) (congrArg (fun g => some (Instr.exit g)) (BR.ofWord_word 0x4B f)) rfl

theorem Encodes.mBallot (f : A3) : Encodes.Statement (.mBallot f) :=
  Encodes.intro (c := .s) (n := 0x50) (w1 := none) (by rfl) (A3.opOf_word 0x50 f) (congrArg (fun g => some (Instr.mBallot g)) (A3.ofWord_word 0x50 f)) rfl

theorem Encodes.mAnd (f : A3) : Encodes.Statement (.mAnd f) :=
  Encodes.intro (c := .s) (n := 0x51) (w1 := none) (by rfl) (A3.opOf_word 0x51 f) (congrArg (fun g => some (Instr.mAnd g)) (A3.ofWord_word 0x51 f)) rfl

theorem Encodes.mOr (f : A3) : Encodes.Statement (.mOr f) :=
  Encodes.intro (c := .s) (n := 0x52) (w1 := none) (by rfl) (A3.opOf_word 0x52 f) (congrArg (fun g => some (Instr.mOr g)) (A3.ofWord_word 0x52 f)) rfl

theorem Encodes.mAndn (f : A3) : Encodes.Statement (.mAndn f) :=
  Encodes.intro (c := .s) (n := 0x53) (w1 := none) (by rfl) (A3.opOf_word 0x53 f) (congrArg (fun g => some (Instr.mAndn g)) (A3.ofWord_word 0x53 f)) rfl

theorem Encodes.mXor (f : A3) : Encodes.Statement (.mXor f) :=
  Encodes.intro (c := .s) (n := 0x54) (w1 := none) (by rfl) (A3.opOf_word 0x54 f) (congrArg (fun g => some (Instr.mXor g)) (A3.ofWord_word 0x54 f)) rfl

theorem Encodes.mCnt (f : A3) : Encodes.Statement (.mCnt f) :=
  Encodes.intro (c := .s) (n := 0x55) (w1 := none) (by rfl) (A3.opOf_word 0x55 f) (congrArg (fun g => some (Instr.mCnt g)) (A3.ofWord_word 0x55 f)) rfl

theorem Encodes.mFirst (f : A3) : Encodes.Statement (.mFirst f) :=
  Encodes.intro (c := .s) (n := 0x56) (w1 := none) (by rfl) (A3.opOf_word 0x56 f) (congrArg (fun g => some (Instr.mFirst g)) (A3.ofWord_word 0x56 f)) rfl

theorem Encodes.mSet (f : A3) : Encodes.Statement (.mSet f) :=
  Encodes.intro (c := .s) (n := 0x57) (w1 := none) (by rfl) (A3.opOf_word 0x57 f) (congrArg (fun g => some (Instr.mSet g)) (A3.ofWord_word 0x57 f)) rfl

theorem Encodes.mGet (f : A3) : Encodes.Statement (.mGet f) :=
  Encodes.intro (c := .s) (n := 0x58) (w1 := none) (by rfl) (A3.opOf_word 0x58 f) (congrArg (fun g => some (Instr.mGet g)) (A3.ofWord_word 0x58 f)) rfl

theorem Encodes.nop (f : A3) : Encodes.Statement (.nop f) :=
  Encodes.intro (c := .s) (n := 0x7F) (w1 := none) (by rfl) (A3.opOf_word 0x7F f) (congrArg (fun g => some (Instr.nop g)) (A3.ofWord_word 0x7F f)) rfl

theorem Encodes.vAdd (f : A3) : Encodes.Statement (.vAdd f) :=
  Encodes.intro (c := .v) (n := 0x00) (w1 := none) (by rfl) (A3.opOf_word 0x00 f) (congrArg (fun g => some (Instr.vAdd g)) (A3.ofWord_word 0x00 f)) rfl

theorem Encodes.vSub (f : A3) : Encodes.Statement (.vSub f) :=
  Encodes.intro (c := .v) (n := 0x01) (w1 := none) (by rfl) (A3.opOf_word 0x01 f) (congrArg (fun g => some (Instr.vSub g)) (A3.ofWord_word 0x01 f)) rfl

theorem Encodes.vMul (f : A3) : Encodes.Statement (.vMul f) :=
  Encodes.intro (c := .v) (n := 0x02) (w1 := none) (by rfl) (A3.opOf_word 0x02 f) (congrArg (fun g => some (Instr.vMul g)) (A3.ofWord_word 0x02 f)) rfl

theorem Encodes.vMulhI (f : A3) : Encodes.Statement (.vMulhI f) :=
  Encodes.intro (c := .v) (n := 0x03) (w1 := none) (by rfl) (A3.opOf_word 0x03 f) (congrArg (fun g => some (Instr.vMulhI g)) (A3.ofWord_word 0x03 f)) rfl

theorem Encodes.vAnd (f : A3) : Encodes.Statement (.vAnd f) :=
  Encodes.intro (c := .v) (n := 0x05) (w1 := none) (by rfl) (A3.opOf_word 0x05 f) (congrArg (fun g => some (Instr.vAnd g)) (A3.ofWord_word 0x05 f)) rfl

theorem Encodes.vOr (f : A3) : Encodes.Statement (.vOr f) :=
  Encodes.intro (c := .v) (n := 0x06) (w1 := none) (by rfl) (A3.opOf_word 0x06 f) (congrArg (fun g => some (Instr.vOr g)) (A3.ofWord_word 0x06 f)) rfl

theorem Encodes.vXor (f : A3) : Encodes.Statement (.vXor f) :=
  Encodes.intro (c := .v) (n := 0x07) (w1 := none) (by rfl) (A3.opOf_word 0x07 f) (congrArg (fun g => some (Instr.vXor g)) (A3.ofWord_word 0x07 f)) rfl

theorem Encodes.vShl (f : A3) : Encodes.Statement (.vShl f) :=
  Encodes.intro (c := .v) (n := 0x08) (w1 := none) (by rfl) (A3.opOf_word 0x08 f) (congrArg (fun g => some (Instr.vShl g)) (A3.ofWord_word 0x08 f)) rfl

theorem Encodes.vShrN (f : A3) : Encodes.Statement (.vShrN f) :=
  Encodes.intro (c := .v) (n := 0x09) (w1 := none) (by rfl) (A3.opOf_word 0x09 f) (congrArg (fun g => some (Instr.vShrN g)) (A3.ofWord_word 0x09 f)) rfl

theorem Encodes.vShrI (f : A3) : Encodes.Statement (.vShrI f) :=
  Encodes.intro (c := .v) (n := 0x0A) (w1 := none) (by rfl) (A3.opOf_word 0x0A f) (congrArg (fun g => some (Instr.vShrI g)) (A3.ofWord_word 0x0A f)) rfl

theorem Encodes.vMinI (f : A3) : Encodes.Statement (.vMinI f) :=
  Encodes.intro (c := .v) (n := 0x0B) (w1 := none) (by rfl) (A3.opOf_word 0x0B f) (congrArg (fun g => some (Instr.vMinI g)) (A3.ofWord_word 0x0B f)) rfl

theorem Encodes.vMaxI (f : A3) : Encodes.Statement (.vMaxI f) :=
  Encodes.intro (c := .v) (n := 0x0C) (w1 := none) (by rfl) (A3.opOf_word 0x0C f) (congrArg (fun g => some (Instr.vMaxI g)) (A3.ofWord_word 0x0C f)) rfl

theorem Encodes.vMinN (f : A3) : Encodes.Statement (.vMinN f) :=
  Encodes.intro (c := .v) (n := 0x0D) (w1 := none) (by rfl) (A3.opOf_word 0x0D f) (congrArg (fun g => some (Instr.vMinN g)) (A3.ofWord_word 0x0D f)) rfl

theorem Encodes.vMaxN (f : A3) : Encodes.Statement (.vMaxN f) :=
  Encodes.intro (c := .v) (n := 0x0E) (w1 := none) (by rfl) (A3.opOf_word 0x0E f) (congrArg (fun g => some (Instr.vMaxN g)) (A3.ofWord_word 0x0E f)) rfl

theorem Encodes.vAddsI (f : A3) : Encodes.Statement (.vAddsI f) :=
  Encodes.intro (c := .v) (n := 0x10) (w1 := none) (by rfl) (A3.opOf_word 0x10 f) (congrArg (fun g => some (Instr.vAddsI g)) (A3.ofWord_word 0x10 f)) rfl

theorem Encodes.vClz (f : A3) : Encodes.Statement (.vClz f) :=
  Encodes.intro (c := .v) (n := 0x12) (w1 := none) (by rfl) (A3.opOf_word 0x12 f) (congrArg (fun g => some (Instr.vClz g)) (A3.ofWord_word 0x12 f)) rfl

theorem Encodes.vPopc (f : A3) : Encodes.Statement (.vPopc f) :=
  Encodes.intro (c := .v) (n := 0x13) (w1 := none) (by rfl) (A3.opOf_word 0x13 f) (congrArg (fun g => some (Instr.vPopc g)) (A3.ofWord_word 0x13 f)) rfl

theorem Encodes.vMad (f : A4) : Encodes.Statement (.vMad f) :=
  Encodes.intro (c := .v) (n := 0x14) (w1 := some (A4.word1 f)) (by rfl) (A4.opOf_word 0x14 f) (congrArg (fun g => some (Instr.vMad g)) (A4.ofWords_word 0x14 f)) rfl

theorem Encodes.vAddsh (f : A4) : Encodes.Statement (.vAddsh f) :=
  Encodes.intro (c := .v) (n := 0x15) (w1 := some (A4.word1 f)) (by rfl) (A4.opOf_word 0x15 f) (congrArg (fun g => some (Instr.vAddsh g)) (A4.ofWords_word 0x15 f)) rfl

theorem Encodes.vCmpEq (f : A3) : Encodes.Statement (.vCmpEq f) :=
  Encodes.intro (c := .v) (n := 0x18) (w1 := none) (by rfl) (A3.opOf_word 0x18 f) (congrArg (fun g => some (Instr.vCmpEq g)) (A3.ofWord_word 0x18 f)) rfl

theorem Encodes.vCmpNe (f : A3) : Encodes.Statement (.vCmpNe f) :=
  Encodes.intro (c := .v) (n := 0x19) (w1 := none) (by rfl) (A3.opOf_word 0x19 f) (congrArg (fun g => some (Instr.vCmpNe g)) (A3.ofWord_word 0x19 f)) rfl

theorem Encodes.vCmpLtI (f : A3) : Encodes.Statement (.vCmpLtI f) :=
  Encodes.intro (c := .v) (n := 0x1A) (w1 := none) (by rfl) (A3.opOf_word 0x1A f) (congrArg (fun g => some (Instr.vCmpLtI g)) (A3.ofWord_word 0x1A f)) rfl

theorem Encodes.vCmpLeI (f : A3) : Encodes.Statement (.vCmpLeI f) :=
  Encodes.intro (c := .v) (n := 0x1B) (w1 := none) (by rfl) (A3.opOf_word 0x1B f) (congrArg (fun g => some (Instr.vCmpLeI g)) (A3.ofWord_word 0x1B f)) rfl

theorem Encodes.vCmpLtN (f : A3) : Encodes.Statement (.vCmpLtN f) :=
  Encodes.intro (c := .v) (n := 0x1C) (w1 := none) (by rfl) (A3.opOf_word 0x1C f) (congrArg (fun g => some (Instr.vCmpLtN g)) (A3.ofWord_word 0x1C f)) rfl

theorem Encodes.vCmpLeN (f : A3) : Encodes.Statement (.vCmpLeN f) :=
  Encodes.intro (c := .v) (n := 0x1D) (w1 := none) (by rfl) (A3.opOf_word 0x1D f) (congrArg (fun g => some (Instr.vCmpLeN g)) (A3.ofWord_word 0x1D f)) rfl

theorem Encodes.vFcmpEq (f : A3) : Encodes.Statement (.vFcmpEq f) :=
  Encodes.intro (c := .v) (n := 0x1E) (w1 := none) (by rfl) (A3.opOf_word 0x1E f) (congrArg (fun g => some (Instr.vFcmpEq g)) (A3.ofWord_word 0x1E f)) rfl

theorem Encodes.vFcmpLt (f : A3) : Encodes.Statement (.vFcmpLt f) :=
  Encodes.intro (c := .v) (n := 0x1F) (w1 := none) (by rfl) (A3.opOf_word 0x1F f) (congrArg (fun g => some (Instr.vFcmpLt g)) (A3.ofWord_word 0x1F f)) rfl

theorem Encodes.vFcmpLe (f : A3) : Encodes.Statement (.vFcmpLe f) :=
  Encodes.intro (c := .v) (n := 0x20) (w1 := none) (by rfl) (A3.opOf_word 0x20 f) (congrArg (fun g => some (Instr.vFcmpLe g)) (A3.ofWord_word 0x20 f)) rfl

theorem Encodes.vSel (f : A4) : Encodes.Statement (.vSel f) :=
  Encodes.intro (c := .v) (n := 0x22) (w1 := some (A4.word1 f)) (by rfl) (A4.opOf_word 0x22 f) (congrArg (fun g => some (Instr.vSel g)) (A4.ofWords_word 0x22 f)) rfl

theorem Encodes.vMovi (f : AI) : Encodes.Statement (.vMovi f) :=
  Encodes.intro (c := .v) (n := 0x24) (w1 := none) (by rfl) (AI.opOf_word 0x24 f) (congrArg (fun g => some (Instr.vMovi g)) (AI.ofWord_word 0x24 f)) rfl

theorem Encodes.vLi (f : AL) : Encodes.Statement (.vLi f) :=
  Encodes.intro (c := .v) (n := 0x25) (w1 := some (AL.word1 f)) (by rfl) (AL.opOf_word 0x25 f) (congrArg (fun g => some (Instr.vLi g)) (AL.ofWords_word 0x25 f)) rfl

theorem Encodes.vMov (f : A3) : Encodes.Statement (.vMov f) :=
  Encodes.intro (c := .v) (n := 0x26) (w1 := none) (by rfl) (A3.opOf_word 0x26 f) (congrArg (fun g => some (Instr.vMov g)) (A3.ofWord_word 0x26 f)) rfl

theorem Encodes.vIota (f : A3) : Encodes.Statement (.vIota f) :=
  Encodes.intro (c := .v) (n := 0x27) (w1 := none) (by rfl) (A3.opOf_word 0x27 f) (congrArg (fun g => some (Instr.vIota g)) (A3.ofWord_word 0x27 f)) rfl

theorem Encodes.vBcast (f : A3) : Encodes.Statement (.vBcast f) :=
  Encodes.intro (c := .v) (n := 0x28) (w1 := none) (by rfl) (A3.opOf_word 0x28 f) (congrArg (fun g => some (Instr.vBcast g)) (A3.ofWord_word 0x28 f)) rfl

theorem Encodes.vShuf (f : A3) : Encodes.Statement (.vShuf f) :=
  Encodes.intro (c := .v) (n := 0x29) (w1 := none) (by rfl) (A3.opOf_word 0x29 f) (congrArg (fun g => some (Instr.vShuf g)) (A3.ofWord_word 0x29 f)) rfl

theorem Encodes.vRot (f : AI) : Encodes.Statement (.vRot f) :=
  Encodes.intro (c := .v) (n := 0x2A) (w1 := none) (by rfl) (AI.opOf_word 0x2A f) (congrArg (fun g => some (Instr.vRot g)) (AI.ofWord_word 0x2A f)) rfl

theorem Encodes.vWrlane (f : A3) : Encodes.Statement (.vWrlane f) :=
  Encodes.intro (c := .v) (n := 0x2B) (w1 := none) (by rfl) (A3.opOf_word 0x2B f) (congrArg (fun g => some (Instr.vWrlane g)) (A3.ofWord_word 0x2B f)) rfl

theorem Encodes.vTagof (f : A3) : Encodes.Statement (.vTagof f) :=
  Encodes.intro (c := .v) (n := 0x2C) (w1 := none) (by rfl) (A3.opOf_word 0x2C f) (congrArg (fun g => some (Instr.vTagof g)) (A3.ofWord_word 0x2C f)) rfl

theorem Encodes.vGeneral (f : A3) : Encodes.Statement (.vGeneral f) :=
  Encodes.intro (c := .v) (n := 0x2D) (w1 := none) (by rfl) (A3.opOf_word 0x2D f) (congrArg (fun g => some (Instr.vGeneral g)) (A3.ofWord_word 0x2D f)) rfl

theorem Encodes.vFadd (f : A3) : Encodes.Statement (.vFadd f) :=
  Encodes.intro (c := .v) (n := 0x30) (w1 := none) (by rfl) (A3.opOf_word 0x30 f) (congrArg (fun g => some (Instr.vFadd g)) (A3.ofWord_word 0x30 f)) rfl

theorem Encodes.vFsub (f : A3) : Encodes.Statement (.vFsub f) :=
  Encodes.intro (c := .v) (n := 0x31) (w1 := none) (by rfl) (A3.opOf_word 0x31 f) (congrArg (fun g => some (Instr.vFsub g)) (A3.ofWord_word 0x31 f)) rfl

theorem Encodes.vFmul (f : A3) : Encodes.Statement (.vFmul f) :=
  Encodes.intro (c := .v) (n := 0x32) (w1 := none) (by rfl) (A3.opOf_word 0x32 f) (congrArg (fun g => some (Instr.vFmul g)) (A3.ofWord_word 0x32 f)) rfl

theorem Encodes.vFma (f : A3) : Encodes.Statement (.vFma f) :=
  Encodes.intro (c := .v) (n := 0x33) (w1 := none) (by rfl) (A3.opOf_word 0x33 f) (congrArg (fun g => some (Instr.vFma g)) (A3.ofWord_word 0x33 f)) rfl

theorem Encodes.vFma4 (f : A4) : Encodes.Statement (.vFma4 f) :=
  Encodes.intro (c := .v) (n := 0x34) (w1 := some (A4.word1 f)) (by rfl) (A4.opOf_word 0x34 f) (congrArg (fun g => some (Instr.vFma4 g)) (A4.ofWords_word 0x34 f)) rfl

theorem Encodes.vFmin (f : A3) : Encodes.Statement (.vFmin f) :=
  Encodes.intro (c := .v) (n := 0x35) (w1 := none) (by rfl) (A3.opOf_word 0x35 f) (congrArg (fun g => some (Instr.vFmin g)) (A3.ofWord_word 0x35 f)) rfl

theorem Encodes.vFmax (f : A3) : Encodes.Statement (.vFmax f) :=
  Encodes.intro (c := .v) (n := 0x36) (w1 := none) (by rfl) (A3.opOf_word 0x36 f) (congrArg (fun g => some (Instr.vFmax g)) (A3.ofWord_word 0x36 f)) rfl

theorem Encodes.vFdiv (f : A3) : Encodes.Statement (.vFdiv f) :=
  Encodes.intro (c := .v) (n := 0x37) (w1 := none) (by rfl) (A3.opOf_word 0x37 f) (congrArg (fun g => some (Instr.vFdiv g)) (A3.ofWord_word 0x37 f)) rfl

theorem Encodes.vFrcp (f : A3) : Encodes.Statement (.vFrcp f) :=
  Encodes.intro (c := .v) (n := 0x38) (w1 := none) (by rfl) (A3.opOf_word 0x38 f) (congrArg (fun g => some (Instr.vFrcp g)) (A3.ofWord_word 0x38 f)) rfl

theorem Encodes.vFrsq (f : A3) : Encodes.Statement (.vFrsq f) :=
  Encodes.intro (c := .v) (n := 0x39) (w1 := none) (by rfl) (A3.opOf_word 0x39 f) (congrArg (fun g => some (Instr.vFrsq g)) (A3.ofWord_word 0x39 f)) rfl

theorem Encodes.vFsqrt (f : A3) : Encodes.Statement (.vFsqrt f) :=
  Encodes.intro (c := .v) (n := 0x3A) (w1 := none) (by rfl) (A3.opOf_word 0x3A f) (congrArg (fun g => some (Instr.vFsqrt g)) (A3.ofWord_word 0x3A f)) rfl

theorem Encodes.vFexp2 (f : A3) : Encodes.Statement (.vFexp2 f) :=
  Encodes.intro (c := .v) (n := 0x3B) (w1 := none) (by rfl) (A3.opOf_word 0x3B f) (congrArg (fun g => some (Instr.vFexp2 g)) (A3.ofWord_word 0x3B f)) rfl

theorem Encodes.vFlog2 (f : A3) : Encodes.Statement (.vFlog2 f) :=
  Encodes.intro (c := .v) (n := 0x3C) (w1 := none) (by rfl) (A3.opOf_word 0x3C f) (congrArg (fun g => some (Instr.vFlog2 g)) (A3.ofWord_word 0x3C f)) rfl

theorem Encodes.vFclamp (f : A4) : Encodes.Statement (.vFclamp f) :=
  Encodes.intro (c := .v) (n := 0x3D) (w1 := some (A4.word1 f)) (by rfl) (A4.opOf_word 0x3D f) (congrArg (fun g => some (Instr.vFclamp g)) (A4.ofWords_word 0x3D f)) rfl

theorem Encodes.vHadd (f : A4) : Encodes.Statement (.vHadd f) :=
  Encodes.intro (c := .v) (n := 0x40) (w1 := some (A4.word1 f)) (by rfl) (A4.opOf_word 0x40 f) (congrArg (fun g => some (Instr.vHadd g)) (A4.ofWords_word 0x40 f)) rfl

theorem Encodes.vHmul (f : A4) : Encodes.Statement (.vHmul f) :=
  Encodes.intro (c := .v) (n := 0x41) (w1 := some (A4.word1 f)) (by rfl) (A4.opOf_word 0x41 f) (congrArg (fun g => some (Instr.vHmul g)) (A4.ofWords_word 0x41 f)) rfl

theorem Encodes.vHfma (f : A4) : Encodes.Statement (.vHfma f) :=
  Encodes.intro (c := .v) (n := 0x42) (w1 := some (A4.word1 f)) (by rfl) (A4.opOf_word 0x42 f) (congrArg (fun g => some (Instr.vHfma g)) (A4.ofWords_word 0x42 f)) rfl

theorem Encodes.vCvt (f : A4) : Encodes.Statement (.vCvt f) :=
  Encodes.intro (c := .v) (n := 0x48) (w1 := some (A4.word1 f)) (by rfl) (A4.opOf_word 0x48 f) (congrArg (fun g => some (Instr.vCvt g)) (A4.ofWords_word 0x48 f)) rfl

theorem Encodes.vCvtSr (f : A4) : Encodes.Statement (.vCvtSr f) :=
  Encodes.intro (c := .v) (n := 0x49) (w1 := some (A4.word1 f)) (by rfl) (A4.opOf_word 0x49 f) (congrArg (fun g => some (Instr.vCvtSr g)) (A4.ofWords_word 0x49 f)) rfl

theorem Encodes.vPack (f : A4) : Encodes.Statement (.vPack f) :=
  Encodes.intro (c := .v) (n := 0x4A) (w1 := some (A4.word1 f)) (by rfl) (A4.opOf_word 0x4A f) (congrArg (fun g => some (Instr.vPack g)) (A4.ofWords_word 0x4A f)) rfl

theorem Encodes.vUnpack (f : A4) : Encodes.Statement (.vUnpack f) :=
  Encodes.intro (c := .v) (n := 0x4B) (w1 := some (A4.word1 f)) (by rfl) (A4.opOf_word 0x4B f) (congrArg (fun g => some (Instr.vUnpack g)) (A4.ofWords_word 0x4B f)) rfl

theorem Encodes.vRnd (f : A3) : Encodes.Statement (.vRnd f) :=
  Encodes.intro (c := .v) (n := 0x4C) (w1 := none) (by rfl) (A3.opOf_word 0x4C f) (congrArg (fun g => some (Instr.vRnd g)) (A3.ofWord_word 0x4C f)) rfl

theorem Encodes.vRsum (f : A4) : Encodes.Statement (.vRsum f) :=
  Encodes.intro (c := .v) (n := 0x50) (w1 := some (A4.word1 f)) (by rfl) (A4.opOf_word 0x50 f) (congrArg (fun g => some (Instr.vRsum g)) (A4.ofWords_word 0x50 f)) rfl

theorem Encodes.vRmax (f : A4) : Encodes.Statement (.vRmax f) :=
  Encodes.intro (c := .v) (n := 0x51) (w1 := some (A4.word1 f)) (by rfl) (A4.opOf_word 0x51 f) (congrArg (fun g => some (Instr.vRmax g)) (A4.ofWords_word 0x51 f)) rfl

theorem Encodes.vRmin (f : A4) : Encodes.Statement (.vRmin f) :=
  Encodes.intro (c := .v) (n := 0x52) (w1 := some (A4.word1 f)) (by rfl) (A4.opOf_word 0x52 f) (congrArg (fun g => some (Instr.vRmin g)) (A4.ofWords_word 0x52 f)) rfl

theorem Encodes.vScan (f : A4) : Encodes.Statement (.vScan f) :=
  Encodes.intro (c := .v) (n := 0x53) (w1 := some (A4.word1 f)) (by rfl) (A4.opOf_word 0x53 f) (congrArg (fun g => some (Instr.vScan g)) (A4.ofWords_word 0x53 f)) rfl

theorem Encodes.vWmax (f : A4) : Encodes.Statement (.vWmax f) :=
  Encodes.intro (c := .v) (n := 0x58) (w1 := some (A4.word1 f)) (by rfl) (A4.opOf_word 0x58 f) (congrArg (fun g => some (Instr.vWmax g)) (A4.ofWords_word 0x58 f)) rfl

theorem Encodes.vWmin (f : A4) : Encodes.Statement (.vWmin f) :=
  Encodes.intro (c := .v) (n := 0x59) (w1 := some (A4.word1 f)) (by rfl) (A4.opOf_word 0x59 f) (congrArg (fun g => some (Instr.vWmin g)) (A4.ofWords_word 0x59 f)) rfl

theorem Encodes.vWmed (f : A4) : Encodes.Statement (.vWmed f) :=
  Encodes.intro (c := .v) (n := 0x5A) (w1 := some (A4.word1 f)) (by rfl) (A4.opOf_word 0x5A f) (congrArg (fun g => some (Instr.vWmed g)) (A4.ofWords_word 0x5A f)) rfl

theorem Encodes.vWsat (f : A4) : Encodes.Statement (.vWsat f) :=
  Encodes.intro (c := .v) (n := 0x5B) (w1 := some (A4.word1 f)) (by rfl) (A4.opOf_word 0x5B f) (congrArg (fun g => some (Instr.vWsat g)) (A4.ofWords_word 0x5B f)) rfl

theorem Encodes.vWclamp (f : A4) : Encodes.Statement (.vWclamp f) :=
  Encodes.intro (c := .v) (n := 0x5C) (w1 := some (A4.word1 f)) (by rfl) (A4.opOf_word 0x5C f) (congrArg (fun g => some (Instr.vWclamp g)) (A4.ofWords_word 0x5C f)) rfl

theorem Encodes.vAdj (f : A4) : Encodes.Statement (.vAdj f) :=
  Encodes.intro (c := .v) (n := 0x5D) (w1 := some (A4.word1 f)) (by rfl) (A4.opOf_word 0x5D f) (congrArg (fun g => some (Instr.vAdj g)) (A4.ofWords_word 0x5D f)) rfl

theorem Encodes.ldN8Ms (f : MS) : Encodes.Statement (.ldN8Ms f) :=
  Encodes.intro (c := .m) (n := 0x00) (w1 := none) (by rfl) (MS.opOf_word 0x00 f) (congrArg (fun g => some (Instr.ldN8Ms g)) (MS.ofWord_word 0x00 f)) rfl

theorem Encodes.ldN8Ml (f : ML) : Encodes.Statement (.ldN8Ml f) :=
  Encodes.intro (c := .m) (n := 0x40) (w1 := some (ML.word1 f)) (by rfl) (ML.opOf_word 0x40 f) (congrArg (fun g => some (Instr.ldN8Ml g)) (ML.ofWords_word 0x40 f)) rfl

theorem Encodes.ldI8Ms (f : MS) : Encodes.Statement (.ldI8Ms f) :=
  Encodes.intro (c := .m) (n := 0x01) (w1 := none) (by rfl) (MS.opOf_word 0x01 f) (congrArg (fun g => some (Instr.ldI8Ms g)) (MS.ofWord_word 0x01 f)) rfl

theorem Encodes.ldI8Ml (f : ML) : Encodes.Statement (.ldI8Ml f) :=
  Encodes.intro (c := .m) (n := 0x41) (w1 := some (ML.word1 f)) (by rfl) (ML.opOf_word 0x41 f) (congrArg (fun g => some (Instr.ldI8Ml g)) (ML.ofWords_word 0x41 f)) rfl

theorem Encodes.ldN16Ms (f : MS) : Encodes.Statement (.ldN16Ms f) :=
  Encodes.intro (c := .m) (n := 0x02) (w1 := none) (by rfl) (MS.opOf_word 0x02 f) (congrArg (fun g => some (Instr.ldN16Ms g)) (MS.ofWord_word 0x02 f)) rfl

theorem Encodes.ldN16Ml (f : ML) : Encodes.Statement (.ldN16Ml f) :=
  Encodes.intro (c := .m) (n := 0x42) (w1 := some (ML.word1 f)) (by rfl) (ML.opOf_word 0x42 f) (congrArg (fun g => some (Instr.ldN16Ml g)) (ML.ofWords_word 0x42 f)) rfl

theorem Encodes.ldI16Ms (f : MS) : Encodes.Statement (.ldI16Ms f) :=
  Encodes.intro (c := .m) (n := 0x03) (w1 := none) (by rfl) (MS.opOf_word 0x03 f) (congrArg (fun g => some (Instr.ldI16Ms g)) (MS.ofWord_word 0x03 f)) rfl

theorem Encodes.ldI16Ml (f : ML) : Encodes.Statement (.ldI16Ml f) :=
  Encodes.intro (c := .m) (n := 0x43) (w1 := some (ML.word1 f)) (by rfl) (ML.opOf_word 0x43 f) (congrArg (fun g => some (Instr.ldI16Ml g)) (ML.ofWords_word 0x43 f)) rfl

theorem Encodes.ldB32Ms (f : MS) : Encodes.Statement (.ldB32Ms f) :=
  Encodes.intro (c := .m) (n := 0x04) (w1 := none) (by rfl) (MS.opOf_word 0x04 f) (congrArg (fun g => some (Instr.ldB32Ms g)) (MS.ofWord_word 0x04 f)) rfl

theorem Encodes.ldB32Ml (f : ML) : Encodes.Statement (.ldB32Ml f) :=
  Encodes.intro (c := .m) (n := 0x44) (w1 := some (ML.word1 f)) (by rfl) (ML.opOf_word 0x44 f) (congrArg (fun g => some (Instr.ldB32Ml g)) (ML.ofWords_word 0x44 f)) rfl

theorem Encodes.ldB64Ms (f : MS) : Encodes.Statement (.ldB64Ms f) :=
  Encodes.intro (c := .m) (n := 0x05) (w1 := none) (by rfl) (MS.opOf_word 0x05 f) (congrArg (fun g => some (Instr.ldB64Ms g)) (MS.ofWord_word 0x05 f)) rfl

theorem Encodes.ldB64Ml (f : ML) : Encodes.Statement (.ldB64Ml f) :=
  Encodes.intro (c := .m) (n := 0x45) (w1 := some (ML.word1 f)) (by rfl) (ML.opOf_word 0x45 f) (congrArg (fun g => some (Instr.ldB64Ml g)) (ML.ofWords_word 0x45 f)) rfl

theorem Encodes.ldB128Ms (f : MS) : Encodes.Statement (.ldB128Ms f) :=
  Encodes.intro (c := .m) (n := 0x06) (w1 := none) (by rfl) (MS.opOf_word 0x06 f) (congrArg (fun g => some (Instr.ldB128Ms g)) (MS.ofWord_word 0x06 f)) rfl

theorem Encodes.ldB128Ml (f : ML) : Encodes.Statement (.ldB128Ml f) :=
  Encodes.intro (c := .m) (n := 0x46) (w1 := some (ML.word1 f)) (by rfl) (ML.opOf_word 0x46 f) (congrArg (fun g => some (Instr.ldB128Ml g)) (ML.ofWords_word 0x46 f)) rfl

theorem Encodes.stB8Ms (f : MS) : Encodes.Statement (.stB8Ms f) :=
  Encodes.intro (c := .m) (n := 0x08) (w1 := none) (by rfl) (MS.opOf_word 0x08 f) (congrArg (fun g => some (Instr.stB8Ms g)) (MS.ofWord_word 0x08 f)) rfl

theorem Encodes.stB8Ml (f : ML) : Encodes.Statement (.stB8Ml f) :=
  Encodes.intro (c := .m) (n := 0x48) (w1 := some (ML.word1 f)) (by rfl) (ML.opOf_word 0x48 f) (congrArg (fun g => some (Instr.stB8Ml g)) (ML.ofWords_word 0x48 f)) rfl

theorem Encodes.stB16Ms (f : MS) : Encodes.Statement (.stB16Ms f) :=
  Encodes.intro (c := .m) (n := 0x09) (w1 := none) (by rfl) (MS.opOf_word 0x09 f) (congrArg (fun g => some (Instr.stB16Ms g)) (MS.ofWord_word 0x09 f)) rfl

theorem Encodes.stB16Ml (f : ML) : Encodes.Statement (.stB16Ml f) :=
  Encodes.intro (c := .m) (n := 0x49) (w1 := some (ML.word1 f)) (by rfl) (ML.opOf_word 0x49 f) (congrArg (fun g => some (Instr.stB16Ml g)) (ML.ofWords_word 0x49 f)) rfl

theorem Encodes.stB32Ms (f : MS) : Encodes.Statement (.stB32Ms f) :=
  Encodes.intro (c := .m) (n := 0x0A) (w1 := none) (by rfl) (MS.opOf_word 0x0A f) (congrArg (fun g => some (Instr.stB32Ms g)) (MS.ofWord_word 0x0A f)) rfl

theorem Encodes.stB32Ml (f : ML) : Encodes.Statement (.stB32Ml f) :=
  Encodes.intro (c := .m) (n := 0x4A) (w1 := some (ML.word1 f)) (by rfl) (ML.opOf_word 0x4A f) (congrArg (fun g => some (Instr.stB32Ml g)) (ML.ofWords_word 0x4A f)) rfl

theorem Encodes.stB64Ms (f : MS) : Encodes.Statement (.stB64Ms f) :=
  Encodes.intro (c := .m) (n := 0x0B) (w1 := none) (by rfl) (MS.opOf_word 0x0B f) (congrArg (fun g => some (Instr.stB64Ms g)) (MS.ofWord_word 0x0B f)) rfl

theorem Encodes.stB64Ml (f : ML) : Encodes.Statement (.stB64Ml f) :=
  Encodes.intro (c := .m) (n := 0x4B) (w1 := some (ML.word1 f)) (by rfl) (ML.opOf_word 0x4B f) (congrArg (fun g => some (Instr.stB64Ml g)) (ML.ofWords_word 0x4B f)) rfl

theorem Encodes.stB128Ms (f : MS) : Encodes.Statement (.stB128Ms f) :=
  Encodes.intro (c := .m) (n := 0x0C) (w1 := none) (by rfl) (MS.opOf_word 0x0C f) (congrArg (fun g => some (Instr.stB128Ms g)) (MS.ofWord_word 0x0C f)) rfl

theorem Encodes.stB128Ml (f : ML) : Encodes.Statement (.stB128Ml f) :=
  Encodes.intro (c := .m) (n := 0x4C) (w1 := some (ML.word1 f)) (by rfl) (ML.opOf_word 0x4C f) (congrArg (fun g => some (Instr.stB128Ml g)) (ML.ofWords_word 0x4C f)) rfl

theorem Encodes.ldAcqB32Ms (f : MS) : Encodes.Statement (.ldAcqB32Ms f) :=
  Encodes.intro (c := .m) (n := 0x10) (w1 := none) (by rfl) (MS.opOf_word 0x10 f) (congrArg (fun g => some (Instr.ldAcqB32Ms g)) (MS.ofWord_word 0x10 f)) rfl

theorem Encodes.ldAcqB64Ms (f : MS) : Encodes.Statement (.ldAcqB64Ms f) :=
  Encodes.intro (c := .m) (n := 0x11) (w1 := none) (by rfl) (MS.opOf_word 0x11 f) (congrArg (fun g => some (Instr.ldAcqB64Ms g)) (MS.ofWord_word 0x11 f)) rfl

theorem Encodes.stRelB32Ms (f : MS) : Encodes.Statement (.stRelB32Ms f) :=
  Encodes.intro (c := .m) (n := 0x12) (w1 := none) (by rfl) (MS.opOf_word 0x12 f) (congrArg (fun g => some (Instr.stRelB32Ms g)) (MS.ofWord_word 0x12 f)) rfl

theorem Encodes.stRelB64Ms (f : MS) : Encodes.Statement (.stRelB64Ms f) :=
  Encodes.intro (c := .m) (n := 0x13) (w1 := none) (by rfl) (MS.opOf_word 0x13 f) (congrArg (fun g => some (Instr.stRelB64Ms g)) (MS.ofWord_word 0x13 f)) rfl

theorem Encodes.atAddB32Ms (f : MS) : Encodes.Statement (.atAddB32Ms f) :=
  Encodes.intro (c := .m) (n := 0x18) (w1 := none) (by rfl) (MS.opOf_word 0x18 f) (congrArg (fun g => some (Instr.atAddB32Ms g)) (MS.ofWord_word 0x18 f)) rfl

theorem Encodes.atAddB64Ms (f : MS) : Encodes.Statement (.atAddB64Ms f) :=
  Encodes.intro (c := .m) (n := 0x19) (w1 := none) (by rfl) (MS.opOf_word 0x19 f) (congrArg (fun g => some (Instr.atAddB64Ms g)) (MS.ofWord_word 0x19 f)) rfl

theorem Encodes.atMinI32Ms (f : MS) : Encodes.Statement (.atMinI32Ms f) :=
  Encodes.intro (c := .m) (n := 0x1A) (w1 := none) (by rfl) (MS.opOf_word 0x1A f) (congrArg (fun g => some (Instr.atMinI32Ms g)) (MS.ofWord_word 0x1A f)) rfl

theorem Encodes.atMaxI32Ms (f : MS) : Encodes.Statement (.atMaxI32Ms f) :=
  Encodes.intro (c := .m) (n := 0x1B) (w1 := none) (by rfl) (MS.opOf_word 0x1B f) (congrArg (fun g => some (Instr.atMaxI32Ms g)) (MS.ofWord_word 0x1B f)) rfl

theorem Encodes.atMinN32Ms (f : MS) : Encodes.Statement (.atMinN32Ms f) :=
  Encodes.intro (c := .m) (n := 0x1C) (w1 := none) (by rfl) (MS.opOf_word 0x1C f) (congrArg (fun g => some (Instr.atMinN32Ms g)) (MS.ofWord_word 0x1C f)) rfl

theorem Encodes.atMaxN32Ms (f : MS) : Encodes.Statement (.atMaxN32Ms f) :=
  Encodes.intro (c := .m) (n := 0x1D) (w1 := none) (by rfl) (MS.opOf_word 0x1D f) (congrArg (fun g => some (Instr.atMaxN32Ms g)) (MS.ofWord_word 0x1D f)) rfl

theorem Encodes.atAndB32Ms (f : MS) : Encodes.Statement (.atAndB32Ms f) :=
  Encodes.intro (c := .m) (n := 0x1E) (w1 := none) (by rfl) (MS.opOf_word 0x1E f) (congrArg (fun g => some (Instr.atAndB32Ms g)) (MS.ofWord_word 0x1E f)) rfl

theorem Encodes.atOrB32Ms (f : MS) : Encodes.Statement (.atOrB32Ms f) :=
  Encodes.intro (c := .m) (n := 0x1F) (w1 := none) (by rfl) (MS.opOf_word 0x1F f) (congrArg (fun g => some (Instr.atOrB32Ms g)) (MS.ofWord_word 0x1F f)) rfl

theorem Encodes.atXorB32Ms (f : MS) : Encodes.Statement (.atXorB32Ms f) :=
  Encodes.intro (c := .m) (n := 0x20) (w1 := none) (by rfl) (MS.opOf_word 0x20 f) (congrArg (fun g => some (Instr.atXorB32Ms g)) (MS.ofWord_word 0x20 f)) rfl

theorem Encodes.atXchgB32Ms (f : MS) : Encodes.Statement (.atXchgB32Ms f) :=
  Encodes.intro (c := .m) (n := 0x21) (w1 := none) (by rfl) (MS.opOf_word 0x21 f) (congrArg (fun g => some (Instr.atXchgB32Ms g)) (MS.ofWord_word 0x21 f)) rfl

theorem Encodes.atXchgB64Ms (f : MS) : Encodes.Statement (.atXchgB64Ms f) :=
  Encodes.intro (c := .m) (n := 0x22) (w1 := none) (by rfl) (MS.opOf_word 0x22 f) (congrArg (fun g => some (Instr.atXchgB64Ms g)) (MS.ofWord_word 0x22 f)) rfl

theorem Encodes.atFaddF32Ms (f : MS) : Encodes.Statement (.atFaddF32Ms f) :=
  Encodes.intro (c := .m) (n := 0x25) (w1 := none) (by rfl) (MS.opOf_word 0x25 f) (congrArg (fun g => some (Instr.atFaddF32Ms g)) (MS.ofWord_word 0x25 f)) rfl

theorem Encodes.redAddB32Ms (f : MS) : Encodes.Statement (.redAddB32Ms f) :=
  Encodes.intro (c := .m) (n := 0x28) (w1 := none) (by rfl) (MS.opOf_word 0x28 f) (congrArg (fun g => some (Instr.redAddB32Ms g)) (MS.ofWord_word 0x28 f)) rfl

theorem Encodes.redAddB64Ms (f : MS) : Encodes.Statement (.redAddB64Ms f) :=
  Encodes.intro (c := .m) (n := 0x29) (w1 := none) (by rfl) (MS.opOf_word 0x29 f) (congrArg (fun g => some (Instr.redAddB64Ms g)) (MS.ofWord_word 0x29 f)) rfl

theorem Encodes.redFaddF32Ms (f : MS) : Encodes.Statement (.redFaddF32Ms f) :=
  Encodes.intro (c := .m) (n := 0x2A) (w1 := none) (by rfl) (MS.opOf_word 0x2A f) (congrArg (fun g => some (Instr.redFaddF32Ms g)) (MS.ofWord_word 0x2A f)) rfl

theorem Encodes.redHaddBf16x2Ms (f : MS) : Encodes.Statement (.redHaddBf16x2Ms f) :=
  Encodes.intro (c := .m) (n := 0x2B) (w1 := none) (by rfl) (MS.opOf_word 0x2B f) (congrArg (fun g => some (Instr.redHaddBf16x2Ms g)) (MS.ofWord_word 0x2B f)) rfl

theorem Encodes.redFmaxF32Ms (f : MS) : Encodes.Statement (.redFmaxF32Ms f) :=
  Encodes.intro (c := .m) (n := 0x2C) (w1 := none) (by rfl) (MS.opOf_word 0x2C f) (congrArg (fun g => some (Instr.redFmaxF32Ms g)) (MS.ofWord_word 0x2C f)) rfl

theorem Encodes.redFminF32Ms (f : MS) : Encodes.Statement (.redFminF32Ms f) :=
  Encodes.intro (c := .m) (n := 0x2D) (w1 := none) (by rfl) (MS.opOf_word 0x2D f) (congrArg (fun g => some (Instr.redFminF32Ms g)) (MS.ofWord_word 0x2D f)) rfl

theorem Encodes.redMaxI32Ms (f : MS) : Encodes.Statement (.redMaxI32Ms f) :=
  Encodes.intro (c := .m) (n := 0x2E) (w1 := none) (by rfl) (MS.opOf_word 0x2E f) (congrArg (fun g => some (Instr.redMaxI32Ms g)) (MS.ofWord_word 0x2E f)) rfl

theorem Encodes.redFlush (f : MS) : Encodes.Statement (.redFlush f) :=
  Encodes.intro (c := .m) (n := 0x30) (w1 := none) (by rfl) (MS.opOf_word 0x30 f) (congrArg (fun g => some (Instr.redFlush g)) (MS.ofWord_word 0x30 f)) rfl

theorem Encodes.fenceRel (f : MS) : Encodes.Statement (.fenceRel f) :=
  Encodes.intro (c := .m) (n := 0x34) (w1 := none) (by rfl) (MS.opOf_word 0x34 f) (congrArg (fun g => some (Instr.fenceRel g)) (MS.ofWord_word 0x34 f)) rfl

theorem Encodes.fenceAcq (f : MS) : Encodes.Statement (.fenceAcq f) :=
  Encodes.intro (c := .m) (n := 0x35) (w1 := none) (by rfl) (MS.opOf_word 0x35 f) (congrArg (fun g => some (Instr.fenceAcq g)) (MS.ofWord_word 0x35 f)) rfl

theorem Encodes.fenceXt (f : MS) : Encodes.Statement (.fenceXt f) :=
  Encodes.intro (c := .m) (n := 0x36) (w1 := none) (by rfl) (MS.opOf_word 0x36 f) (congrArg (fun g => some (Instr.fenceXt g)) (MS.ofWord_word 0x36 f)) rfl

theorem Encodes.pfMs (f : MS) : Encodes.Statement (.pfMs f) :=
  Encodes.intro (c := .m) (n := 0x38) (w1 := none) (by rfl) (MS.opOf_word 0x38 f) (congrArg (fun g => some (Instr.pfMs g)) (MS.ofWord_word 0x38 f)) rfl

theorem Encodes.discard (f : ML) : Encodes.Statement (.discard f) :=
  Encodes.intro (c := .m) (n := 0x39) (w1 := some (ML.word1 f)) (by rfl) (ML.opOf_word 0x39 f) (congrArg (fun g => some (Instr.discard g)) (ML.ofWords_word 0x39 f)) rfl

theorem Encodes.fill (f : ML) : Encodes.Statement (.fill f) :=
  Encodes.intro (c := .m) (n := 0x3A) (w1 := some (ML.word1 f)) (by rfl) (ML.opOf_word 0x3A f) (congrArg (fun g => some (Instr.fill g)) (ML.ofWords_word 0x3A f)) rfl

theorem Encodes.wStMs (f : MS) : Encodes.Statement (.wStMs f) :=
  Encodes.intro (c := .m) (n := 0x3B) (w1 := none) (by rfl) (MS.opOf_word 0x3B f) (congrArg (fun g => some (Instr.wStMs g)) (MS.ofWord_word 0x3B f)) rfl

theorem Encodes.wLdMs (f : MS) : Encodes.Statement (.wLdMs f) :=
  Encodes.intro (c := .m) (n := 0x3C) (w1 := none) (by rfl) (MS.opOf_word 0x3C f) (congrArg (fun g => some (Instr.wLdMs g)) (MS.ofWord_word 0x3C f)) rfl

theorem Encodes.fifoPushMs (f : MS) : Encodes.Statement (.fifoPushMs f) :=
  Encodes.intro (c := .m) (n := 0x3D) (w1 := none) (by rfl) (MS.opOf_word 0x3D f) (congrArg (fun g => some (Instr.fifoPushMs g)) (MS.ofWord_word 0x3D f)) rfl

theorem Encodes.fifoPopMs (f : MS) : Encodes.Statement (.fifoPopMs f) :=
  Encodes.intro (c := .m) (n := 0x3E) (w1 := none) (by rfl) (MS.opOf_word 0x3E f) (congrArg (fun g => some (Instr.fifoPopMs g)) (MS.ofWord_word 0x3E f)) rfl

theorem Encodes.cstSet (f : Y) : Encodes.Statement (.cstSet f) :=
  Encodes.intro (c := .x) (n := 0x00) (w1 := none) (by rfl) (Y.opOf_word 0x00 f) (congrArg (fun g => some (Instr.cstSet g)) (Y.ofWord_word 0x00 f)) rfl

theorem Encodes.cstClr (f : Y) : Encodes.Statement (.cstClr f) :=
  Encodes.intro (c := .x) (n := 0x01) (w1 := none) (by rfl) (Y.opOf_word 0x01 f) (congrArg (fun g => some (Instr.cstClr g)) (Y.ofWord_word 0x01 f)) rfl

theorem Encodes.mma (f : XM) : Encodes.Statement (.mma f) :=
  Encodes.intro (c := .x) (n := 0x04) (w1 := none) (by rfl) (XM.opOf_word 0x04 f) (congrArg (fun g => some (Instr.mma g)) (XM.ofWord_word 0x04 f)) rfl

theorem Encodes.mmaQ (f : XM) : Encodes.Statement (.mmaQ f) :=
  Encodes.intro (c := .x) (n := 0x05) (w1 := none) (by rfl) (XM.opOf_word 0x05 f) (congrArg (fun g => some (Instr.mmaQ g)) (XM.ofWord_word 0x05 f)) rfl

theorem Encodes.mmaMx (f : XM) : Encodes.Statement (.mmaMx f) :=
  Encodes.intro (c := .x) (n := 0x06) (w1 := none) (by rfl) (XM.opOf_word 0x06 f) (congrArg (fun g => some (Instr.mmaMx g)) (XM.ofWord_word 0x06 f)) rfl

theorem Encodes.accZero (f : XM) : Encodes.Statement (.accZero f) :=
  Encodes.intro (c := .x) (n := 0x08) (w1 := none) (by rfl) (XM.opOf_word 0x08 f) (congrArg (fun g => some (Instr.accZero g)) (XM.ofWord_word 0x08 f)) rfl

theorem Encodes.accRead (f : XM) : Encodes.Statement (.accRead f) :=
  Encodes.intro (c := .x) (n := 0x09) (w1 := none) (by rfl) (XM.opOf_word 0x09 f) (congrArg (fun g => some (Instr.accRead g)) (XM.ofWord_word 0x09 f)) rfl

theorem Encodes.accWrite (f : XM) : Encodes.Statement (.accWrite f) :=
  Encodes.intro (c := .x) (n := 0x0A) (w1 := none) (by rfl) (XM.opOf_word 0x0A f) (congrArg (fun g => some (Instr.accWrite g)) (XM.ofWord_word 0x0A f)) rfl

theorem Encodes.accExp (f : XE) : Encodes.Statement (.accExp f) :=
  Encodes.intro (c := .x) (n := 0x0B) (w1 := none) (by rfl) (XE.opOf_word 0x0B f) (congrArg (fun g => some (Instr.accExp g)) (XE.ofWord_word 0x0B f)) rfl

theorem Encodes.pLd (f : XR) : Encodes.Statement (.pLd f) :=
  Encodes.intro (c := .x) (n := 0x10) (w1 := none) (by rfl) (XR.opOf_word 0x10 f) (congrArg (fun g => some (Instr.pLd g)) (XR.ofWord_word 0x10 f)) rfl

theorem Encodes.pZero (f : XR) : Encodes.Statement (.pZero f) :=
  Encodes.intro (c := .x) (n := 0x11) (w1 := none) (by rfl) (XR.opOf_word 0x11 f) (congrArg (fun g => some (Instr.pZero g)) (XR.ofWord_word 0x11 f)) rfl

theorem Encodes.rowOpen (f : XR) : Encodes.Statement (.rowOpen f) :=
  Encodes.intro (c := .x) (n := 0x14) (w1 := none) (by rfl) (XR.opOf_word 0x14 f) (congrArg (fun g => some (Instr.rowOpen g)) (XR.ofWord_word 0x14 f)) rfl

theorem Encodes.rowTake (f : XR) : Encodes.Statement (.rowTake f) :=
  Encodes.intro (c := .x) (n := 0x15) (w1 := none) (by rfl) (XR.opOf_word 0x15 f) (congrArg (fun g => some (Instr.rowTake g)) (XR.ofWord_word 0x15 f)) rfl

theorem Encodes.rowShut (f : XR) : Encodes.Statement (.rowShut f) :=
  Encodes.intro (c := .x) (n := 0x16) (w1 := none) (by rfl) (XR.opOf_word 0x16 f) (congrArg (fun g => some (Instr.rowShut g)) (XR.ofWord_word 0x16 f)) rfl

theorem Encodes.cp (f : E) : Encodes.Statement (.cp f) :=
  Encodes.intro (c := .e) (n := 0x00) (w1 := none) (by rfl) (E.opOf_word 0x00 f) (congrArg (fun g => some (Instr.cp g)) (E.ofWord_word 0x00 f)) rfl

theorem Encodes.cpCvt (f : E) : Encodes.Statement (.cpCvt f) :=
  Encodes.intro (c := .e) (n := 0x01) (w1 := none) (by rfl) (E.opOf_word 0x01 f) (congrArg (fun g => some (Instr.cpCvt g)) (E.ofWord_word 0x01 f)) rfl

theorem Encodes.cpQ (f : E) : Encodes.Statement (.cpQ f) :=
  Encodes.intro (c := .e) (n := 0x02) (w1 := none) (by rfl) (E.opOf_word 0x02 f) (congrArg (fun g => some (Instr.cpQ g)) (E.ofWord_word 0x02 f)) rfl

theorem Encodes.cpRow (f : E) : Encodes.Statement (.cpRow f) :=
  Encodes.intro (c := .e) (n := 0x03) (w1 := none) (by rfl) (E.opOf_word 0x03 f) (congrArg (fun g => some (Instr.cpRow g)) (E.ofWord_word 0x03 f)) rfl

theorem Encodes.cpDup (f : E) : Encodes.Statement (.cpDup f) :=
  Encodes.intro (c := .e) (n := 0x04) (w1 := none) (by rfl) (E.opOf_word 0x04 f) (congrArg (fun g => some (Instr.cpDup g)) (E.ofWord_word 0x04 f)) rfl

theorem Encodes.collAr (f : E) : Encodes.Statement (.collAr f) :=
  Encodes.intro (c := .e) (n := 0x08) (w1 := none) (by rfl) (E.opOf_word 0x08 f) (congrArg (fun g => some (Instr.collAr g)) (E.ofWord_word 0x08 f)) rfl

theorem Encodes.collRs (f : E) : Encodes.Statement (.collRs f) :=
  Encodes.intro (c := .e) (n := 0x09) (w1 := none) (by rfl) (E.opOf_word 0x09 f) (congrArg (fun g => some (Instr.collRs g)) (E.ofWord_word 0x09 f)) rfl

theorem Encodes.collAg (f : E) : Encodes.Statement (.collAg f) :=
  Encodes.intro (c := .e) (n := 0x0A) (w1 := none) (by rfl) (E.opOf_word 0x0A f) (congrArg (fun g => some (Instr.collAg g)) (E.ofWord_word 0x0A f)) rfl

theorem Encodes.collSend (f : E) : Encodes.Statement (.collSend f) :=
  Encodes.intro (c := .e) (n := 0x0B) (w1 := none) (by rfl) (E.opOf_word 0x0B f) (congrArg (fun g => some (Instr.collSend g)) (E.ofWord_word 0x0B f)) rfl

theorem Encodes.collRecv (f : E) : Encodes.Statement (.collRecv f) :=
  Encodes.intro (c := .e) (n := 0x0C) (w1 := none) (by rfl) (E.opOf_word 0x0C f) (congrArg (fun g => some (Instr.collRecv g)) (E.ofWord_word 0x0C f)) rfl

theorem Encodes.collNorm (f : E) : Encodes.Statement (.collNorm f) :=
  Encodes.intro (c := .e) (n := 0x0D) (w1 := none) (by rfl) (E.opOf_word 0x0D f) (congrArg (fun g => some (Instr.collNorm g)) (E.ofWord_word 0x0D f)) rfl

theorem Encodes.bucketArm (f : E) : Encodes.Statement (.bucketArm f) :=
  Encodes.intro (c := .e) (n := 0x0E) (w1 := none) (by rfl) (E.opOf_word 0x0E f) (congrArg (fun g => some (Instr.bucketArm g)) (E.ofWord_word 0x0E f)) rfl

theorem Encodes.hTest (f : E) : Encodes.Statement (.hTest f) :=
  Encodes.intro (c := .e) (n := 0x10) (w1 := none) (by rfl) (E.opOf_word 0x10 f) (congrArg (fun g => some (Instr.hTest g)) (E.ofWord_word 0x10 f)) rfl

theorem Encodes.hGet (f : E) : Encodes.Statement (.hGet f) :=
  Encodes.intro (c := .e) (n := 0x11) (w1 := none) (by rfl) (E.opOf_word 0x11 f) (congrArg (fun g => some (Instr.hGet g)) (E.ofWord_word 0x11 f)) rfl

theorem Encodes.hWait (f : E) : Encodes.Statement (.hWait f) :=
  Encodes.intro (c := .e) (n := 0x12) (w1 := none) (by rfl) (E.opOf_word 0x12 f) (congrArg (fun g => some (Instr.hWait g)) (E.ofWord_word 0x12 f)) rfl

theorem Encodes.hCancel (f : E) : Encodes.Statement (.hCancel f) :=
  Encodes.intro (c := .e) (n := 0x13) (w1 := none) (by rfl) (E.opOf_word 0x13 f) (congrArg (fun g => some (Instr.hCancel g)) (E.ofWord_word 0x13 f)) rfl

theorem Encodes.hBind (f : E) : Encodes.Statement (.hBind f) :=
  Encodes.intro (c := .e) (n := 0x14) (w1 := none) (by rfl) (E.opOf_word 0x14 f) (congrArg (fun g => some (Instr.hBind g)) (E.ofWord_word 0x14 f)) rfl

theorem Encodes.launch (f : E) : Encodes.Statement (.launch f) :=
  Encodes.intro (c := .e) (n := 0x18) (w1 := none) (by rfl) (E.opOf_word 0x18 f) (congrArg (fun g => some (Instr.launch g)) (E.ofWord_word 0x18 f)) rfl

theorem Encodes.rdvInit (f : Y) : Encodes.Statement (.rdvInit f) :=
  Encodes.intro (c := .y) (n := 0x00) (w1 := none) (by rfl) (Y.opOf_word 0x00 f) (congrArg (fun g => some (Instr.rdvInit g)) (Y.ofWord_word 0x00 f)) rfl

theorem Encodes.rdvArrive (f : Y) : Encodes.Statement (.rdvArrive f) :=
  Encodes.intro (c := .y) (n := 0x01) (w1 := none) (by rfl) (Y.opOf_word 0x01 f) (congrArg (fun g => some (Instr.rdvArrive g)) (Y.ofWord_word 0x01 f)) rfl

theorem Encodes.rdvWait (f : Y) : Encodes.Statement (.rdvWait f) :=
  Encodes.intro (c := .y) (n := 0x02) (w1 := none) (by rfl) (Y.opOf_word 0x02 f) (congrArg (fun g => some (Instr.rdvWait g)) (Y.ofWord_word 0x02 f)) rfl

theorem Encodes.rdvSync (f : Y) : Encodes.Statement (.rdvSync f) :=
  Encodes.intro (c := .y) (n := 0x03) (w1 := none) (by rfl) (Y.opOf_word 0x03 f) (congrArg (fun g => some (Instr.rdvSync g)) (Y.ofWord_word 0x03 f)) rfl

theorem Encodes.gbarArrive (f : Y) : Encodes.Statement (.gbarArrive f) :=
  Encodes.intro (c := .y) (n := 0x08) (w1 := none) (by rfl) (Y.opOf_word 0x08 f) (congrArg (fun g => some (Instr.gbarArrive g)) (Y.ofWord_word 0x08 f)) rfl

theorem Encodes.gbarWait (f : Y) : Encodes.Statement (.gbarWait f) :=
  Encodes.intro (c := .y) (n := 0x09) (w1 := none) (by rfl) (Y.opOf_word 0x09 f) (congrArg (fun g => some (Instr.gbarWait g)) (Y.ofWord_word 0x09 f)) rfl

theorem Encodes.watch (f : Y) : Encodes.Statement (.watch f) :=
  Encodes.intro (c := .y) (n := 0x10) (w1 := none) (by rfl) (Y.opOf_word 0x10 f) (congrArg (fun g => some (Instr.watch g)) (Y.ofWord_word 0x10 f)) rfl

theorem Encodes.sleep (f : Y) : Encodes.Statement (.sleep f) :=
  Encodes.intro (c := .y) (n := 0x11) (w1 := none) (by rfl) (Y.opOf_word 0x11 f) (congrArg (fun g => some (Instr.sleep g)) (Y.ofWord_word 0x11 f)) rfl

theorem Encodes.recruit (f : RecruitF) : Encodes.Statement (.recruit f) :=
  Encodes.intro (c := .y) (n := 0x18) (w1 := some (RecruitF.word1 f)) (by rfl) (RecruitF.opOf_word 0x18 f) (congrArg (fun g => some (Instr.recruit g)) (RecruitF.ofWords_word 0x18 f)) rfl

theorem Encodes.hnext (f : Y) : Encodes.Statement (.hnext f) :=
  Encodes.intro (c := .y) (n := 0x19) (w1 := none) (by rfl) (Y.opOf_word 0x19 f) (congrArg (fun g => some (Instr.hnext g)) (Y.ofWord_word 0x19 f)) rfl

theorem Encodes.hdone (f : Y) : Encodes.Statement (.hdone f) :=
  Encodes.intro (c := .y) (n := 0x1A) (w1 := none) (by rfl) (Y.opOf_word 0x1A f) (congrArg (fun g => some (Instr.hdone g)) (Y.ofWord_word 0x1A f)) rfl

theorem Encodes.hjoin (f : Y) : Encodes.Statement (.hjoin f) :=
  Encodes.intro (c := .y) (n := 0x1B) (w1 := none) (by rfl) (Y.opOf_word 0x1B f) (congrArg (fun g => some (Instr.hjoin g)) (Y.ofWord_word 0x1B f)) rfl

theorem Encodes.hsumF32 (f : Y) : Encodes.Statement (.hsumF32 f) :=
  Encodes.intro (c := .y) (n := 0x1C) (w1 := none) (by rfl) (Y.opOf_word 0x1C f) (congrArg (fun g => some (Instr.hsumF32 g)) (Y.ofWord_word 0x1C f)) rfl

theorem Encodes.hsumI32 (f : Y) : Encodes.Statement (.hsumI32 f) :=
  Encodes.intro (c := .y) (n := 0x1D) (w1 := none) (by rfl) (Y.opOf_word 0x1D f) (congrArg (fun g => some (Instr.hsumI32 g)) (Y.ofWord_word 0x1D f)) rfl

theorem Encodes.yield (f : Y) : Encodes.Statement (.yield f) :=
  Encodes.intro (c := .y) (n := 0x20) (w1 := none) (by rfl) (Y.opOf_word 0x20 f) (congrArg (fun g => some (Instr.yield g)) (Y.ofWord_word 0x20 f)) rfl

theorem Encodes.srRd (f : K) : Encodes.Statement (.srRd f) :=
  Encodes.intro (c := .k) (n := 0x00) (w1 := none) (by rfl) (K.opOf_word 0x00 f) (congrArg (fun g => some (Instr.srRd g)) (K.ofWord_word 0x00 f)) rfl

theorem Encodes.srWr (f : K) : Encodes.Statement (.srWr f) :=
  Encodes.intro (c := .k) (n := 0x01) (w1 := none) (by rfl) (K.opOf_word 0x01 f) (congrArg (fun g => some (Instr.srWr g)) (K.ofWord_word 0x01 f)) rfl

theorem Encodes.trap (f : K) : Encodes.Statement (.trap f) :=
  Encodes.intro (c := .k) (n := 0x02) (w1 := none) (by rfl) (K.opOf_word 0x02 f) (congrArg (fun g => some (Instr.trap g)) (K.ofWord_word 0x02 f)) rfl

theorem Encodes.brk (f : K) : Encodes.Statement (.brk f) :=
  Encodes.intro (c := .k) (n := 0x03) (w1 := none) (by rfl) (K.opOf_word 0x03 f) (congrArg (fun g => some (Instr.brk g)) (K.ofWord_word 0x03 f)) rfl

theorem Encodes.cacheWb (f : MS) : Encodes.Statement (.cacheWb f) :=
  Encodes.intro (c := .k) (n := 0x04) (w1 := none) (by rfl) (MS.opOf_word 0x04 f) (congrArg (fun g => some (Instr.cacheWb g)) (MS.ofWord_word 0x04 f)) rfl

theorem Encodes.cacheInv (f : MS) : Encodes.Statement (.cacheInv f) :=
  Encodes.intro (c := .k) (n := 0x05) (w1 := none) (by rfl) (MS.opOf_word 0x05 f) (congrArg (fun g => some (Instr.cacheInv g)) (MS.ofWord_word 0x05 f)) rfl

theorem Encodes.bankMode (f : K) : Encodes.Statement (.bankMode f) :=
  Encodes.intro (c := .k) (n := 0x06) (w1 := none) (by rfl) (K.opOf_word 0x06 f) (congrArg (fun g => some (Instr.bankMode g)) (K.ofWord_word 0x06 f)) rfl

theorem Encodes.evtPost (f : K) : Encodes.Statement (.evtPost f) :=
  Encodes.intro (c := .k) (n := 0x08) (w1 := none) (by rfl) (K.opOf_word 0x08 f) (congrArg (fun g => some (Instr.evtPost g)) (K.ofWord_word 0x08 f)) rfl

theorem Encodes.ldAcqB32Ml (f : ML) : Encodes.Statement (.ldAcqB32Ml f) :=
  Encodes.intro (c := .m) (n := 0x50) (w1 := some (ML.word1 f)) (by rfl) (ML.opOf_word 0x50 f) (congrArg (fun g => some (Instr.ldAcqB32Ml g)) (ML.ofWords_word 0x50 f)) rfl

theorem Encodes.ldAcqB64Ml (f : ML) : Encodes.Statement (.ldAcqB64Ml f) :=
  Encodes.intro (c := .m) (n := 0x51) (w1 := some (ML.word1 f)) (by rfl) (ML.opOf_word 0x51 f) (congrArg (fun g => some (Instr.ldAcqB64Ml g)) (ML.ofWords_word 0x51 f)) rfl

theorem Encodes.stRelB32Ml (f : ML) : Encodes.Statement (.stRelB32Ml f) :=
  Encodes.intro (c := .m) (n := 0x52) (w1 := some (ML.word1 f)) (by rfl) (ML.opOf_word 0x52 f) (congrArg (fun g => some (Instr.stRelB32Ml g)) (ML.ofWords_word 0x52 f)) rfl

theorem Encodes.stRelB64Ml (f : ML) : Encodes.Statement (.stRelB64Ml f) :=
  Encodes.intro (c := .m) (n := 0x53) (w1 := some (ML.word1 f)) (by rfl) (ML.opOf_word 0x53 f) (congrArg (fun g => some (Instr.stRelB64Ml g)) (ML.ofWords_word 0x53 f)) rfl

theorem Encodes.atAddB32Ml (f : ML) : Encodes.Statement (.atAddB32Ml f) :=
  Encodes.intro (c := .m) (n := 0x58) (w1 := some (ML.word1 f)) (by rfl) (ML.opOf_word 0x58 f) (congrArg (fun g => some (Instr.atAddB32Ml g)) (ML.ofWords_word 0x58 f)) rfl

theorem Encodes.atAddB64Ml (f : ML) : Encodes.Statement (.atAddB64Ml f) :=
  Encodes.intro (c := .m) (n := 0x59) (w1 := some (ML.word1 f)) (by rfl) (ML.opOf_word 0x59 f) (congrArg (fun g => some (Instr.atAddB64Ml g)) (ML.ofWords_word 0x59 f)) rfl

theorem Encodes.atMinI32Ml (f : ML) : Encodes.Statement (.atMinI32Ml f) :=
  Encodes.intro (c := .m) (n := 0x5A) (w1 := some (ML.word1 f)) (by rfl) (ML.opOf_word 0x5A f) (congrArg (fun g => some (Instr.atMinI32Ml g)) (ML.ofWords_word 0x5A f)) rfl

theorem Encodes.atMaxI32Ml (f : ML) : Encodes.Statement (.atMaxI32Ml f) :=
  Encodes.intro (c := .m) (n := 0x5B) (w1 := some (ML.word1 f)) (by rfl) (ML.opOf_word 0x5B f) (congrArg (fun g => some (Instr.atMaxI32Ml g)) (ML.ofWords_word 0x5B f)) rfl

theorem Encodes.atMinN32Ml (f : ML) : Encodes.Statement (.atMinN32Ml f) :=
  Encodes.intro (c := .m) (n := 0x5C) (w1 := some (ML.word1 f)) (by rfl) (ML.opOf_word 0x5C f) (congrArg (fun g => some (Instr.atMinN32Ml g)) (ML.ofWords_word 0x5C f)) rfl

theorem Encodes.atMaxN32Ml (f : ML) : Encodes.Statement (.atMaxN32Ml f) :=
  Encodes.intro (c := .m) (n := 0x5D) (w1 := some (ML.word1 f)) (by rfl) (ML.opOf_word 0x5D f) (congrArg (fun g => some (Instr.atMaxN32Ml g)) (ML.ofWords_word 0x5D f)) rfl

theorem Encodes.atAndB32Ml (f : ML) : Encodes.Statement (.atAndB32Ml f) :=
  Encodes.intro (c := .m) (n := 0x5E) (w1 := some (ML.word1 f)) (by rfl) (ML.opOf_word 0x5E f) (congrArg (fun g => some (Instr.atAndB32Ml g)) (ML.ofWords_word 0x5E f)) rfl

theorem Encodes.atOrB32Ml (f : ML) : Encodes.Statement (.atOrB32Ml f) :=
  Encodes.intro (c := .m) (n := 0x5F) (w1 := some (ML.word1 f)) (by rfl) (ML.opOf_word 0x5F f) (congrArg (fun g => some (Instr.atOrB32Ml g)) (ML.ofWords_word 0x5F f)) rfl

theorem Encodes.atXorB32Ml (f : ML) : Encodes.Statement (.atXorB32Ml f) :=
  Encodes.intro (c := .m) (n := 0x60) (w1 := some (ML.word1 f)) (by rfl) (ML.opOf_word 0x60 f) (congrArg (fun g => some (Instr.atXorB32Ml g)) (ML.ofWords_word 0x60 f)) rfl

theorem Encodes.atXchgB32Ml (f : ML) : Encodes.Statement (.atXchgB32Ml f) :=
  Encodes.intro (c := .m) (n := 0x61) (w1 := some (ML.word1 f)) (by rfl) (ML.opOf_word 0x61 f) (congrArg (fun g => some (Instr.atXchgB32Ml g)) (ML.ofWords_word 0x61 f)) rfl

theorem Encodes.atXchgB64Ml (f : ML) : Encodes.Statement (.atXchgB64Ml f) :=
  Encodes.intro (c := .m) (n := 0x62) (w1 := some (ML.word1 f)) (by rfl) (ML.opOf_word 0x62 f) (congrArg (fun g => some (Instr.atXchgB64Ml g)) (ML.ofWords_word 0x62 f)) rfl

theorem Encodes.atCasB32 (f : ML) : Encodes.Statement (.atCasB32 f) :=
  Encodes.intro (c := .m) (n := 0x23) (w1 := some (ML.word1 f)) (by rfl) (ML.opOf_word 0x23 f) (congrArg (fun g => some (Instr.atCasB32 g)) (ML.ofWords_word 0x23 f)) rfl

theorem Encodes.atCasB64 (f : ML) : Encodes.Statement (.atCasB64 f) :=
  Encodes.intro (c := .m) (n := 0x24) (w1 := some (ML.word1 f)) (by rfl) (ML.opOf_word 0x24 f) (congrArg (fun g => some (Instr.atCasB64 g)) (ML.ofWords_word 0x24 f)) rfl

theorem Encodes.atFaddF32Ml (f : ML) : Encodes.Statement (.atFaddF32Ml f) :=
  Encodes.intro (c := .m) (n := 0x65) (w1 := some (ML.word1 f)) (by rfl) (ML.opOf_word 0x65 f) (congrArg (fun g => some (Instr.atFaddF32Ml g)) (ML.ofWords_word 0x65 f)) rfl

theorem Encodes.redAddB32Ml (f : ML) : Encodes.Statement (.redAddB32Ml f) :=
  Encodes.intro (c := .m) (n := 0x68) (w1 := some (ML.word1 f)) (by rfl) (ML.opOf_word 0x68 f) (congrArg (fun g => some (Instr.redAddB32Ml g)) (ML.ofWords_word 0x68 f)) rfl

theorem Encodes.redAddB64Ml (f : ML) : Encodes.Statement (.redAddB64Ml f) :=
  Encodes.intro (c := .m) (n := 0x69) (w1 := some (ML.word1 f)) (by rfl) (ML.opOf_word 0x69 f) (congrArg (fun g => some (Instr.redAddB64Ml g)) (ML.ofWords_word 0x69 f)) rfl

theorem Encodes.redFaddF32Ml (f : ML) : Encodes.Statement (.redFaddF32Ml f) :=
  Encodes.intro (c := .m) (n := 0x6A) (w1 := some (ML.word1 f)) (by rfl) (ML.opOf_word 0x6A f) (congrArg (fun g => some (Instr.redFaddF32Ml g)) (ML.ofWords_word 0x6A f)) rfl

theorem Encodes.redHaddBf16x2Ml (f : ML) : Encodes.Statement (.redHaddBf16x2Ml f) :=
  Encodes.intro (c := .m) (n := 0x6B) (w1 := some (ML.word1 f)) (by rfl) (ML.opOf_word 0x6B f) (congrArg (fun g => some (Instr.redHaddBf16x2Ml g)) (ML.ofWords_word 0x6B f)) rfl

theorem Encodes.redFmaxF32Ml (f : ML) : Encodes.Statement (.redFmaxF32Ml f) :=
  Encodes.intro (c := .m) (n := 0x6C) (w1 := some (ML.word1 f)) (by rfl) (ML.opOf_word 0x6C f) (congrArg (fun g => some (Instr.redFmaxF32Ml g)) (ML.ofWords_word 0x6C f)) rfl

theorem Encodes.redFminF32Ml (f : ML) : Encodes.Statement (.redFminF32Ml f) :=
  Encodes.intro (c := .m) (n := 0x6D) (w1 := some (ML.word1 f)) (by rfl) (ML.opOf_word 0x6D f) (congrArg (fun g => some (Instr.redFminF32Ml g)) (ML.ofWords_word 0x6D f)) rfl

theorem Encodes.redMaxI32Ml (f : ML) : Encodes.Statement (.redMaxI32Ml f) :=
  Encodes.intro (c := .m) (n := 0x6E) (w1 := some (ML.word1 f)) (by rfl) (ML.opOf_word 0x6E f) (congrArg (fun g => some (Instr.redMaxI32Ml g)) (ML.ofWords_word 0x6E f)) rfl

theorem Encodes.redXadd (f : ML) : Encodes.Statement (.redXadd f) :=
  Encodes.intro (c := .m) (n := 0x2F) (w1 := some (ML.word1 f)) (by rfl) (ML.opOf_word 0x2F f) (congrArg (fun g => some (Instr.redXadd g)) (ML.ofWords_word 0x2F f)) rfl

theorem Encodes.pfMl (f : ML) : Encodes.Statement (.pfMl f) :=
  Encodes.intro (c := .m) (n := 0x78) (w1 := some (ML.word1 f)) (by rfl) (ML.opOf_word 0x78 f) (congrArg (fun g => some (Instr.pfMl g)) (ML.ofWords_word 0x78 f)) rfl

theorem Encodes.wStMl (f : ML) : Encodes.Statement (.wStMl f) :=
  Encodes.intro (c := .m) (n := 0x7B) (w1 := some (ML.word1 f)) (by rfl) (ML.opOf_word 0x7B f) (congrArg (fun g => some (Instr.wStMl g)) (ML.ofWords_word 0x7B f)) rfl

theorem Encodes.wLdMl (f : ML) : Encodes.Statement (.wLdMl f) :=
  Encodes.intro (c := .m) (n := 0x7C) (w1 := some (ML.word1 f)) (by rfl) (ML.opOf_word 0x7C f) (congrArg (fun g => some (Instr.wLdMl g)) (ML.ofWords_word 0x7C f)) rfl

theorem Encodes.fifoPushMl (f : ML) : Encodes.Statement (.fifoPushMl f) :=
  Encodes.intro (c := .m) (n := 0x7D) (w1 := some (ML.word1 f)) (by rfl) (ML.opOf_word 0x7D f) (congrArg (fun g => some (Instr.fifoPushMl g)) (ML.ofWords_word 0x7D f)) rfl

theorem Encodes.fifoPopMl (f : ML) : Encodes.Statement (.fifoPopMl f) :=
  Encodes.intro (c := .m) (n := 0x7E) (w1 := some (ML.word1 f)) (by rfl) (ML.opOf_word 0x7E f) (congrArg (fun g => some (Instr.fifoPopMl g)) (ML.ofWords_word 0x7E f)) rfl

theorem Encodes.pantryReadReturn (op : Nat) : Encodes.Statement (.pantryReadReturn op) := trivial

theorem Encodes.ringDoorbell (part q tail : Nat) : Encodes.Statement (.ringDoorbell part q tail) := trivial

theorem Encodes.controlRegisterWrite (part off : Nat) (v : W64) : Encodes.Statement (.controlRegisterWrite part off v) := trivial

theorem Encodes.hostRingRead (part q : Nat) : Encodes.Statement (.hostRingRead part q) := trivial

theorem Encodes.recordEligible (part q : Nat) : Encodes.Statement (.recordEligible part q) := trivial

theorem Encodes.dependentRecordDrop (part q : Nat) : Encodes.Statement (.dependentRecordDrop part q) := trivial

theorem Encodes.teamPlacement (part : Nat) : Encodes.Statement (.teamPlacement part) := trivial

theorem Encodes.preemption (t : TeamId) : Encodes.Statement (.preemption t) := trivial

theorem Encodes.teamResume (t : TeamId) : Encodes.Statement (.teamResume t) := trivial

theorem Encodes.saveReserveTimeout (part : Nat) : Encodes.Statement (.saveReserveTimeout part) := trivial

theorem Encodes.gridCompletion (g : GridId) : Encodes.Statement (.gridCompletion g) := trivial

theorem Encodes.loaderLoad (asid : Nat) (items : List LoadItem) : Encodes.Statement (.loaderLoad asid items) := trivial

theorem Encodes.loaderSubmit (asid prio : Nat) (rec : LaunchWords) : Encodes.Statement (.loaderSubmit asid prio rec) := trivial

theorem Encodes.activeSetEntry (g : GroupId) : Encodes.Statement (.activeSetEntry g) := trivial

theorem Encodes.activePlaceTimeout (g : GroupId) : Encodes.Statement (.activePlaceTimeout g) := trivial

theorem Encodes.joinRelease (g : GroupId) (meet : Nat) (depth : Nat) : Encodes.Statement (.joinRelease g meet depth) := trivial

theorem Encodes.forcedRelease (g : GroupId) (meet : Nat) (depth : Nat) : Encodes.Statement (.forcedRelease g meet depth) := trivial

theorem Encodes.hjoinComplete (g : GroupId) (rec : Nat) : Encodes.Statement (.hjoinComplete g rec) := trivial

theorem Encodes.jointOperationStart (g : GroupId) : Encodes.Statement (.jointOperationStart g) := trivial

theorem Encodes.jointOperationComplete (core run : Nat) : Encodes.Statement (.jointOperationComplete core run) := trivial

theorem Encodes.loadReturn (op : Nat) : Encodes.Statement (.loadReturn op) := trivial

theorem Encodes.accessAtHome (op part : Nat) : Encodes.Statement (.accessAtHome op part) := trivial

theorem Encodes.storeAck (op : Nat) : Encodes.Statement (.storeAck op) := trivial

theorem Encodes.atomicReturn (op : Nat) : Encodes.Statement (.atomicReturn op) := trivial

theorem Encodes.reservation (asid : Nat) : Encodes.Statement (.reservation asid) := trivial

theorem Encodes.settlement (asid block : Nat) : Encodes.Statement (.settlement asid block) := trivial

theorem Encodes.recall (op part : Nat) : Encodes.Statement (.recall op part) := trivial

theorem Encodes.monitorArmed (g : GroupId) : Encodes.Statement (.monitorArmed g) := trivial

theorem Encodes.sleepTimeout (g : GroupId) (cid : Nat) : Encodes.Statement (.sleepTimeout g cid) := trivial

theorem Encodes.reductionDrain (op part : Nat) : Encodes.Statement (.reductionDrain op part) := trivial

theorem Encodes.rdvPhaseRelease (t : TeamId) (n : Nat) : Encodes.Statement (.rdvPhaseRelease t n) := trivial

theorem Encodes.gbarPhaseComplete (g : GridId) (n : Nat) : Encodes.Statement (.gbarPhaseComplete g n) := trivial

theorem Encodes.fifoResume (g : GroupId) (cid : Nat) : Encodes.Statement (.fifoResume g cid) := trivial

theorem Encodes.bankModeSwitch (pair bank : Nat) : Encodes.Statement (.bankModeSwitch pair bank) := trivial

theorem Encodes.tenderChunkCommit (eng : Nat) : Encodes.Statement (.tenderChunkCommit eng) := trivial

theorem Encodes.engineOperationComplete (eng : Nat) : Encodes.Statement (.engineOperationComplete eng) := trivial

theorem Encodes.flitReceive (port : Nat) (flit : Flit) : Encodes.Statement (.flitReceive port flit) := trivial

theorem Encodes.engineStallRecovery (eng : Nat) : Encodes.Statement (.engineStallRecovery eng) := trivial

theorem Encodes.engineFailure (eng : Nat) : Encodes.Statement (.engineFailure eng) := trivial

theorem Encodes.pLdComplete (op : Nat) : Encodes.Statement (.pLdComplete op) := trivial

theorem Encodes.rowActivate (core entry : Nat) : Encodes.Statement (.rowActivate core entry) := trivial

theorem Encodes.rowOpenComplete (core entry : Nat) : Encodes.Statement (.rowOpenComplete core entry) := trivial

theorem Encodes.rowTakeComplete (core take : Nat) : Encodes.Statement (.rowTakeComplete core take) := trivial

theorem Encodes.prechargeStart (vault bank : Nat) : Encodes.Statement (.prechargeStart vault bank) := trivial

theorem Encodes.bankIdle (vault bank : Nat) : Encodes.Statement (.bankIdle vault bank) := trivial

theorem Encodes.rowMaxOpenExpiry (core entry : Nat) : Encodes.Statement (.rowMaxOpenExpiry core entry) := trivial

theorem Encodes.refreshSlotStart (vault bank : Nat) : Encodes.Statement (.refreshSlotStart vault bank) := trivial

theorem Encodes.refreshSlotEnd (vault bank : Nat) : Encodes.Statement (.refreshSlotEnd vault bank) := trivial

theorem Encodes.retrainAnnounce (vault ahead len : Nat) : Encodes.Statement (.retrainAnnounce vault ahead len) := trivial

theorem Encodes.retrainWindowStart (vault : Nat) : Encodes.Statement (.retrainWindowStart vault) := trivial

theorem Encodes.retrainWindowEnd (vault : Nat) : Encodes.Statement (.retrainWindowEnd vault) := trivial

theorem Encodes.faultRecordWrite (g : GroupId) : Encodes.Statement (.faultRecordWrite g) := trivial

theorem Encodes.faultQueueRoom (asid : Nat) : Encodes.Statement (.faultQueueRoom asid) := trivial

theorem Encodes.spillAreaAppend (asid : Nat) : Encodes.Statement (.spillAreaAppend asid) := trivial

theorem Encodes.resume (asid rec : Nat) : Encodes.Statement (.resume asid rec) := trivial

theorem Encodes.resumeAt (asid rec : Nat) : Encodes.Statement (.resumeAt asid rec) := trivial

theorem Encodes.killTeam (asid rec : Nat) : Encodes.Statement (.killTeam asid rec) := trivial

theorem Encodes.relaunchTeam (asid rec : Nat) : Encodes.Statement (.relaunchTeam asid rec) := trivial

theorem Encodes.backingRegionRecovery (asid rec : Nat) : Encodes.Statement (.backingRegionRecovery asid rec) := trivial

theorem Encodes.capacityRecovery (asid rec : Nat) : Encodes.Statement (.capacityRecovery asid rec) := trivial

theorem Encodes.balloonWaitExpiry (asid rec : Nat) : Encodes.Statement (.balloonWaitExpiry asid rec) := trivial

theorem Encodes.topUp (asid : Nat) : Encodes.Statement (.topUp asid) := trivial

theorem Encodes.eventAppend (asid q : Nat) : Encodes.Statement (.eventAppend asid q) := trivial

theorem Encodes.powerOnBoot (img : BootImage) : Encodes.Statement (.powerOnBoot img) := trivial

theorem Encodes.startStageAdvance (coldest : Int) : Encodes.Statement (.startStageAdvance coldest) := trivial

theorem Encodes.clockGovernorStep (tile : Nat) (up : Bool) : Encodes.Statement (.clockGovernorStep tile up) := trivial

theorem Encodes.getMeasurements : Encodes.Statement (.getMeasurements) := trivial

theorem Encodes.spdmSecureSession : Encodes.Statement (.spdmSecureSession) := trivial

theorem Encodes.contextCreate (req : ContextRequest) : Encodes.Statement (.contextCreate req) := trivial

theorem Encodes.protectedContextCreate (req : ContextRequest) : Encodes.Statement (.protectedContextCreate req) := trivial

theorem Encodes.contextTeardown (asid : Nat) : Encodes.Statement (.contextTeardown asid) := trivial

theorem Encodes.scrubSector (part : Nat) : Encodes.Statement (.scrubSector part) := trivial

theorem Encodes.rankSetWrite (part idx : Nat) (entry : RankSet) : Encodes.Statement (.rankSetWrite part idx entry) := trivial

theorem Encodes.descriptorChange (asid level pre : Nat) (desc : W64) : Encodes.Statement (.descriptorChange asid level pre desc) := trivial

theorem Encodes.pageMap (asid va : Nat) (desc : W64) : Encodes.Statement (.pageMap asid va desc) := trivial

theorem Encodes.synonymRegister (part : Nat) (syn : Synonym) : Encodes.Statement (.synonymRegister part syn) := trivial

theorem Encodes.scrubberPass (vault bank errs : Nat) : Encodes.Statement (.scrubberPass vault bank errs) := trivial

theorem Encodes.eccUpgrade (vault bank : Nat) : Encodes.Statement (.eccUpgrade vault bank) := trivial

theorem Encodes.stage1Timeout : Encodes.Statement (.stage1Timeout) := trivial

theorem Encodes.vaultTrainingFailure (vault : Nat) : Encodes.Statement (.vaultTrainingFailure vault) := trivial

theorem Encodes.bootRetry : Encodes.Statement (.bootRetry) := trivial

theorem Encodes.timingEdgeMiss (tile : Nat) : Encodes.Statement (.timingEdgeMiss tile) := trivial

theorem Encodes.retrainingFailure (vault : Nat) : Encodes.Statement (.retrainingFailure vault) := trivial

theorem Encodes.overtemperature (deg : Int) : Encodes.Statement (.overtemperature deg) := trivial

theorem Encodes.portRetrainFailure (port : Nat) : Encodes.Statement (.portRetrainFailure port) := trivial

theorem Encodes.undecodableWord (err : WordFault) : Encodes.Statement (.undecodableWord err) := trivial

theorem Encodes.deviceReset : Encodes.Statement (.deviceReset) := trivial

theorem Encodes.deviceInterfaceLock (vf : Nat) : Encodes.Statement (.deviceInterfaceLock vf) := trivial

theorem Encodes.ownerKeyEnrolment (digest : List Byte) : Encodes.Statement (.ownerKeyEnrolment digest) := trivial

theorem Encodes.ilurosLinkRetraining (port : Nat) (regained : Bool) : Encodes.Statement (.ilurosLinkRetraining port regained) := trivial

end Sys2Proof.Laws
end

