-- ==== Sys2Proof/Laws/Slice.lean ====
section
/-! SUPPORT. Laws/Slice.lean: what the cache path of a slice can change: contexts' accounts, and vaults with their lines
(05_memory R120, R128; 06_compression R144). -/

namespace Sys2Proof.Machine

/-- Two states that differ in contexts and vaults at most. -/
def State.SameButStores (s t : State) : Prop := t = { s with ctxs := t.ctxs, vaults := t.vaults }

namespace State.SameButStores
theorem refl (s : State) : s.SameButStores s := rfl
theorem trans {s t u : State} (h : s.SameButStores t) (k : t.SameButStores u) : s.SameButStores u := by
  unfold SameButStores at *; rw [k, h]
theorem mem {s t : State} (h : s.SameButStores t) : t.mem = s.mem := by rw [h]
theorem hostMem {s t : State} (h : s.SameButStores t) : t.hostMem = s.hostMem := by rw [h]
theorem groups {s t : State} (h : s.SameButStores t) : t.groups = s.groups := by rw [h]
theorem teams {s t : State} (h : s.SameButStores t) : t.teams = s.teams := by rw [h]
theorem grids {s t : State} (h : s.SameButStores t) : t.grids = s.grids := by rw [h]
theorem ops {s t : State} (h : s.SameButStores t) : t.ops = s.ops := by rw [h]
theorem engs {s t : State} (h : s.SameButStores t) : t.engs = s.engs := by rw [h]
theorem pairs {s t : State} (h : s.SameButStores t) : t.pairs = s.pairs := by rw [h]
end State.SameButStores

/-- What has the same answer whatever way a choice goes is the same however it goes. -/
theorem same_ite {s t u : State} {p : Prop} [Decidable p] (h : s.SameButStores t) (k : s.SameButStores u) :
    s.SameButStores (if p then t else u) := by split <;> assumption

theorem putCtx_same (s : State) (c : Context) : s.SameButStores (s.putCtx c) := rfl
theorem putVault_same (s : State) (n : Nat) (v : Vault) : s.SameButStores (s.putVault n v) := rfl
theorem freeRun_same (s : State) (v first : Nat) : s.SameButStores (s.freeRun v first) := rfl
theorem allocRun_same (s : State) (v n : Nat) : s.SameButStores (s.allocRun v n).1 := rfl
theorem dropL2_same (s : State) (home asid block : Nat) : s.SameButStores (s.dropL2 home asid block) :=
  same_ite (putVault_same ..) (State.SameButStores.refl s)
theorem cleanL2_same (s : State) (home asid block : Nat) : s.SameButStores (s.cleanL2 home asid block) := by
  unfold State.cleanL2; split
  · exact State.SameButStores.refl s
  · exact putVault_same ..
theorem credit_same (s : State) (asid n : Nat) : s.SameButStores (s.credit asid n) := by
  unfold State.credit; split
  · exact State.SameButStores.refl s
  · exact putCtx_same ..
theorem post_same (s : State) (asid : Nat) (f : FaultRec) : s.SameButStores (s.post asid f) := by
  unfold State.post; split
  · exact State.SameButStores.refl s
  · exact putCtx_same ..

/-- R144: a settlement changes accounts, entries, runs and the line. -/
theorem settle_same (s : State) (asid block : Nat) : s.SameButStores (s.settle asid block).1 := by
  unfold State.settle
  dsimp only
  split
  · exact State.SameButStores.refl s
  split
  · exact State.SameButStores.refl s
  have hr : ∀ (d : Dirty) (e : MapEntry) (home n x : Nat) (p q : Prop) [Decidable p] [Decidable q],
      s.SameButStores (if p then (s, e.loc) else
        (if d.owned != 0 then (if q then s.allocRun home n else (s, x)).1.freeRun home e.loc
          else (if q then s.allocRun home n else (s, x)).1, (if q then s.allocRun home n else (s, x)).2)).1 := by
    intro d e home n x p q _ _
    split
    · exact State.SameButStores.refl s
    have ha : s.SameButStores (if q then s.allocRun home n else (s, x)).1 := by
      split
      · exact allocRun_same ..
      · exact State.SameButStores.refl s
    exact same_ite (ha.trans (freeRun_same ..)) ha
  split
  · exact hr ..
  · exact (hr ..).trans ((putCtx_same ..).trans ((credit_same ..).trans (cleanL2_same ..)))

/-- R144, R387: and the record of an error it reveals. -/
theorem settleLine_same (s : State) (asid block : Nat) : s.SameButStores (s.settleLine asid block) :=
  same_ite ((settle_same ..).trans (post_same ..)) (settle_same ..)

theorem evict_same (s : State) (home : Nat) (l : L2Line) : s.SameButStores (s.evict home l) := by
  have h := (settleLine_same s l.asid l.block).trans (dropL2_same _ home l.asid l.block)
  unfold State.evict; dsimp only; split
  · exact h
  · exact same_ite (h.trans (putCtx_same ..)) h

/-- R120: a line placed, and the line it replaces given up. -/
theorem addL2_same (s : State) (home asid block : Nat) (valid dirty : BitVec 8) :
    s.SameButStores (s.addL2 home asid block valid dirty) := by
  unfold State.addL2; dsimp only
  refine State.SameButStores.trans ?_ (putVault_same ..)
  split
  · exact State.SameButStores.refl s
  split
  · exact State.SameButStores.refl s
  · exact evict_same ..

theorem wroteL2_same (s : State) (asid va n : Nat) : s.SameButStores (s.wroteL2 asid va n) := addL2_same ..

/-- R140: a share broken changes the entry and the share table. -/
theorem breakShare_same (s : State) (asid block home : Nat) : s.SameButStores (s.breakShare asid block home).1 := by
  unfold State.breakShare; split
  · exact State.SameButStores.refl s
  dsimp only; split
  · exact State.SameButStores.refl s
  split
  · exact putCtx_same ..
  · split <;> exact (putCtx_same ..).trans (putVault_same ..)

/-- R142: a line made dirty changes accounts, entries and lines. -/
theorem makeDirty_same (s : State) (asid block home need : Nat) : s.SameButStores (s.makeDirty asid block home need) := by
  have h := (addL2_same s home asid block 0 0).trans (breakShare_same _ asid block home)
  unfold State.makeDirty; dsimp only; split
  · exact h
  · exact h.trans (putCtx_same ..)

theorem noteHeld_same (s : State) (vault b id : Nat) (on : Bool) : s.SameButStores (s.noteHeld vault b id on) :=
  same_ite (State.SameButStores.refl s) (putVault_same ..)

theorem settleReach_same (s : State) (asid block id : Nat) : s.SameButStores (s.settleReach asid block id).1 := by
  unfold State.settleReach; dsimp only; split
  · exact State.SameButStores.refl s
  · exact same_ite (noteHeld_same ..) (State.SameButStores.refl s)

theorem room_same (s : State) (asid block id : Nat) : s.SameButStores (s.room asid block id).1 := by
  unfold State.room; dsimp only; split
  · exact State.SameButStores.refl s
  · exact settleReach_same ..

theorem bring_same (s : State) (asid va n : Nat) (wr : Bool) : s.SameButStores (s.bring asid va n wr) := by
  unfold State.bring; dsimp only; split
  · exact State.SameButStores.refl s
  have h := addL2_same s (s.home asid va) asid (va / lineBytes) (wanted va n wr) 0
  split
  · exact h
  · exact same_ite (h.trans (putCtx_same ..)) h

/-- R128 to R130: an access that reaches its slice, or waits for its bank, changes no byte and no register. -/
theorem reach_same (s : State) (asid va n : Nat) (wr : Bool) (id : Nat) : s.SameButStores (s.reach asid va n wr id).1 := by
  unfold State.reach; dsimp only; split
  · exact room_same ..
  split
  · exact bring_same ..
  split
  · exact (noteHeld_same ..).trans (bring_same ..)
  · exact State.SameButStores.refl s
  · exact noteHeld_same ..

theorem reachAll_same (s : State) (id : Nat) (l : List (Nat × Nat × Nat × Bool)) : s.SameButStores (s.reachAll id l).1 := by
  have h : ∀ (l : List (Nat × Nat × Nat × Bool)) (r : State × Bool), s.SameButStores r.1 →
      s.SameButStores (l.foldl (fun r p => if r.2 then r.1.reach p.1 p.2.1 p.2.2.1 p.2.2.2 id else r) r).1 := by
    intro l; induction l with
    | nil => intro r h; exact h
    | cons p rest ih =>
      intro r h; refine ih _ ?_; dsimp only; split
      · exact h.trans (reach_same ..)
      · exact h
  exact h l (s, true) (State.SameButStores.refl s)

end Sys2Proof.Machine
end

