-- ==== Sys2Proof/Laws/State.lean ====
section
/-! SUPPORT. Laws/State.lean: what each named update of the state and of a group leaves in every field, and what the
lookups answer after it. -/

namespace Sys2Proof.Machine

/-! ## `putGroup` writes `groups` -/

@[simp] theorem putGroup_time (s : State) (g : Group) : (s.putGroup g).time = s.time := rfl
@[simp] theorem putGroup_stage (s : State) (g : Group) : (s.putGroup g).stage = s.stage := rfl
@[simp] theorem putGroup_bootStep (s : State) (g : Group) : (s.putGroup g).bootStep = s.bootStep := rfl
@[simp] theorem putGroup_bootTime (s : State) (g : Group) : (s.putGroup g).bootTime = s.bootTime := rfl
@[simp] theorem putGroup_measurements (s : State) (g : Group) : (s.putGroup g).measurements = s.measurements := rfl
@[simp] theorem putGroup_spdm (s : State) (g : Group) : (s.putGroup g).spdm = s.spdm := rfl
@[simp] theorem putGroup_locked (s : State) (g : Group) : (s.putGroup g).locked = s.locked := rfl
@[simp] theorem putGroup_flash (s : State) (g : Group) : (s.putGroup g).flash = s.flash := rfl
@[simp] theorem putGroup_keys (s : State) (g : Group) : (s.putGroup g).keys = s.keys := rfl
@[simp] theorem putGroup_ports (s : State) (g : Group) : (s.putGroup g).ports = s.ports := rfl
@[simp] theorem putGroup_reports (s : State) (g : Group) : (s.putGroup g).reports = s.reports := rfl
@[simp] theorem putGroup_dead (s : State) (g : Group) : (s.putGroup g).dead = s.dead := rfl
@[simp] theorem putGroup_hot (s : State) (g : Group) : (s.putGroup g).hot = s.hot := rfl
@[simp] theorem putGroup_above30 (s : State) (g : Group) : (s.putGroup g).above30 = s.above30 := rfl
@[simp] theorem putGroup_slot (s : State) (g : Group) : (s.putGroup g).slot = s.slot := rfl
@[simp] theorem putGroup_macOffset (s : State) (g : Group) : (s.putGroup g).macOffset = s.macOffset := rfl
@[simp] theorem putGroup_stretched (s : State) (g : Group) : (s.putGroup g).stretched = s.stretched := rfl
@[simp] theorem putGroup_tiles (s : State) (g : Group) : (s.putGroup g).tiles = s.tiles := rfl
@[simp] theorem putGroup_parts (s : State) (g : Group) : (s.putGroup g).parts = s.parts := rfl
@[simp] theorem putGroup_ctxs (s : State) (g : Group) : (s.putGroup g).ctxs = s.ctxs := rfl
@[simp] theorem putGroup_grids (s : State) (g : Group) : (s.putGroup g).grids = s.grids := rfl
@[simp] theorem putGroup_teams (s : State) (g : Group) : (s.putGroup g).teams = s.teams := rfl
@[simp] theorem putGroup_ops (s : State) (g : Group) : (s.putGroup g).ops = s.ops := rfl
@[simp] theorem putGroup_engs (s : State) (g : Group) : (s.putGroup g).engs = s.engs := rfl
@[simp] theorem putGroup_cores (s : State) (g : Group) : (s.putGroup g).cores = s.cores := rfl
@[simp] theorem putGroup_pairs (s : State) (g : Group) : (s.putGroup g).pairs = s.pairs := rfl
@[simp] theorem putGroup_vaults (s : State) (g : Group) : (s.putGroup g).vaults = s.vaults := rfl
@[simp] theorem putGroup_mem (s : State) (g : Group) : (s.putGroup g).mem = s.mem := rfl
@[simp] theorem putGroup_hostMem (s : State) (g : Group) : (s.putGroup g).hostMem = s.hostMem := rfl
@[simp] theorem putGroup_nextId (s : State) (g : Group) : (s.putGroup g).nextId = s.nextId := rfl
@[simp] theorem putGroup_nextRound (s : State) (g : Group) : (s.putGroup g).nextRound = s.nextRound := rfl
@[simp] theorem putGroup_cur (s : State) (g : Group) : (s.putGroup g).cur = s.cur := rfl
@[simp] theorem putGroup_agenda (s : State) (g : Group) : (s.putGroup g).agenda = s.agenda := rfl
@[simp] theorem putGroup_tick (s : State) (g : Group) : (s.putGroup g).tick = s.tick := rfl

/-! ## `putTeam` writes `teams` -/

@[simp] theorem putTeam_time (s : State) (t : Team) : (s.putTeam t).time = s.time := rfl
@[simp] theorem putTeam_stage (s : State) (t : Team) : (s.putTeam t).stage = s.stage := rfl
@[simp] theorem putTeam_bootStep (s : State) (t : Team) : (s.putTeam t).bootStep = s.bootStep := rfl
@[simp] theorem putTeam_bootTime (s : State) (t : Team) : (s.putTeam t).bootTime = s.bootTime := rfl
@[simp] theorem putTeam_measurements (s : State) (t : Team) : (s.putTeam t).measurements = s.measurements := rfl
@[simp] theorem putTeam_spdm (s : State) (t : Team) : (s.putTeam t).spdm = s.spdm := rfl
@[simp] theorem putTeam_locked (s : State) (t : Team) : (s.putTeam t).locked = s.locked := rfl
@[simp] theorem putTeam_flash (s : State) (t : Team) : (s.putTeam t).flash = s.flash := rfl
@[simp] theorem putTeam_keys (s : State) (t : Team) : (s.putTeam t).keys = s.keys := rfl
@[simp] theorem putTeam_ports (s : State) (t : Team) : (s.putTeam t).ports = s.ports := rfl
@[simp] theorem putTeam_reports (s : State) (t : Team) : (s.putTeam t).reports = s.reports := rfl
@[simp] theorem putTeam_dead (s : State) (t : Team) : (s.putTeam t).dead = s.dead := rfl
@[simp] theorem putTeam_hot (s : State) (t : Team) : (s.putTeam t).hot = s.hot := rfl
@[simp] theorem putTeam_above30 (s : State) (t : Team) : (s.putTeam t).above30 = s.above30 := rfl
@[simp] theorem putTeam_slot (s : State) (t : Team) : (s.putTeam t).slot = s.slot := rfl
@[simp] theorem putTeam_macOffset (s : State) (t : Team) : (s.putTeam t).macOffset = s.macOffset := rfl
@[simp] theorem putTeam_stretched (s : State) (t : Team) : (s.putTeam t).stretched = s.stretched := rfl
@[simp] theorem putTeam_tiles (s : State) (t : Team) : (s.putTeam t).tiles = s.tiles := rfl
@[simp] theorem putTeam_parts (s : State) (t : Team) : (s.putTeam t).parts = s.parts := rfl
@[simp] theorem putTeam_ctxs (s : State) (t : Team) : (s.putTeam t).ctxs = s.ctxs := rfl
@[simp] theorem putTeam_grids (s : State) (t : Team) : (s.putTeam t).grids = s.grids := rfl
@[simp] theorem putTeam_groups (s : State) (t : Team) : (s.putTeam t).groups = s.groups := rfl
@[simp] theorem putTeam_ops (s : State) (t : Team) : (s.putTeam t).ops = s.ops := rfl
@[simp] theorem putTeam_engs (s : State) (t : Team) : (s.putTeam t).engs = s.engs := rfl
@[simp] theorem putTeam_cores (s : State) (t : Team) : (s.putTeam t).cores = s.cores := rfl
@[simp] theorem putTeam_pairs (s : State) (t : Team) : (s.putTeam t).pairs = s.pairs := rfl
@[simp] theorem putTeam_vaults (s : State) (t : Team) : (s.putTeam t).vaults = s.vaults := rfl
@[simp] theorem putTeam_mem (s : State) (t : Team) : (s.putTeam t).mem = s.mem := rfl
@[simp] theorem putTeam_hostMem (s : State) (t : Team) : (s.putTeam t).hostMem = s.hostMem := rfl
@[simp] theorem putTeam_nextId (s : State) (t : Team) : (s.putTeam t).nextId = s.nextId := rfl
@[simp] theorem putTeam_nextRound (s : State) (t : Team) : (s.putTeam t).nextRound = s.nextRound := rfl
@[simp] theorem putTeam_cur (s : State) (t : Team) : (s.putTeam t).cur = s.cur := rfl
@[simp] theorem putTeam_agenda (s : State) (t : Team) : (s.putTeam t).agenda = s.agenda := rfl
@[simp] theorem putTeam_tick (s : State) (t : Team) : (s.putTeam t).tick = s.tick := rfl

/-! ## `putGrid` writes `grids` -/

@[simp] theorem putGrid_time (s : State) (g : Grid) : (s.putGrid g).time = s.time := rfl
@[simp] theorem putGrid_stage (s : State) (g : Grid) : (s.putGrid g).stage = s.stage := rfl
@[simp] theorem putGrid_bootStep (s : State) (g : Grid) : (s.putGrid g).bootStep = s.bootStep := rfl
@[simp] theorem putGrid_bootTime (s : State) (g : Grid) : (s.putGrid g).bootTime = s.bootTime := rfl
@[simp] theorem putGrid_measurements (s : State) (g : Grid) : (s.putGrid g).measurements = s.measurements := rfl
@[simp] theorem putGrid_spdm (s : State) (g : Grid) : (s.putGrid g).spdm = s.spdm := rfl
@[simp] theorem putGrid_locked (s : State) (g : Grid) : (s.putGrid g).locked = s.locked := rfl
@[simp] theorem putGrid_flash (s : State) (g : Grid) : (s.putGrid g).flash = s.flash := rfl
@[simp] theorem putGrid_keys (s : State) (g : Grid) : (s.putGrid g).keys = s.keys := rfl
@[simp] theorem putGrid_ports (s : State) (g : Grid) : (s.putGrid g).ports = s.ports := rfl
@[simp] theorem putGrid_reports (s : State) (g : Grid) : (s.putGrid g).reports = s.reports := rfl
@[simp] theorem putGrid_dead (s : State) (g : Grid) : (s.putGrid g).dead = s.dead := rfl
@[simp] theorem putGrid_hot (s : State) (g : Grid) : (s.putGrid g).hot = s.hot := rfl
@[simp] theorem putGrid_above30 (s : State) (g : Grid) : (s.putGrid g).above30 = s.above30 := rfl
@[simp] theorem putGrid_slot (s : State) (g : Grid) : (s.putGrid g).slot = s.slot := rfl
@[simp] theorem putGrid_macOffset (s : State) (g : Grid) : (s.putGrid g).macOffset = s.macOffset := rfl
@[simp] theorem putGrid_stretched (s : State) (g : Grid) : (s.putGrid g).stretched = s.stretched := rfl
@[simp] theorem putGrid_tiles (s : State) (g : Grid) : (s.putGrid g).tiles = s.tiles := rfl
@[simp] theorem putGrid_parts (s : State) (g : Grid) : (s.putGrid g).parts = s.parts := rfl
@[simp] theorem putGrid_ctxs (s : State) (g : Grid) : (s.putGrid g).ctxs = s.ctxs := rfl
@[simp] theorem putGrid_teams (s : State) (g : Grid) : (s.putGrid g).teams = s.teams := rfl
@[simp] theorem putGrid_groups (s : State) (g : Grid) : (s.putGrid g).groups = s.groups := rfl
@[simp] theorem putGrid_ops (s : State) (g : Grid) : (s.putGrid g).ops = s.ops := rfl
@[simp] theorem putGrid_engs (s : State) (g : Grid) : (s.putGrid g).engs = s.engs := rfl
@[simp] theorem putGrid_cores (s : State) (g : Grid) : (s.putGrid g).cores = s.cores := rfl
@[simp] theorem putGrid_pairs (s : State) (g : Grid) : (s.putGrid g).pairs = s.pairs := rfl
@[simp] theorem putGrid_vaults (s : State) (g : Grid) : (s.putGrid g).vaults = s.vaults := rfl
@[simp] theorem putGrid_mem (s : State) (g : Grid) : (s.putGrid g).mem = s.mem := rfl
@[simp] theorem putGrid_hostMem (s : State) (g : Grid) : (s.putGrid g).hostMem = s.hostMem := rfl
@[simp] theorem putGrid_nextId (s : State) (g : Grid) : (s.putGrid g).nextId = s.nextId := rfl
@[simp] theorem putGrid_nextRound (s : State) (g : Grid) : (s.putGrid g).nextRound = s.nextRound := rfl
@[simp] theorem putGrid_cur (s : State) (g : Grid) : (s.putGrid g).cur = s.cur := rfl
@[simp] theorem putGrid_agenda (s : State) (g : Grid) : (s.putGrid g).agenda = s.agenda := rfl
@[simp] theorem putGrid_tick (s : State) (g : Grid) : (s.putGrid g).tick = s.tick := rfl

/-! ## `putCtx` writes `ctxs` -/

@[simp] theorem putCtx_time (s : State) (c : Context) : (s.putCtx c).time = s.time := rfl
@[simp] theorem putCtx_stage (s : State) (c : Context) : (s.putCtx c).stage = s.stage := rfl
@[simp] theorem putCtx_bootStep (s : State) (c : Context) : (s.putCtx c).bootStep = s.bootStep := rfl
@[simp] theorem putCtx_bootTime (s : State) (c : Context) : (s.putCtx c).bootTime = s.bootTime := rfl
@[simp] theorem putCtx_measurements (s : State) (c : Context) : (s.putCtx c).measurements = s.measurements := rfl
@[simp] theorem putCtx_spdm (s : State) (c : Context) : (s.putCtx c).spdm = s.spdm := rfl
@[simp] theorem putCtx_locked (s : State) (c : Context) : (s.putCtx c).locked = s.locked := rfl
@[simp] theorem putCtx_flash (s : State) (c : Context) : (s.putCtx c).flash = s.flash := rfl
@[simp] theorem putCtx_keys (s : State) (c : Context) : (s.putCtx c).keys = s.keys := rfl
@[simp] theorem putCtx_ports (s : State) (c : Context) : (s.putCtx c).ports = s.ports := rfl
@[simp] theorem putCtx_reports (s : State) (c : Context) : (s.putCtx c).reports = s.reports := rfl
@[simp] theorem putCtx_dead (s : State) (c : Context) : (s.putCtx c).dead = s.dead := rfl
@[simp] theorem putCtx_hot (s : State) (c : Context) : (s.putCtx c).hot = s.hot := rfl
@[simp] theorem putCtx_above30 (s : State) (c : Context) : (s.putCtx c).above30 = s.above30 := rfl
@[simp] theorem putCtx_slot (s : State) (c : Context) : (s.putCtx c).slot = s.slot := rfl
@[simp] theorem putCtx_macOffset (s : State) (c : Context) : (s.putCtx c).macOffset = s.macOffset := rfl
@[simp] theorem putCtx_stretched (s : State) (c : Context) : (s.putCtx c).stretched = s.stretched := rfl
@[simp] theorem putCtx_tiles (s : State) (c : Context) : (s.putCtx c).tiles = s.tiles := rfl
@[simp] theorem putCtx_parts (s : State) (c : Context) : (s.putCtx c).parts = s.parts := rfl
@[simp] theorem putCtx_grids (s : State) (c : Context) : (s.putCtx c).grids = s.grids := rfl
@[simp] theorem putCtx_teams (s : State) (c : Context) : (s.putCtx c).teams = s.teams := rfl
@[simp] theorem putCtx_groups (s : State) (c : Context) : (s.putCtx c).groups = s.groups := rfl
@[simp] theorem putCtx_ops (s : State) (c : Context) : (s.putCtx c).ops = s.ops := rfl
@[simp] theorem putCtx_engs (s : State) (c : Context) : (s.putCtx c).engs = s.engs := rfl
@[simp] theorem putCtx_cores (s : State) (c : Context) : (s.putCtx c).cores = s.cores := rfl
@[simp] theorem putCtx_pairs (s : State) (c : Context) : (s.putCtx c).pairs = s.pairs := rfl
@[simp] theorem putCtx_vaults (s : State) (c : Context) : (s.putCtx c).vaults = s.vaults := rfl
@[simp] theorem putCtx_mem (s : State) (c : Context) : (s.putCtx c).mem = s.mem := rfl
@[simp] theorem putCtx_hostMem (s : State) (c : Context) : (s.putCtx c).hostMem = s.hostMem := rfl
@[simp] theorem putCtx_nextId (s : State) (c : Context) : (s.putCtx c).nextId = s.nextId := rfl
@[simp] theorem putCtx_nextRound (s : State) (c : Context) : (s.putCtx c).nextRound = s.nextRound := rfl
@[simp] theorem putCtx_cur (s : State) (c : Context) : (s.putCtx c).cur = s.cur := rfl
@[simp] theorem putCtx_agenda (s : State) (c : Context) : (s.putCtx c).agenda = s.agenda := rfl
@[simp] theorem putCtx_tick (s : State) (c : Context) : (s.putCtx c).tick = s.tick := rfl

/-! ## `putPart` writes `parts` -/

@[simp] theorem putPart_time (s : State) (n : Nat) (p : Partition) : (s.putPart n p).time = s.time := rfl
@[simp] theorem putPart_stage (s : State) (n : Nat) (p : Partition) : (s.putPart n p).stage = s.stage := rfl
@[simp] theorem putPart_bootStep (s : State) (n : Nat) (p : Partition) : (s.putPart n p).bootStep = s.bootStep := rfl
@[simp] theorem putPart_bootTime (s : State) (n : Nat) (p : Partition) : (s.putPart n p).bootTime = s.bootTime := rfl
@[simp] theorem putPart_measurements (s : State) (n : Nat) (p : Partition) : (s.putPart n p).measurements = s.measurements := rfl
@[simp] theorem putPart_spdm (s : State) (n : Nat) (p : Partition) : (s.putPart n p).spdm = s.spdm := rfl
@[simp] theorem putPart_locked (s : State) (n : Nat) (p : Partition) : (s.putPart n p).locked = s.locked := rfl
@[simp] theorem putPart_flash (s : State) (n : Nat) (p : Partition) : (s.putPart n p).flash = s.flash := rfl
@[simp] theorem putPart_keys (s : State) (n : Nat) (p : Partition) : (s.putPart n p).keys = s.keys := rfl
@[simp] theorem putPart_ports (s : State) (n : Nat) (p : Partition) : (s.putPart n p).ports = s.ports := rfl
@[simp] theorem putPart_reports (s : State) (n : Nat) (p : Partition) : (s.putPart n p).reports = s.reports := rfl
@[simp] theorem putPart_dead (s : State) (n : Nat) (p : Partition) : (s.putPart n p).dead = s.dead := rfl
@[simp] theorem putPart_hot (s : State) (n : Nat) (p : Partition) : (s.putPart n p).hot = s.hot := rfl
@[simp] theorem putPart_above30 (s : State) (n : Nat) (p : Partition) : (s.putPart n p).above30 = s.above30 := rfl
@[simp] theorem putPart_slot (s : State) (n : Nat) (p : Partition) : (s.putPart n p).slot = s.slot := rfl
@[simp] theorem putPart_macOffset (s : State) (n : Nat) (p : Partition) : (s.putPart n p).macOffset = s.macOffset := rfl
@[simp] theorem putPart_stretched (s : State) (n : Nat) (p : Partition) : (s.putPart n p).stretched = s.stretched := rfl
@[simp] theorem putPart_tiles (s : State) (n : Nat) (p : Partition) : (s.putPart n p).tiles = s.tiles := rfl
@[simp] theorem putPart_ctxs (s : State) (n : Nat) (p : Partition) : (s.putPart n p).ctxs = s.ctxs := rfl
@[simp] theorem putPart_grids (s : State) (n : Nat) (p : Partition) : (s.putPart n p).grids = s.grids := rfl
@[simp] theorem putPart_teams (s : State) (n : Nat) (p : Partition) : (s.putPart n p).teams = s.teams := rfl
@[simp] theorem putPart_groups (s : State) (n : Nat) (p : Partition) : (s.putPart n p).groups = s.groups := rfl
@[simp] theorem putPart_ops (s : State) (n : Nat) (p : Partition) : (s.putPart n p).ops = s.ops := rfl
@[simp] theorem putPart_engs (s : State) (n : Nat) (p : Partition) : (s.putPart n p).engs = s.engs := rfl
@[simp] theorem putPart_cores (s : State) (n : Nat) (p : Partition) : (s.putPart n p).cores = s.cores := rfl
@[simp] theorem putPart_pairs (s : State) (n : Nat) (p : Partition) : (s.putPart n p).pairs = s.pairs := rfl
@[simp] theorem putPart_vaults (s : State) (n : Nat) (p : Partition) : (s.putPart n p).vaults = s.vaults := rfl
@[simp] theorem putPart_mem (s : State) (n : Nat) (p : Partition) : (s.putPart n p).mem = s.mem := rfl
@[simp] theorem putPart_hostMem (s : State) (n : Nat) (p : Partition) : (s.putPart n p).hostMem = s.hostMem := rfl
@[simp] theorem putPart_nextId (s : State) (n : Nat) (p : Partition) : (s.putPart n p).nextId = s.nextId := rfl
@[simp] theorem putPart_nextRound (s : State) (n : Nat) (p : Partition) : (s.putPart n p).nextRound = s.nextRound := rfl
@[simp] theorem putPart_cur (s : State) (n : Nat) (p : Partition) : (s.putPart n p).cur = s.cur := rfl
@[simp] theorem putPart_agenda (s : State) (n : Nat) (p : Partition) : (s.putPart n p).agenda = s.agenda := rfl
@[simp] theorem putPart_tick (s : State) (n : Nat) (p : Partition) : (s.putPart n p).tick = s.tick := rfl

/-! ## `putCore` writes `cores` -/

@[simp] theorem putCore_time (s : State) (n : Nat) (c : Core) : (s.putCore n c).time = s.time := rfl
@[simp] theorem putCore_stage (s : State) (n : Nat) (c : Core) : (s.putCore n c).stage = s.stage := rfl
@[simp] theorem putCore_bootStep (s : State) (n : Nat) (c : Core) : (s.putCore n c).bootStep = s.bootStep := rfl
@[simp] theorem putCore_bootTime (s : State) (n : Nat) (c : Core) : (s.putCore n c).bootTime = s.bootTime := rfl
@[simp] theorem putCore_measurements (s : State) (n : Nat) (c : Core) : (s.putCore n c).measurements = s.measurements := rfl
@[simp] theorem putCore_spdm (s : State) (n : Nat) (c : Core) : (s.putCore n c).spdm = s.spdm := rfl
@[simp] theorem putCore_locked (s : State) (n : Nat) (c : Core) : (s.putCore n c).locked = s.locked := rfl
@[simp] theorem putCore_flash (s : State) (n : Nat) (c : Core) : (s.putCore n c).flash = s.flash := rfl
@[simp] theorem putCore_keys (s : State) (n : Nat) (c : Core) : (s.putCore n c).keys = s.keys := rfl
@[simp] theorem putCore_ports (s : State) (n : Nat) (c : Core) : (s.putCore n c).ports = s.ports := rfl
@[simp] theorem putCore_reports (s : State) (n : Nat) (c : Core) : (s.putCore n c).reports = s.reports := rfl
@[simp] theorem putCore_dead (s : State) (n : Nat) (c : Core) : (s.putCore n c).dead = s.dead := rfl
@[simp] theorem putCore_hot (s : State) (n : Nat) (c : Core) : (s.putCore n c).hot = s.hot := rfl
@[simp] theorem putCore_above30 (s : State) (n : Nat) (c : Core) : (s.putCore n c).above30 = s.above30 := rfl
@[simp] theorem putCore_slot (s : State) (n : Nat) (c : Core) : (s.putCore n c).slot = s.slot := rfl
@[simp] theorem putCore_macOffset (s : State) (n : Nat) (c : Core) : (s.putCore n c).macOffset = s.macOffset := rfl
@[simp] theorem putCore_stretched (s : State) (n : Nat) (c : Core) : (s.putCore n c).stretched = s.stretched := rfl
@[simp] theorem putCore_tiles (s : State) (n : Nat) (c : Core) : (s.putCore n c).tiles = s.tiles := rfl
@[simp] theorem putCore_parts (s : State) (n : Nat) (c : Core) : (s.putCore n c).parts = s.parts := rfl
@[simp] theorem putCore_ctxs (s : State) (n : Nat) (c : Core) : (s.putCore n c).ctxs = s.ctxs := rfl
@[simp] theorem putCore_grids (s : State) (n : Nat) (c : Core) : (s.putCore n c).grids = s.grids := rfl
@[simp] theorem putCore_teams (s : State) (n : Nat) (c : Core) : (s.putCore n c).teams = s.teams := rfl
@[simp] theorem putCore_groups (s : State) (n : Nat) (c : Core) : (s.putCore n c).groups = s.groups := rfl
@[simp] theorem putCore_ops (s : State) (n : Nat) (c : Core) : (s.putCore n c).ops = s.ops := rfl
@[simp] theorem putCore_engs (s : State) (n : Nat) (c : Core) : (s.putCore n c).engs = s.engs := rfl
@[simp] theorem putCore_pairs (s : State) (n : Nat) (c : Core) : (s.putCore n c).pairs = s.pairs := rfl
@[simp] theorem putCore_vaults (s : State) (n : Nat) (c : Core) : (s.putCore n c).vaults = s.vaults := rfl
@[simp] theorem putCore_mem (s : State) (n : Nat) (c : Core) : (s.putCore n c).mem = s.mem := rfl
@[simp] theorem putCore_hostMem (s : State) (n : Nat) (c : Core) : (s.putCore n c).hostMem = s.hostMem := rfl
@[simp] theorem putCore_nextId (s : State) (n : Nat) (c : Core) : (s.putCore n c).nextId = s.nextId := rfl
@[simp] theorem putCore_nextRound (s : State) (n : Nat) (c : Core) : (s.putCore n c).nextRound = s.nextRound := rfl
@[simp] theorem putCore_cur (s : State) (n : Nat) (c : Core) : (s.putCore n c).cur = s.cur := rfl
@[simp] theorem putCore_agenda (s : State) (n : Nat) (c : Core) : (s.putCore n c).agenda = s.agenda := rfl
@[simp] theorem putCore_tick (s : State) (n : Nat) (c : Core) : (s.putCore n c).tick = s.tick := rfl

/-! ## `putPair` writes `pairs` -/

@[simp] theorem putPair_time (s : State) (n : Nat) (p : Pair) : (s.putPair n p).time = s.time := rfl
@[simp] theorem putPair_stage (s : State) (n : Nat) (p : Pair) : (s.putPair n p).stage = s.stage := rfl
@[simp] theorem putPair_bootStep (s : State) (n : Nat) (p : Pair) : (s.putPair n p).bootStep = s.bootStep := rfl
@[simp] theorem putPair_bootTime (s : State) (n : Nat) (p : Pair) : (s.putPair n p).bootTime = s.bootTime := rfl
@[simp] theorem putPair_measurements (s : State) (n : Nat) (p : Pair) : (s.putPair n p).measurements = s.measurements := rfl
@[simp] theorem putPair_spdm (s : State) (n : Nat) (p : Pair) : (s.putPair n p).spdm = s.spdm := rfl
@[simp] theorem putPair_locked (s : State) (n : Nat) (p : Pair) : (s.putPair n p).locked = s.locked := rfl
@[simp] theorem putPair_flash (s : State) (n : Nat) (p : Pair) : (s.putPair n p).flash = s.flash := rfl
@[simp] theorem putPair_keys (s : State) (n : Nat) (p : Pair) : (s.putPair n p).keys = s.keys := rfl
@[simp] theorem putPair_ports (s : State) (n : Nat) (p : Pair) : (s.putPair n p).ports = s.ports := rfl
@[simp] theorem putPair_reports (s : State) (n : Nat) (p : Pair) : (s.putPair n p).reports = s.reports := rfl
@[simp] theorem putPair_dead (s : State) (n : Nat) (p : Pair) : (s.putPair n p).dead = s.dead := rfl
@[simp] theorem putPair_hot (s : State) (n : Nat) (p : Pair) : (s.putPair n p).hot = s.hot := rfl
@[simp] theorem putPair_above30 (s : State) (n : Nat) (p : Pair) : (s.putPair n p).above30 = s.above30 := rfl
@[simp] theorem putPair_slot (s : State) (n : Nat) (p : Pair) : (s.putPair n p).slot = s.slot := rfl
@[simp] theorem putPair_macOffset (s : State) (n : Nat) (p : Pair) : (s.putPair n p).macOffset = s.macOffset := rfl
@[simp] theorem putPair_stretched (s : State) (n : Nat) (p : Pair) : (s.putPair n p).stretched = s.stretched := rfl
@[simp] theorem putPair_tiles (s : State) (n : Nat) (p : Pair) : (s.putPair n p).tiles = s.tiles := rfl
@[simp] theorem putPair_parts (s : State) (n : Nat) (p : Pair) : (s.putPair n p).parts = s.parts := rfl
@[simp] theorem putPair_ctxs (s : State) (n : Nat) (p : Pair) : (s.putPair n p).ctxs = s.ctxs := rfl
@[simp] theorem putPair_grids (s : State) (n : Nat) (p : Pair) : (s.putPair n p).grids = s.grids := rfl
@[simp] theorem putPair_teams (s : State) (n : Nat) (p : Pair) : (s.putPair n p).teams = s.teams := rfl
@[simp] theorem putPair_groups (s : State) (n : Nat) (p : Pair) : (s.putPair n p).groups = s.groups := rfl
@[simp] theorem putPair_ops (s : State) (n : Nat) (p : Pair) : (s.putPair n p).ops = s.ops := rfl
@[simp] theorem putPair_engs (s : State) (n : Nat) (p : Pair) : (s.putPair n p).engs = s.engs := rfl
@[simp] theorem putPair_cores (s : State) (n : Nat) (p : Pair) : (s.putPair n p).cores = s.cores := rfl
@[simp] theorem putPair_vaults (s : State) (n : Nat) (p : Pair) : (s.putPair n p).vaults = s.vaults := rfl
@[simp] theorem putPair_mem (s : State) (n : Nat) (p : Pair) : (s.putPair n p).mem = s.mem := rfl
@[simp] theorem putPair_hostMem (s : State) (n : Nat) (p : Pair) : (s.putPair n p).hostMem = s.hostMem := rfl
@[simp] theorem putPair_nextId (s : State) (n : Nat) (p : Pair) : (s.putPair n p).nextId = s.nextId := rfl
@[simp] theorem putPair_nextRound (s : State) (n : Nat) (p : Pair) : (s.putPair n p).nextRound = s.nextRound := rfl
@[simp] theorem putPair_cur (s : State) (n : Nat) (p : Pair) : (s.putPair n p).cur = s.cur := rfl
@[simp] theorem putPair_agenda (s : State) (n : Nat) (p : Pair) : (s.putPair n p).agenda = s.agenda := rfl
@[simp] theorem putPair_tick (s : State) (n : Nat) (p : Pair) : (s.putPair n p).tick = s.tick := rfl

/-! ## `putVault` writes `vaults` -/

@[simp] theorem putVault_time (s : State) (n : Nat) (v : Vault) : (s.putVault n v).time = s.time := rfl
@[simp] theorem putVault_stage (s : State) (n : Nat) (v : Vault) : (s.putVault n v).stage = s.stage := rfl
@[simp] theorem putVault_bootStep (s : State) (n : Nat) (v : Vault) : (s.putVault n v).bootStep = s.bootStep := rfl
@[simp] theorem putVault_bootTime (s : State) (n : Nat) (v : Vault) : (s.putVault n v).bootTime = s.bootTime := rfl
@[simp] theorem putVault_measurements (s : State) (n : Nat) (v : Vault) : (s.putVault n v).measurements = s.measurements := rfl
@[simp] theorem putVault_spdm (s : State) (n : Nat) (v : Vault) : (s.putVault n v).spdm = s.spdm := rfl
@[simp] theorem putVault_locked (s : State) (n : Nat) (v : Vault) : (s.putVault n v).locked = s.locked := rfl
@[simp] theorem putVault_flash (s : State) (n : Nat) (v : Vault) : (s.putVault n v).flash = s.flash := rfl
@[simp] theorem putVault_keys (s : State) (n : Nat) (v : Vault) : (s.putVault n v).keys = s.keys := rfl
@[simp] theorem putVault_ports (s : State) (n : Nat) (v : Vault) : (s.putVault n v).ports = s.ports := rfl
@[simp] theorem putVault_reports (s : State) (n : Nat) (v : Vault) : (s.putVault n v).reports = s.reports := rfl
@[simp] theorem putVault_dead (s : State) (n : Nat) (v : Vault) : (s.putVault n v).dead = s.dead := rfl
@[simp] theorem putVault_hot (s : State) (n : Nat) (v : Vault) : (s.putVault n v).hot = s.hot := rfl
@[simp] theorem putVault_above30 (s : State) (n : Nat) (v : Vault) : (s.putVault n v).above30 = s.above30 := rfl
@[simp] theorem putVault_slot (s : State) (n : Nat) (v : Vault) : (s.putVault n v).slot = s.slot := rfl
@[simp] theorem putVault_macOffset (s : State) (n : Nat) (v : Vault) : (s.putVault n v).macOffset = s.macOffset := rfl
@[simp] theorem putVault_stretched (s : State) (n : Nat) (v : Vault) : (s.putVault n v).stretched = s.stretched := rfl
@[simp] theorem putVault_tiles (s : State) (n : Nat) (v : Vault) : (s.putVault n v).tiles = s.tiles := rfl
@[simp] theorem putVault_parts (s : State) (n : Nat) (v : Vault) : (s.putVault n v).parts = s.parts := rfl
@[simp] theorem putVault_ctxs (s : State) (n : Nat) (v : Vault) : (s.putVault n v).ctxs = s.ctxs := rfl
@[simp] theorem putVault_grids (s : State) (n : Nat) (v : Vault) : (s.putVault n v).grids = s.grids := rfl
@[simp] theorem putVault_teams (s : State) (n : Nat) (v : Vault) : (s.putVault n v).teams = s.teams := rfl
@[simp] theorem putVault_groups (s : State) (n : Nat) (v : Vault) : (s.putVault n v).groups = s.groups := rfl
@[simp] theorem putVault_ops (s : State) (n : Nat) (v : Vault) : (s.putVault n v).ops = s.ops := rfl
@[simp] theorem putVault_engs (s : State) (n : Nat) (v : Vault) : (s.putVault n v).engs = s.engs := rfl
@[simp] theorem putVault_cores (s : State) (n : Nat) (v : Vault) : (s.putVault n v).cores = s.cores := rfl
@[simp] theorem putVault_pairs (s : State) (n : Nat) (v : Vault) : (s.putVault n v).pairs = s.pairs := rfl
@[simp] theorem putVault_mem (s : State) (n : Nat) (v : Vault) : (s.putVault n v).mem = s.mem := rfl
@[simp] theorem putVault_hostMem (s : State) (n : Nat) (v : Vault) : (s.putVault n v).hostMem = s.hostMem := rfl
@[simp] theorem putVault_nextId (s : State) (n : Nat) (v : Vault) : (s.putVault n v).nextId = s.nextId := rfl
@[simp] theorem putVault_nextRound (s : State) (n : Nat) (v : Vault) : (s.putVault n v).nextRound = s.nextRound := rfl
@[simp] theorem putVault_cur (s : State) (n : Nat) (v : Vault) : (s.putVault n v).cur = s.cur := rfl
@[simp] theorem putVault_agenda (s : State) (n : Nat) (v : Vault) : (s.putVault n v).agenda = s.agenda := rfl
@[simp] theorem putVault_tick (s : State) (n : Nat) (v : Vault) : (s.putVault n v).tick = s.tick := rfl

/-! ## `putOp` writes `ops` -/

@[simp] theorem putOp_time (s : State) (o : MemOp) : (s.putOp o).time = s.time := rfl
@[simp] theorem putOp_stage (s : State) (o : MemOp) : (s.putOp o).stage = s.stage := rfl
@[simp] theorem putOp_bootStep (s : State) (o : MemOp) : (s.putOp o).bootStep = s.bootStep := rfl
@[simp] theorem putOp_bootTime (s : State) (o : MemOp) : (s.putOp o).bootTime = s.bootTime := rfl
@[simp] theorem putOp_measurements (s : State) (o : MemOp) : (s.putOp o).measurements = s.measurements := rfl
@[simp] theorem putOp_spdm (s : State) (o : MemOp) : (s.putOp o).spdm = s.spdm := rfl
@[simp] theorem putOp_locked (s : State) (o : MemOp) : (s.putOp o).locked = s.locked := rfl
@[simp] theorem putOp_flash (s : State) (o : MemOp) : (s.putOp o).flash = s.flash := rfl
@[simp] theorem putOp_keys (s : State) (o : MemOp) : (s.putOp o).keys = s.keys := rfl
@[simp] theorem putOp_ports (s : State) (o : MemOp) : (s.putOp o).ports = s.ports := rfl
@[simp] theorem putOp_reports (s : State) (o : MemOp) : (s.putOp o).reports = s.reports := rfl
@[simp] theorem putOp_dead (s : State) (o : MemOp) : (s.putOp o).dead = s.dead := rfl
@[simp] theorem putOp_hot (s : State) (o : MemOp) : (s.putOp o).hot = s.hot := rfl
@[simp] theorem putOp_above30 (s : State) (o : MemOp) : (s.putOp o).above30 = s.above30 := rfl
@[simp] theorem putOp_slot (s : State) (o : MemOp) : (s.putOp o).slot = s.slot := rfl
@[simp] theorem putOp_macOffset (s : State) (o : MemOp) : (s.putOp o).macOffset = s.macOffset := rfl
@[simp] theorem putOp_stretched (s : State) (o : MemOp) : (s.putOp o).stretched = s.stretched := rfl
@[simp] theorem putOp_tiles (s : State) (o : MemOp) : (s.putOp o).tiles = s.tiles := rfl
@[simp] theorem putOp_parts (s : State) (o : MemOp) : (s.putOp o).parts = s.parts := rfl
@[simp] theorem putOp_ctxs (s : State) (o : MemOp) : (s.putOp o).ctxs = s.ctxs := rfl
@[simp] theorem putOp_grids (s : State) (o : MemOp) : (s.putOp o).grids = s.grids := rfl
@[simp] theorem putOp_teams (s : State) (o : MemOp) : (s.putOp o).teams = s.teams := rfl
@[simp] theorem putOp_groups (s : State) (o : MemOp) : (s.putOp o).groups = s.groups := rfl
@[simp] theorem putOp_engs (s : State) (o : MemOp) : (s.putOp o).engs = s.engs := rfl
@[simp] theorem putOp_cores (s : State) (o : MemOp) : (s.putOp o).cores = s.cores := rfl
@[simp] theorem putOp_pairs (s : State) (o : MemOp) : (s.putOp o).pairs = s.pairs := rfl
@[simp] theorem putOp_vaults (s : State) (o : MemOp) : (s.putOp o).vaults = s.vaults := rfl
@[simp] theorem putOp_mem (s : State) (o : MemOp) : (s.putOp o).mem = s.mem := rfl
@[simp] theorem putOp_hostMem (s : State) (o : MemOp) : (s.putOp o).hostMem = s.hostMem := rfl
@[simp] theorem putOp_nextId (s : State) (o : MemOp) : (s.putOp o).nextId = s.nextId := rfl
@[simp] theorem putOp_nextRound (s : State) (o : MemOp) : (s.putOp o).nextRound = s.nextRound := rfl
@[simp] theorem putOp_cur (s : State) (o : MemOp) : (s.putOp o).cur = s.cur := rfl
@[simp] theorem putOp_agenda (s : State) (o : MemOp) : (s.putOp o).agenda = s.agenda := rfl
@[simp] theorem putOp_tick (s : State) (o : MemOp) : (s.putOp o).tick = s.tick := rfl

/-! ## `putEng` writes `engs` -/

@[simp] theorem putEng_time (s : State) (e : Engine) : (s.putEng e).time = s.time := rfl
@[simp] theorem putEng_stage (s : State) (e : Engine) : (s.putEng e).stage = s.stage := rfl
@[simp] theorem putEng_bootStep (s : State) (e : Engine) : (s.putEng e).bootStep = s.bootStep := rfl
@[simp] theorem putEng_bootTime (s : State) (e : Engine) : (s.putEng e).bootTime = s.bootTime := rfl
@[simp] theorem putEng_measurements (s : State) (e : Engine) : (s.putEng e).measurements = s.measurements := rfl
@[simp] theorem putEng_spdm (s : State) (e : Engine) : (s.putEng e).spdm = s.spdm := rfl
@[simp] theorem putEng_locked (s : State) (e : Engine) : (s.putEng e).locked = s.locked := rfl
@[simp] theorem putEng_flash (s : State) (e : Engine) : (s.putEng e).flash = s.flash := rfl
@[simp] theorem putEng_keys (s : State) (e : Engine) : (s.putEng e).keys = s.keys := rfl
@[simp] theorem putEng_ports (s : State) (e : Engine) : (s.putEng e).ports = s.ports := rfl
@[simp] theorem putEng_reports (s : State) (e : Engine) : (s.putEng e).reports = s.reports := rfl
@[simp] theorem putEng_dead (s : State) (e : Engine) : (s.putEng e).dead = s.dead := rfl
@[simp] theorem putEng_hot (s : State) (e : Engine) : (s.putEng e).hot = s.hot := rfl
@[simp] theorem putEng_above30 (s : State) (e : Engine) : (s.putEng e).above30 = s.above30 := rfl
@[simp] theorem putEng_slot (s : State) (e : Engine) : (s.putEng e).slot = s.slot := rfl
@[simp] theorem putEng_macOffset (s : State) (e : Engine) : (s.putEng e).macOffset = s.macOffset := rfl
@[simp] theorem putEng_stretched (s : State) (e : Engine) : (s.putEng e).stretched = s.stretched := rfl
@[simp] theorem putEng_tiles (s : State) (e : Engine) : (s.putEng e).tiles = s.tiles := rfl
@[simp] theorem putEng_parts (s : State) (e : Engine) : (s.putEng e).parts = s.parts := rfl
@[simp] theorem putEng_ctxs (s : State) (e : Engine) : (s.putEng e).ctxs = s.ctxs := rfl
@[simp] theorem putEng_grids (s : State) (e : Engine) : (s.putEng e).grids = s.grids := rfl
@[simp] theorem putEng_teams (s : State) (e : Engine) : (s.putEng e).teams = s.teams := rfl
@[simp] theorem putEng_groups (s : State) (e : Engine) : (s.putEng e).groups = s.groups := rfl
@[simp] theorem putEng_ops (s : State) (e : Engine) : (s.putEng e).ops = s.ops := rfl
@[simp] theorem putEng_cores (s : State) (e : Engine) : (s.putEng e).cores = s.cores := rfl
@[simp] theorem putEng_pairs (s : State) (e : Engine) : (s.putEng e).pairs = s.pairs := rfl
@[simp] theorem putEng_vaults (s : State) (e : Engine) : (s.putEng e).vaults = s.vaults := rfl
@[simp] theorem putEng_mem (s : State) (e : Engine) : (s.putEng e).mem = s.mem := rfl
@[simp] theorem putEng_hostMem (s : State) (e : Engine) : (s.putEng e).hostMem = s.hostMem := rfl
@[simp] theorem putEng_nextId (s : State) (e : Engine) : (s.putEng e).nextId = s.nextId := rfl
@[simp] theorem putEng_nextRound (s : State) (e : Engine) : (s.putEng e).nextRound = s.nextRound := rfl
@[simp] theorem putEng_cur (s : State) (e : Engine) : (s.putEng e).cur = s.cur := rfl
@[simp] theorem putEng_agenda (s : State) (e : Engine) : (s.putEng e).agenda = s.agenda := rfl
@[simp] theorem putEng_tick (s : State) (e : Engine) : (s.putEng e).tick = s.tick := rfl

/-! ## `store` writes `mem` -/

@[simp] theorem store_time (s : State) (asid va n v : Nat) : (s.store asid va n v).time = s.time := rfl
@[simp] theorem store_stage (s : State) (asid va n v : Nat) : (s.store asid va n v).stage = s.stage := rfl
@[simp] theorem store_bootStep (s : State) (asid va n v : Nat) : (s.store asid va n v).bootStep = s.bootStep := rfl
@[simp] theorem store_bootTime (s : State) (asid va n v : Nat) : (s.store asid va n v).bootTime = s.bootTime := rfl
@[simp] theorem store_measurements (s : State) (asid va n v : Nat) : (s.store asid va n v).measurements = s.measurements := rfl
@[simp] theorem store_spdm (s : State) (asid va n v : Nat) : (s.store asid va n v).spdm = s.spdm := rfl
@[simp] theorem store_locked (s : State) (asid va n v : Nat) : (s.store asid va n v).locked = s.locked := rfl
@[simp] theorem store_flash (s : State) (asid va n v : Nat) : (s.store asid va n v).flash = s.flash := rfl
@[simp] theorem store_keys (s : State) (asid va n v : Nat) : (s.store asid va n v).keys = s.keys := rfl
@[simp] theorem store_ports (s : State) (asid va n v : Nat) : (s.store asid va n v).ports = s.ports := rfl
@[simp] theorem store_reports (s : State) (asid va n v : Nat) : (s.store asid va n v).reports = s.reports := rfl
@[simp] theorem store_dead (s : State) (asid va n v : Nat) : (s.store asid va n v).dead = s.dead := rfl
@[simp] theorem store_hot (s : State) (asid va n v : Nat) : (s.store asid va n v).hot = s.hot := rfl
@[simp] theorem store_above30 (s : State) (asid va n v : Nat) : (s.store asid va n v).above30 = s.above30 := rfl
@[simp] theorem store_slot (s : State) (asid va n v : Nat) : (s.store asid va n v).slot = s.slot := rfl
@[simp] theorem store_macOffset (s : State) (asid va n v : Nat) : (s.store asid va n v).macOffset = s.macOffset := rfl
@[simp] theorem store_stretched (s : State) (asid va n v : Nat) : (s.store asid va n v).stretched = s.stretched := rfl
@[simp] theorem store_tiles (s : State) (asid va n v : Nat) : (s.store asid va n v).tiles = s.tiles := rfl
@[simp] theorem store_parts (s : State) (asid va n v : Nat) : (s.store asid va n v).parts = s.parts := rfl
@[simp] theorem store_ctxs (s : State) (asid va n v : Nat) : (s.store asid va n v).ctxs = s.ctxs := rfl
@[simp] theorem store_grids (s : State) (asid va n v : Nat) : (s.store asid va n v).grids = s.grids := rfl
@[simp] theorem store_teams (s : State) (asid va n v : Nat) : (s.store asid va n v).teams = s.teams := rfl
@[simp] theorem store_groups (s : State) (asid va n v : Nat) : (s.store asid va n v).groups = s.groups := rfl
@[simp] theorem store_ops (s : State) (asid va n v : Nat) : (s.store asid va n v).ops = s.ops := rfl
@[simp] theorem store_engs (s : State) (asid va n v : Nat) : (s.store asid va n v).engs = s.engs := rfl
@[simp] theorem store_cores (s : State) (asid va n v : Nat) : (s.store asid va n v).cores = s.cores := rfl
@[simp] theorem store_pairs (s : State) (asid va n v : Nat) : (s.store asid va n v).pairs = s.pairs := rfl
@[simp] theorem store_vaults (s : State) (asid va n v : Nat) : (s.store asid va n v).vaults = s.vaults := rfl
@[simp] theorem store_hostMem (s : State) (asid va n v : Nat) : (s.store asid va n v).hostMem = s.hostMem := rfl
@[simp] theorem store_nextId (s : State) (asid va n v : Nat) : (s.store asid va n v).nextId = s.nextId := rfl
@[simp] theorem store_nextRound (s : State) (asid va n v : Nat) : (s.store asid va n v).nextRound = s.nextRound := rfl
@[simp] theorem store_cur (s : State) (asid va n v : Nat) : (s.store asid va n v).cur = s.cur := rfl
@[simp] theorem store_agenda (s : State) (asid va n v : Nat) : (s.store asid va n v).agenda = s.agenda := rfl
@[simp] theorem store_tick (s : State) (asid va n v : Nat) : (s.store asid va n v).tick = s.tick := rfl

/-! ## `addOp` writes `ops` and `nextId` -/

@[simp] theorem addOp_time (s : State) (p : MemOp) : (s.addOp p).time = s.time := rfl
@[simp] theorem addOp_stage (s : State) (p : MemOp) : (s.addOp p).stage = s.stage := rfl
@[simp] theorem addOp_bootStep (s : State) (p : MemOp) : (s.addOp p).bootStep = s.bootStep := rfl
@[simp] theorem addOp_bootTime (s : State) (p : MemOp) : (s.addOp p).bootTime = s.bootTime := rfl
@[simp] theorem addOp_measurements (s : State) (p : MemOp) : (s.addOp p).measurements = s.measurements := rfl
@[simp] theorem addOp_spdm (s : State) (p : MemOp) : (s.addOp p).spdm = s.spdm := rfl
@[simp] theorem addOp_locked (s : State) (p : MemOp) : (s.addOp p).locked = s.locked := rfl
@[simp] theorem addOp_flash (s : State) (p : MemOp) : (s.addOp p).flash = s.flash := rfl
@[simp] theorem addOp_keys (s : State) (p : MemOp) : (s.addOp p).keys = s.keys := rfl
@[simp] theorem addOp_ports (s : State) (p : MemOp) : (s.addOp p).ports = s.ports := rfl
@[simp] theorem addOp_reports (s : State) (p : MemOp) : (s.addOp p).reports = s.reports := rfl
@[simp] theorem addOp_dead (s : State) (p : MemOp) : (s.addOp p).dead = s.dead := rfl
@[simp] theorem addOp_hot (s : State) (p : MemOp) : (s.addOp p).hot = s.hot := rfl
@[simp] theorem addOp_above30 (s : State) (p : MemOp) : (s.addOp p).above30 = s.above30 := rfl
@[simp] theorem addOp_slot (s : State) (p : MemOp) : (s.addOp p).slot = s.slot := rfl
@[simp] theorem addOp_macOffset (s : State) (p : MemOp) : (s.addOp p).macOffset = s.macOffset := rfl
@[simp] theorem addOp_stretched (s : State) (p : MemOp) : (s.addOp p).stretched = s.stretched := rfl
@[simp] theorem addOp_tiles (s : State) (p : MemOp) : (s.addOp p).tiles = s.tiles := rfl
@[simp] theorem addOp_parts (s : State) (p : MemOp) : (s.addOp p).parts = s.parts := rfl
@[simp] theorem addOp_ctxs (s : State) (p : MemOp) : (s.addOp p).ctxs = s.ctxs := rfl
@[simp] theorem addOp_grids (s : State) (p : MemOp) : (s.addOp p).grids = s.grids := rfl
@[simp] theorem addOp_teams (s : State) (p : MemOp) : (s.addOp p).teams = s.teams := rfl
@[simp] theorem addOp_groups (s : State) (p : MemOp) : (s.addOp p).groups = s.groups := rfl
@[simp] theorem addOp_engs (s : State) (p : MemOp) : (s.addOp p).engs = s.engs := rfl
@[simp] theorem addOp_cores (s : State) (p : MemOp) : (s.addOp p).cores = s.cores := rfl
@[simp] theorem addOp_pairs (s : State) (p : MemOp) : (s.addOp p).pairs = s.pairs := rfl
@[simp] theorem addOp_vaults (s : State) (p : MemOp) : (s.addOp p).vaults = s.vaults := rfl
@[simp] theorem addOp_mem (s : State) (p : MemOp) : (s.addOp p).mem = s.mem := rfl
@[simp] theorem addOp_hostMem (s : State) (p : MemOp) : (s.addOp p).hostMem = s.hostMem := rfl
@[simp] theorem addOp_nextRound (s : State) (p : MemOp) : (s.addOp p).nextRound = s.nextRound := rfl
@[simp] theorem addOp_cur (s : State) (p : MemOp) : (s.addOp p).cur = s.cur := rfl
@[simp] theorem addOp_agenda (s : State) (p : MemOp) : (s.addOp p).agenda = s.agenda := rfl
@[simp] theorem addOp_tick (s : State) (p : MemOp) : (s.addOp p).tick = s.tick := rfl

/-! ## `putVreg` writes `v` -/

@[simp] theorem putVreg_id (g : Group) (r : Nat) (x : VReg) : (g.putVreg r x).id = g.id := rfl
@[simp] theorem putVreg_asid (g : Group) (r : Nat) (x : VReg) : (g.putVreg r x).asid = g.asid := rfl
@[simp] theorem putVreg_core (g : Group) (r : Nat) (x : VReg) : (g.putVreg r x).core = g.core := rfl
@[simp] theorem putVreg_quad (g : Group) (r : Nat) (x : VReg) : (g.putVreg r x).quad = g.quad := rfl
@[simp] theorem putVreg_slots (g : Group) (r : Nat) (x : VReg) : (g.putVreg r x).slots = g.slots := rfl
@[simp] theorem putVreg_width (g : Group) (r : Nat) (x : VReg) : (g.putVreg r x).width = g.width := rfl
@[simp] theorem putVreg_vregs (g : Group) (r : Nat) (x : VReg) : (g.putVreg r x).vregs = g.vregs := rfl
@[simp] theorem putVreg_acc (g : Group) (r : Nat) (x : VReg) : (g.putVreg r x).acc = g.acc := rfl
@[simp] theorem putVreg_plat (g : Group) (r : Nat) (x : VReg) : (g.putVreg r x).plat = g.plat := rfl
@[simp] theorem putVreg_banks (g : Group) (r : Nat) (x : VReg) : (g.putVreg r x).banks = g.banks := rfl
@[simp] theorem putVreg_rdv (g : Group) (r : Nat) (x : VReg) : (g.putVreg r x).rdv = g.rdv := rfl
@[simp] theorem putVreg_lendCount (g : Group) (r : Nat) (x : VReg) : (g.putVreg r x).lendCount = g.lendCount := rfl
@[simp] theorem putVreg_s (g : Group) (r : Nat) (x : VReg) : (g.putVreg r x).s = g.s := rfl
@[simp] theorem putVreg_m (g : Group) (r : Nat) (x : VReg) : (g.putVreg r x).m = g.m := rfl
@[simp] theorem putVreg_h (g : Group) (r : Nat) (x : VReg) : (g.putVreg r x).h = g.h := rfl
@[simp] theorem putVreg_w (g : Group) (r : Nat) (x : VReg) : (g.putVreg r x).w = g.w := rfl
@[simp] theorem putVreg_c (g : Group) (r : Nat) (x : VReg) : (g.putVreg r x).c = g.c := rfl
@[simp] theorem putVreg_latch (g : Group) (r : Nat) (x : VReg) : (g.putVreg r x).latch = g.latch := rfl
@[simp] theorem putVreg_randkey (g : Group) (r : Nat) (x : VReg) : (g.putVreg r x).randkey = g.randkey := rfl
@[simp] theorem putVreg_stamp (g : Group) (r : Nat) (x : VReg) : (g.putVreg r x).stamp = g.stamp := rfl
@[simp] theorem putVreg_why (g : Group) (r : Nat) (x : VReg) : (g.putVreg r x).why = g.why := rfl
@[simp] theorem putVreg_pc (g : Group) (r : Nat) (x : VReg) : (g.putVreg r x).pc = g.pc := rfl
@[simp] theorem putVreg_pot (g : Group) (r : Nat) (x : VReg) : (g.putVreg r x).pot = g.pot := rfl
@[simp] theorem putVreg_monitor (g : Group) (r : Nat) (x : VReg) : (g.putVreg r x).monitor = g.monitor := rfl
@[simp] theorem putVreg_lastArr (g : Group) (r : Nat) (x : VReg) : (g.putVreg r x).lastArr = g.lastArr := rfl
@[simp] theorem putVreg_barArr (g : Group) (r : Nat) (x : VReg) : (g.putVreg r x).barArr = g.barArr := rfl
@[simp] theorem putVreg_barWait (g : Group) (r : Nat) (x : VReg) : (g.putVreg r x).barWait = g.barWait := rfl
@[simp] theorem putVreg_threads (g : Group) (r : Nat) (x : VReg) : (g.putVreg r x).threads = g.threads := rfl
@[simp] theorem putVreg_cohorts (g : Group) (r : Nat) (x : VReg) : (g.putVreg r x).cohorts = g.cohorts := rfl
@[simp] theorem putVreg_recruits (g : Group) (r : Nat) (x : VReg) : (g.putVreg r x).recruits = g.recruits := rfl
@[simp] theorem putVreg_nextCid (g : Group) (r : Nat) (x : VReg) : (g.putVreg r x).nextCid = g.nextCid := rfl
@[simp] theorem putVreg_held (g : Group) (r : Nat) (x : VReg) : (g.putVreg r x).held = g.held := rfl
@[simp] theorem putVreg_records (g : Group) (r : Nat) (x : VReg) : (g.putVreg r x).records = g.records := rfl
@[simp] theorem putVreg_nacked (g : Group) (r : Nat) (x : VReg) : (g.putVreg r x).nacked = g.nacked := rfl
@[simp] theorem putVreg_closed (g : Group) (r : Nat) (x : VReg) : (g.putVreg r x).closed = g.closed := rfl
@[simp] theorem putVreg_copies (g : Group) (r : Nat) (x : VReg) : (g.putVreg r x).copies = g.copies := rfl
@[simp] theorem putVreg_xt (g : Group) (r : Nat) (x : VReg) : (g.putVreg r x).xt = g.xt := rfl
@[simp] theorem putVreg_allAt (g : Group) (r : Nat) (x : VReg) : (g.putVreg r x).allAt = g.allAt := rfl
@[simp] theorem putVreg_active (g : Group) (r : Nat) (x : VReg) : (g.putVreg r x).active = g.active := rfl
@[simp] theorem putVreg_placed (g : Group) (r : Nat) (x : VReg) : (g.putVreg r x).placed = g.placed := rfl
@[simp] theorem putVreg_yielded (g : Group) (r : Nat) (x : VReg) : (g.putVreg r x).yielded = g.yielded := rfl
@[simp] theorem putVreg_ready (g : Group) (r : Nat) (x : VReg) : (g.putVreg r x).ready = g.ready := rfl
@[simp] theorem putVreg_readySince (g : Group) (r : Nat) (x : VReg) : (g.putVreg r x).readySince = g.readySince := rfl
@[simp] theorem putVreg_lastIssue (g : Group) (r : Nat) (x : VReg) : (g.putVreg r x).lastIssue = g.lastIssue := rfl

/-! ## `putSreg` writes `s` -/

@[simp] theorem putSreg_id (g : Group) (r : Nat) (x : SReg) : (g.putSreg r x).id = g.id := rfl
@[simp] theorem putSreg_asid (g : Group) (r : Nat) (x : SReg) : (g.putSreg r x).asid = g.asid := rfl
@[simp] theorem putSreg_core (g : Group) (r : Nat) (x : SReg) : (g.putSreg r x).core = g.core := rfl
@[simp] theorem putSreg_quad (g : Group) (r : Nat) (x : SReg) : (g.putSreg r x).quad = g.quad := rfl
@[simp] theorem putSreg_slots (g : Group) (r : Nat) (x : SReg) : (g.putSreg r x).slots = g.slots := rfl
@[simp] theorem putSreg_width (g : Group) (r : Nat) (x : SReg) : (g.putSreg r x).width = g.width := rfl
@[simp] theorem putSreg_vregs (g : Group) (r : Nat) (x : SReg) : (g.putSreg r x).vregs = g.vregs := rfl
@[simp] theorem putSreg_acc (g : Group) (r : Nat) (x : SReg) : (g.putSreg r x).acc = g.acc := rfl
@[simp] theorem putSreg_plat (g : Group) (r : Nat) (x : SReg) : (g.putSreg r x).plat = g.plat := rfl
@[simp] theorem putSreg_banks (g : Group) (r : Nat) (x : SReg) : (g.putSreg r x).banks = g.banks := rfl
@[simp] theorem putSreg_rdv (g : Group) (r : Nat) (x : SReg) : (g.putSreg r x).rdv = g.rdv := rfl
@[simp] theorem putSreg_lendCount (g : Group) (r : Nat) (x : SReg) : (g.putSreg r x).lendCount = g.lendCount := rfl
@[simp] theorem putSreg_v (g : Group) (r : Nat) (x : SReg) : (g.putSreg r x).v = g.v := rfl
@[simp] theorem putSreg_m (g : Group) (r : Nat) (x : SReg) : (g.putSreg r x).m = g.m := rfl
@[simp] theorem putSreg_h (g : Group) (r : Nat) (x : SReg) : (g.putSreg r x).h = g.h := rfl
@[simp] theorem putSreg_w (g : Group) (r : Nat) (x : SReg) : (g.putSreg r x).w = g.w := rfl
@[simp] theorem putSreg_c (g : Group) (r : Nat) (x : SReg) : (g.putSreg r x).c = g.c := rfl
@[simp] theorem putSreg_latch (g : Group) (r : Nat) (x : SReg) : (g.putSreg r x).latch = g.latch := rfl
@[simp] theorem putSreg_randkey (g : Group) (r : Nat) (x : SReg) : (g.putSreg r x).randkey = g.randkey := rfl
@[simp] theorem putSreg_stamp (g : Group) (r : Nat) (x : SReg) : (g.putSreg r x).stamp = g.stamp := rfl
@[simp] theorem putSreg_why (g : Group) (r : Nat) (x : SReg) : (g.putSreg r x).why = g.why := rfl
@[simp] theorem putSreg_pc (g : Group) (r : Nat) (x : SReg) : (g.putSreg r x).pc = g.pc := rfl
@[simp] theorem putSreg_pot (g : Group) (r : Nat) (x : SReg) : (g.putSreg r x).pot = g.pot := rfl
@[simp] theorem putSreg_monitor (g : Group) (r : Nat) (x : SReg) : (g.putSreg r x).monitor = g.monitor := rfl
@[simp] theorem putSreg_lastArr (g : Group) (r : Nat) (x : SReg) : (g.putSreg r x).lastArr = g.lastArr := rfl
@[simp] theorem putSreg_barArr (g : Group) (r : Nat) (x : SReg) : (g.putSreg r x).barArr = g.barArr := rfl
@[simp] theorem putSreg_barWait (g : Group) (r : Nat) (x : SReg) : (g.putSreg r x).barWait = g.barWait := rfl
@[simp] theorem putSreg_threads (g : Group) (r : Nat) (x : SReg) : (g.putSreg r x).threads = g.threads := rfl
@[simp] theorem putSreg_cohorts (g : Group) (r : Nat) (x : SReg) : (g.putSreg r x).cohorts = g.cohorts := rfl
@[simp] theorem putSreg_recruits (g : Group) (r : Nat) (x : SReg) : (g.putSreg r x).recruits = g.recruits := rfl
@[simp] theorem putSreg_nextCid (g : Group) (r : Nat) (x : SReg) : (g.putSreg r x).nextCid = g.nextCid := rfl
@[simp] theorem putSreg_held (g : Group) (r : Nat) (x : SReg) : (g.putSreg r x).held = g.held := rfl
@[simp] theorem putSreg_records (g : Group) (r : Nat) (x : SReg) : (g.putSreg r x).records = g.records := rfl
@[simp] theorem putSreg_nacked (g : Group) (r : Nat) (x : SReg) : (g.putSreg r x).nacked = g.nacked := rfl
@[simp] theorem putSreg_closed (g : Group) (r : Nat) (x : SReg) : (g.putSreg r x).closed = g.closed := rfl
@[simp] theorem putSreg_copies (g : Group) (r : Nat) (x : SReg) : (g.putSreg r x).copies = g.copies := rfl
@[simp] theorem putSreg_xt (g : Group) (r : Nat) (x : SReg) : (g.putSreg r x).xt = g.xt := rfl
@[simp] theorem putSreg_allAt (g : Group) (r : Nat) (x : SReg) : (g.putSreg r x).allAt = g.allAt := rfl
@[simp] theorem putSreg_active (g : Group) (r : Nat) (x : SReg) : (g.putSreg r x).active = g.active := rfl
@[simp] theorem putSreg_placed (g : Group) (r : Nat) (x : SReg) : (g.putSreg r x).placed = g.placed := rfl
@[simp] theorem putSreg_yielded (g : Group) (r : Nat) (x : SReg) : (g.putSreg r x).yielded = g.yielded := rfl
@[simp] theorem putSreg_ready (g : Group) (r : Nat) (x : SReg) : (g.putSreg r x).ready = g.ready := rfl
@[simp] theorem putSreg_readySince (g : Group) (r : Nat) (x : SReg) : (g.putSreg r x).readySince = g.readySince := rfl
@[simp] theorem putSreg_lastIssue (g : Group) (r : Nat) (x : SReg) : (g.putSreg r x).lastIssue = g.lastIssue := rfl

/-! ## `putMreg` writes `m` -/

@[simp] theorem putMreg_id (g : Group) (r : Nat) (x : MReg) : (g.putMreg r x).id = g.id := rfl
@[simp] theorem putMreg_asid (g : Group) (r : Nat) (x : MReg) : (g.putMreg r x).asid = g.asid := rfl
@[simp] theorem putMreg_core (g : Group) (r : Nat) (x : MReg) : (g.putMreg r x).core = g.core := rfl
@[simp] theorem putMreg_quad (g : Group) (r : Nat) (x : MReg) : (g.putMreg r x).quad = g.quad := rfl
@[simp] theorem putMreg_slots (g : Group) (r : Nat) (x : MReg) : (g.putMreg r x).slots = g.slots := rfl
@[simp] theorem putMreg_width (g : Group) (r : Nat) (x : MReg) : (g.putMreg r x).width = g.width := rfl
@[simp] theorem putMreg_vregs (g : Group) (r : Nat) (x : MReg) : (g.putMreg r x).vregs = g.vregs := rfl
@[simp] theorem putMreg_acc (g : Group) (r : Nat) (x : MReg) : (g.putMreg r x).acc = g.acc := rfl
@[simp] theorem putMreg_plat (g : Group) (r : Nat) (x : MReg) : (g.putMreg r x).plat = g.plat := rfl
@[simp] theorem putMreg_banks (g : Group) (r : Nat) (x : MReg) : (g.putMreg r x).banks = g.banks := rfl
@[simp] theorem putMreg_rdv (g : Group) (r : Nat) (x : MReg) : (g.putMreg r x).rdv = g.rdv := rfl
@[simp] theorem putMreg_lendCount (g : Group) (r : Nat) (x : MReg) : (g.putMreg r x).lendCount = g.lendCount := rfl
@[simp] theorem putMreg_v (g : Group) (r : Nat) (x : MReg) : (g.putMreg r x).v = g.v := rfl
@[simp] theorem putMreg_s (g : Group) (r : Nat) (x : MReg) : (g.putMreg r x).s = g.s := rfl
@[simp] theorem putMreg_h (g : Group) (r : Nat) (x : MReg) : (g.putMreg r x).h = g.h := rfl
@[simp] theorem putMreg_w (g : Group) (r : Nat) (x : MReg) : (g.putMreg r x).w = g.w := rfl
@[simp] theorem putMreg_c (g : Group) (r : Nat) (x : MReg) : (g.putMreg r x).c = g.c := rfl
@[simp] theorem putMreg_latch (g : Group) (r : Nat) (x : MReg) : (g.putMreg r x).latch = g.latch := rfl
@[simp] theorem putMreg_randkey (g : Group) (r : Nat) (x : MReg) : (g.putMreg r x).randkey = g.randkey := rfl
@[simp] theorem putMreg_stamp (g : Group) (r : Nat) (x : MReg) : (g.putMreg r x).stamp = g.stamp := rfl
@[simp] theorem putMreg_why (g : Group) (r : Nat) (x : MReg) : (g.putMreg r x).why = g.why := rfl
@[simp] theorem putMreg_pc (g : Group) (r : Nat) (x : MReg) : (g.putMreg r x).pc = g.pc := rfl
@[simp] theorem putMreg_pot (g : Group) (r : Nat) (x : MReg) : (g.putMreg r x).pot = g.pot := rfl
@[simp] theorem putMreg_monitor (g : Group) (r : Nat) (x : MReg) : (g.putMreg r x).monitor = g.monitor := rfl
@[simp] theorem putMreg_lastArr (g : Group) (r : Nat) (x : MReg) : (g.putMreg r x).lastArr = g.lastArr := rfl
@[simp] theorem putMreg_barArr (g : Group) (r : Nat) (x : MReg) : (g.putMreg r x).barArr = g.barArr := rfl
@[simp] theorem putMreg_barWait (g : Group) (r : Nat) (x : MReg) : (g.putMreg r x).barWait = g.barWait := rfl
@[simp] theorem putMreg_threads (g : Group) (r : Nat) (x : MReg) : (g.putMreg r x).threads = g.threads := rfl
@[simp] theorem putMreg_cohorts (g : Group) (r : Nat) (x : MReg) : (g.putMreg r x).cohorts = g.cohorts := rfl
@[simp] theorem putMreg_recruits (g : Group) (r : Nat) (x : MReg) : (g.putMreg r x).recruits = g.recruits := rfl
@[simp] theorem putMreg_nextCid (g : Group) (r : Nat) (x : MReg) : (g.putMreg r x).nextCid = g.nextCid := rfl
@[simp] theorem putMreg_held (g : Group) (r : Nat) (x : MReg) : (g.putMreg r x).held = g.held := rfl
@[simp] theorem putMreg_records (g : Group) (r : Nat) (x : MReg) : (g.putMreg r x).records = g.records := rfl
@[simp] theorem putMreg_nacked (g : Group) (r : Nat) (x : MReg) : (g.putMreg r x).nacked = g.nacked := rfl
@[simp] theorem putMreg_closed (g : Group) (r : Nat) (x : MReg) : (g.putMreg r x).closed = g.closed := rfl
@[simp] theorem putMreg_copies (g : Group) (r : Nat) (x : MReg) : (g.putMreg r x).copies = g.copies := rfl
@[simp] theorem putMreg_xt (g : Group) (r : Nat) (x : MReg) : (g.putMreg r x).xt = g.xt := rfl
@[simp] theorem putMreg_allAt (g : Group) (r : Nat) (x : MReg) : (g.putMreg r x).allAt = g.allAt := rfl
@[simp] theorem putMreg_active (g : Group) (r : Nat) (x : MReg) : (g.putMreg r x).active = g.active := rfl
@[simp] theorem putMreg_placed (g : Group) (r : Nat) (x : MReg) : (g.putMreg r x).placed = g.placed := rfl
@[simp] theorem putMreg_yielded (g : Group) (r : Nat) (x : MReg) : (g.putMreg r x).yielded = g.yielded := rfl
@[simp] theorem putMreg_ready (g : Group) (r : Nat) (x : MReg) : (g.putMreg r x).ready = g.ready := rfl
@[simp] theorem putMreg_readySince (g : Group) (r : Nat) (x : MReg) : (g.putMreg r x).readySince = g.readySince := rfl
@[simp] theorem putMreg_lastIssue (g : Group) (r : Nat) (x : MReg) : (g.putMreg r x).lastIssue = g.lastIssue := rfl

/-! ## `putHandle` writes `h` -/

@[simp] theorem putHandle_id (g : Group) (r : Nat) (x : Handle) : (g.putHandle r x).id = g.id := rfl
@[simp] theorem putHandle_asid (g : Group) (r : Nat) (x : Handle) : (g.putHandle r x).asid = g.asid := rfl
@[simp] theorem putHandle_core (g : Group) (r : Nat) (x : Handle) : (g.putHandle r x).core = g.core := rfl
@[simp] theorem putHandle_quad (g : Group) (r : Nat) (x : Handle) : (g.putHandle r x).quad = g.quad := rfl
@[simp] theorem putHandle_slots (g : Group) (r : Nat) (x : Handle) : (g.putHandle r x).slots = g.slots := rfl
@[simp] theorem putHandle_width (g : Group) (r : Nat) (x : Handle) : (g.putHandle r x).width = g.width := rfl
@[simp] theorem putHandle_vregs (g : Group) (r : Nat) (x : Handle) : (g.putHandle r x).vregs = g.vregs := rfl
@[simp] theorem putHandle_acc (g : Group) (r : Nat) (x : Handle) : (g.putHandle r x).acc = g.acc := rfl
@[simp] theorem putHandle_plat (g : Group) (r : Nat) (x : Handle) : (g.putHandle r x).plat = g.plat := rfl
@[simp] theorem putHandle_banks (g : Group) (r : Nat) (x : Handle) : (g.putHandle r x).banks = g.banks := rfl
@[simp] theorem putHandle_rdv (g : Group) (r : Nat) (x : Handle) : (g.putHandle r x).rdv = g.rdv := rfl
@[simp] theorem putHandle_lendCount (g : Group) (r : Nat) (x : Handle) : (g.putHandle r x).lendCount = g.lendCount := rfl
@[simp] theorem putHandle_v (g : Group) (r : Nat) (x : Handle) : (g.putHandle r x).v = g.v := rfl
@[simp] theorem putHandle_s (g : Group) (r : Nat) (x : Handle) : (g.putHandle r x).s = g.s := rfl
@[simp] theorem putHandle_m (g : Group) (r : Nat) (x : Handle) : (g.putHandle r x).m = g.m := rfl
@[simp] theorem putHandle_w (g : Group) (r : Nat) (x : Handle) : (g.putHandle r x).w = g.w := rfl
@[simp] theorem putHandle_c (g : Group) (r : Nat) (x : Handle) : (g.putHandle r x).c = g.c := rfl
@[simp] theorem putHandle_latch (g : Group) (r : Nat) (x : Handle) : (g.putHandle r x).latch = g.latch := rfl
@[simp] theorem putHandle_randkey (g : Group) (r : Nat) (x : Handle) : (g.putHandle r x).randkey = g.randkey := rfl
@[simp] theorem putHandle_stamp (g : Group) (r : Nat) (x : Handle) : (g.putHandle r x).stamp = g.stamp := rfl
@[simp] theorem putHandle_why (g : Group) (r : Nat) (x : Handle) : (g.putHandle r x).why = g.why := rfl
@[simp] theorem putHandle_pc (g : Group) (r : Nat) (x : Handle) : (g.putHandle r x).pc = g.pc := rfl
@[simp] theorem putHandle_pot (g : Group) (r : Nat) (x : Handle) : (g.putHandle r x).pot = g.pot := rfl
@[simp] theorem putHandle_monitor (g : Group) (r : Nat) (x : Handle) : (g.putHandle r x).monitor = g.monitor := rfl
@[simp] theorem putHandle_lastArr (g : Group) (r : Nat) (x : Handle) : (g.putHandle r x).lastArr = g.lastArr := rfl
@[simp] theorem putHandle_barArr (g : Group) (r : Nat) (x : Handle) : (g.putHandle r x).barArr = g.barArr := rfl
@[simp] theorem putHandle_barWait (g : Group) (r : Nat) (x : Handle) : (g.putHandle r x).barWait = g.barWait := rfl
@[simp] theorem putHandle_threads (g : Group) (r : Nat) (x : Handle) : (g.putHandle r x).threads = g.threads := rfl
@[simp] theorem putHandle_cohorts (g : Group) (r : Nat) (x : Handle) : (g.putHandle r x).cohorts = g.cohorts := rfl
@[simp] theorem putHandle_recruits (g : Group) (r : Nat) (x : Handle) : (g.putHandle r x).recruits = g.recruits := rfl
@[simp] theorem putHandle_nextCid (g : Group) (r : Nat) (x : Handle) : (g.putHandle r x).nextCid = g.nextCid := rfl
@[simp] theorem putHandle_held (g : Group) (r : Nat) (x : Handle) : (g.putHandle r x).held = g.held := rfl
@[simp] theorem putHandle_records (g : Group) (r : Nat) (x : Handle) : (g.putHandle r x).records = g.records := rfl
@[simp] theorem putHandle_nacked (g : Group) (r : Nat) (x : Handle) : (g.putHandle r x).nacked = g.nacked := rfl
@[simp] theorem putHandle_closed (g : Group) (r : Nat) (x : Handle) : (g.putHandle r x).closed = g.closed := rfl
@[simp] theorem putHandle_copies (g : Group) (r : Nat) (x : Handle) : (g.putHandle r x).copies = g.copies := rfl
@[simp] theorem putHandle_xt (g : Group) (r : Nat) (x : Handle) : (g.putHandle r x).xt = g.xt := rfl
@[simp] theorem putHandle_allAt (g : Group) (r : Nat) (x : Handle) : (g.putHandle r x).allAt = g.allAt := rfl
@[simp] theorem putHandle_active (g : Group) (r : Nat) (x : Handle) : (g.putHandle r x).active = g.active := rfl
@[simp] theorem putHandle_placed (g : Group) (r : Nat) (x : Handle) : (g.putHandle r x).placed = g.placed := rfl
@[simp] theorem putHandle_yielded (g : Group) (r : Nat) (x : Handle) : (g.putHandle r x).yielded = g.yielded := rfl
@[simp] theorem putHandle_ready (g : Group) (r : Nat) (x : Handle) : (g.putHandle r x).ready = g.ready := rfl
@[simp] theorem putHandle_readySince (g : Group) (r : Nat) (x : Handle) : (g.putHandle r x).readySince = g.readySince := rfl
@[simp] theorem putHandle_lastIssue (g : Group) (r : Nat) (x : Handle) : (g.putHandle r x).lastIssue = g.lastIssue := rfl

/-! ## `putWitness` writes `w` -/

@[simp] theorem putWitness_id (g : Group) (r : Nat) (x : Witness) : (g.putWitness r x).id = g.id := rfl
@[simp] theorem putWitness_asid (g : Group) (r : Nat) (x : Witness) : (g.putWitness r x).asid = g.asid := rfl
@[simp] theorem putWitness_core (g : Group) (r : Nat) (x : Witness) : (g.putWitness r x).core = g.core := rfl
@[simp] theorem putWitness_quad (g : Group) (r : Nat) (x : Witness) : (g.putWitness r x).quad = g.quad := rfl
@[simp] theorem putWitness_slots (g : Group) (r : Nat) (x : Witness) : (g.putWitness r x).slots = g.slots := rfl
@[simp] theorem putWitness_width (g : Group) (r : Nat) (x : Witness) : (g.putWitness r x).width = g.width := rfl
@[simp] theorem putWitness_vregs (g : Group) (r : Nat) (x : Witness) : (g.putWitness r x).vregs = g.vregs := rfl
@[simp] theorem putWitness_acc (g : Group) (r : Nat) (x : Witness) : (g.putWitness r x).acc = g.acc := rfl
@[simp] theorem putWitness_plat (g : Group) (r : Nat) (x : Witness) : (g.putWitness r x).plat = g.plat := rfl
@[simp] theorem putWitness_banks (g : Group) (r : Nat) (x : Witness) : (g.putWitness r x).banks = g.banks := rfl
@[simp] theorem putWitness_rdv (g : Group) (r : Nat) (x : Witness) : (g.putWitness r x).rdv = g.rdv := rfl
@[simp] theorem putWitness_lendCount (g : Group) (r : Nat) (x : Witness) : (g.putWitness r x).lendCount = g.lendCount := rfl
@[simp] theorem putWitness_v (g : Group) (r : Nat) (x : Witness) : (g.putWitness r x).v = g.v := rfl
@[simp] theorem putWitness_s (g : Group) (r : Nat) (x : Witness) : (g.putWitness r x).s = g.s := rfl
@[simp] theorem putWitness_m (g : Group) (r : Nat) (x : Witness) : (g.putWitness r x).m = g.m := rfl
@[simp] theorem putWitness_h (g : Group) (r : Nat) (x : Witness) : (g.putWitness r x).h = g.h := rfl
@[simp] theorem putWitness_c (g : Group) (r : Nat) (x : Witness) : (g.putWitness r x).c = g.c := rfl
@[simp] theorem putWitness_latch (g : Group) (r : Nat) (x : Witness) : (g.putWitness r x).latch = g.latch := rfl
@[simp] theorem putWitness_randkey (g : Group) (r : Nat) (x : Witness) : (g.putWitness r x).randkey = g.randkey := rfl
@[simp] theorem putWitness_stamp (g : Group) (r : Nat) (x : Witness) : (g.putWitness r x).stamp = g.stamp := rfl
@[simp] theorem putWitness_why (g : Group) (r : Nat) (x : Witness) : (g.putWitness r x).why = g.why := rfl
@[simp] theorem putWitness_pc (g : Group) (r : Nat) (x : Witness) : (g.putWitness r x).pc = g.pc := rfl
@[simp] theorem putWitness_pot (g : Group) (r : Nat) (x : Witness) : (g.putWitness r x).pot = g.pot := rfl
@[simp] theorem putWitness_monitor (g : Group) (r : Nat) (x : Witness) : (g.putWitness r x).monitor = g.monitor := rfl
@[simp] theorem putWitness_lastArr (g : Group) (r : Nat) (x : Witness) : (g.putWitness r x).lastArr = g.lastArr := rfl
@[simp] theorem putWitness_barArr (g : Group) (r : Nat) (x : Witness) : (g.putWitness r x).barArr = g.barArr := rfl
@[simp] theorem putWitness_barWait (g : Group) (r : Nat) (x : Witness) : (g.putWitness r x).barWait = g.barWait := rfl
@[simp] theorem putWitness_threads (g : Group) (r : Nat) (x : Witness) : (g.putWitness r x).threads = g.threads := rfl
@[simp] theorem putWitness_cohorts (g : Group) (r : Nat) (x : Witness) : (g.putWitness r x).cohorts = g.cohorts := rfl
@[simp] theorem putWitness_recruits (g : Group) (r : Nat) (x : Witness) : (g.putWitness r x).recruits = g.recruits := rfl
@[simp] theorem putWitness_nextCid (g : Group) (r : Nat) (x : Witness) : (g.putWitness r x).nextCid = g.nextCid := rfl
@[simp] theorem putWitness_held (g : Group) (r : Nat) (x : Witness) : (g.putWitness r x).held = g.held := rfl
@[simp] theorem putWitness_records (g : Group) (r : Nat) (x : Witness) : (g.putWitness r x).records = g.records := rfl
@[simp] theorem putWitness_nacked (g : Group) (r : Nat) (x : Witness) : (g.putWitness r x).nacked = g.nacked := rfl
@[simp] theorem putWitness_closed (g : Group) (r : Nat) (x : Witness) : (g.putWitness r x).closed = g.closed := rfl
@[simp] theorem putWitness_copies (g : Group) (r : Nat) (x : Witness) : (g.putWitness r x).copies = g.copies := rfl
@[simp] theorem putWitness_xt (g : Group) (r : Nat) (x : Witness) : (g.putWitness r x).xt = g.xt := rfl
@[simp] theorem putWitness_allAt (g : Group) (r : Nat) (x : Witness) : (g.putWitness r x).allAt = g.allAt := rfl
@[simp] theorem putWitness_active (g : Group) (r : Nat) (x : Witness) : (g.putWitness r x).active = g.active := rfl
@[simp] theorem putWitness_placed (g : Group) (r : Nat) (x : Witness) : (g.putWitness r x).placed = g.placed := rfl
@[simp] theorem putWitness_yielded (g : Group) (r : Nat) (x : Witness) : (g.putWitness r x).yielded = g.yielded := rfl
@[simp] theorem putWitness_ready (g : Group) (r : Nat) (x : Witness) : (g.putWitness r x).ready = g.ready := rfl
@[simp] theorem putWitness_readySince (g : Group) (r : Nat) (x : Witness) : (g.putWitness r x).readySince = g.readySince := rfl
@[simp] theorem putWitness_lastIssue (g : Group) (r : Nat) (x : Witness) : (g.putWitness r x).lastIssue = g.lastIssue := rfl

/-! ## `putTile` writes `c` -/

@[simp] theorem putTile_id (g : Group) (r : Nat) (x : Tile) : (g.putTile r x).id = g.id := rfl
@[simp] theorem putTile_asid (g : Group) (r : Nat) (x : Tile) : (g.putTile r x).asid = g.asid := rfl
@[simp] theorem putTile_core (g : Group) (r : Nat) (x : Tile) : (g.putTile r x).core = g.core := rfl
@[simp] theorem putTile_quad (g : Group) (r : Nat) (x : Tile) : (g.putTile r x).quad = g.quad := rfl
@[simp] theorem putTile_slots (g : Group) (r : Nat) (x : Tile) : (g.putTile r x).slots = g.slots := rfl
@[simp] theorem putTile_width (g : Group) (r : Nat) (x : Tile) : (g.putTile r x).width = g.width := rfl
@[simp] theorem putTile_vregs (g : Group) (r : Nat) (x : Tile) : (g.putTile r x).vregs = g.vregs := rfl
@[simp] theorem putTile_acc (g : Group) (r : Nat) (x : Tile) : (g.putTile r x).acc = g.acc := rfl
@[simp] theorem putTile_plat (g : Group) (r : Nat) (x : Tile) : (g.putTile r x).plat = g.plat := rfl
@[simp] theorem putTile_banks (g : Group) (r : Nat) (x : Tile) : (g.putTile r x).banks = g.banks := rfl
@[simp] theorem putTile_rdv (g : Group) (r : Nat) (x : Tile) : (g.putTile r x).rdv = g.rdv := rfl
@[simp] theorem putTile_lendCount (g : Group) (r : Nat) (x : Tile) : (g.putTile r x).lendCount = g.lendCount := rfl
@[simp] theorem putTile_v (g : Group) (r : Nat) (x : Tile) : (g.putTile r x).v = g.v := rfl
@[simp] theorem putTile_s (g : Group) (r : Nat) (x : Tile) : (g.putTile r x).s = g.s := rfl
@[simp] theorem putTile_m (g : Group) (r : Nat) (x : Tile) : (g.putTile r x).m = g.m := rfl
@[simp] theorem putTile_h (g : Group) (r : Nat) (x : Tile) : (g.putTile r x).h = g.h := rfl
@[simp] theorem putTile_w (g : Group) (r : Nat) (x : Tile) : (g.putTile r x).w = g.w := rfl
@[simp] theorem putTile_latch (g : Group) (r : Nat) (x : Tile) : (g.putTile r x).latch = g.latch := rfl
@[simp] theorem putTile_randkey (g : Group) (r : Nat) (x : Tile) : (g.putTile r x).randkey = g.randkey := rfl
@[simp] theorem putTile_stamp (g : Group) (r : Nat) (x : Tile) : (g.putTile r x).stamp = g.stamp := rfl
@[simp] theorem putTile_why (g : Group) (r : Nat) (x : Tile) : (g.putTile r x).why = g.why := rfl
@[simp] theorem putTile_pc (g : Group) (r : Nat) (x : Tile) : (g.putTile r x).pc = g.pc := rfl
@[simp] theorem putTile_pot (g : Group) (r : Nat) (x : Tile) : (g.putTile r x).pot = g.pot := rfl
@[simp] theorem putTile_monitor (g : Group) (r : Nat) (x : Tile) : (g.putTile r x).monitor = g.monitor := rfl
@[simp] theorem putTile_lastArr (g : Group) (r : Nat) (x : Tile) : (g.putTile r x).lastArr = g.lastArr := rfl
@[simp] theorem putTile_barArr (g : Group) (r : Nat) (x : Tile) : (g.putTile r x).barArr = g.barArr := rfl
@[simp] theorem putTile_barWait (g : Group) (r : Nat) (x : Tile) : (g.putTile r x).barWait = g.barWait := rfl
@[simp] theorem putTile_threads (g : Group) (r : Nat) (x : Tile) : (g.putTile r x).threads = g.threads := rfl
@[simp] theorem putTile_cohorts (g : Group) (r : Nat) (x : Tile) : (g.putTile r x).cohorts = g.cohorts := rfl
@[simp] theorem putTile_recruits (g : Group) (r : Nat) (x : Tile) : (g.putTile r x).recruits = g.recruits := rfl
@[simp] theorem putTile_nextCid (g : Group) (r : Nat) (x : Tile) : (g.putTile r x).nextCid = g.nextCid := rfl
@[simp] theorem putTile_held (g : Group) (r : Nat) (x : Tile) : (g.putTile r x).held = g.held := rfl
@[simp] theorem putTile_records (g : Group) (r : Nat) (x : Tile) : (g.putTile r x).records = g.records := rfl
@[simp] theorem putTile_nacked (g : Group) (r : Nat) (x : Tile) : (g.putTile r x).nacked = g.nacked := rfl
@[simp] theorem putTile_closed (g : Group) (r : Nat) (x : Tile) : (g.putTile r x).closed = g.closed := rfl
@[simp] theorem putTile_copies (g : Group) (r : Nat) (x : Tile) : (g.putTile r x).copies = g.copies := rfl
@[simp] theorem putTile_xt (g : Group) (r : Nat) (x : Tile) : (g.putTile r x).xt = g.xt := rfl
@[simp] theorem putTile_allAt (g : Group) (r : Nat) (x : Tile) : (g.putTile r x).allAt = g.allAt := rfl
@[simp] theorem putTile_active (g : Group) (r : Nat) (x : Tile) : (g.putTile r x).active = g.active := rfl
@[simp] theorem putTile_placed (g : Group) (r : Nat) (x : Tile) : (g.putTile r x).placed = g.placed := rfl
@[simp] theorem putTile_yielded (g : Group) (r : Nat) (x : Tile) : (g.putTile r x).yielded = g.yielded := rfl
@[simp] theorem putTile_ready (g : Group) (r : Nat) (x : Tile) : (g.putTile r x).ready = g.ready := rfl
@[simp] theorem putTile_readySince (g : Group) (r : Nat) (x : Tile) : (g.putTile r x).readySince = g.readySince := rfl
@[simp] theorem putTile_lastIssue (g : Group) (r : Nat) (x : Tile) : (g.putTile r x).lastIssue = g.lastIssue := rfl

/-! ## `putCohort` writes `cohorts` -/

@[simp] theorem putCohort_id (g : Group) (c : Cohort) : (g.putCohort c).id = g.id := rfl
@[simp] theorem putCohort_asid (g : Group) (c : Cohort) : (g.putCohort c).asid = g.asid := rfl
@[simp] theorem putCohort_core (g : Group) (c : Cohort) : (g.putCohort c).core = g.core := rfl
@[simp] theorem putCohort_quad (g : Group) (c : Cohort) : (g.putCohort c).quad = g.quad := rfl
@[simp] theorem putCohort_slots (g : Group) (c : Cohort) : (g.putCohort c).slots = g.slots := rfl
@[simp] theorem putCohort_width (g : Group) (c : Cohort) : (g.putCohort c).width = g.width := rfl
@[simp] theorem putCohort_vregs (g : Group) (c : Cohort) : (g.putCohort c).vregs = g.vregs := rfl
@[simp] theorem putCohort_acc (g : Group) (c : Cohort) : (g.putCohort c).acc = g.acc := rfl
@[simp] theorem putCohort_plat (g : Group) (c : Cohort) : (g.putCohort c).plat = g.plat := rfl
@[simp] theorem putCohort_banks (g : Group) (c : Cohort) : (g.putCohort c).banks = g.banks := rfl
@[simp] theorem putCohort_rdv (g : Group) (c : Cohort) : (g.putCohort c).rdv = g.rdv := rfl
@[simp] theorem putCohort_lendCount (g : Group) (c : Cohort) : (g.putCohort c).lendCount = g.lendCount := rfl
@[simp] theorem putCohort_v (g : Group) (c : Cohort) : (g.putCohort c).v = g.v := rfl
@[simp] theorem putCohort_s (g : Group) (c : Cohort) : (g.putCohort c).s = g.s := rfl
@[simp] theorem putCohort_m (g : Group) (c : Cohort) : (g.putCohort c).m = g.m := rfl
@[simp] theorem putCohort_h (g : Group) (c : Cohort) : (g.putCohort c).h = g.h := rfl
@[simp] theorem putCohort_w (g : Group) (c : Cohort) : (g.putCohort c).w = g.w := rfl
@[simp] theorem putCohort_c (g : Group) (c : Cohort) : (g.putCohort c).c = g.c := rfl
@[simp] theorem putCohort_latch (g : Group) (c : Cohort) : (g.putCohort c).latch = g.latch := rfl
@[simp] theorem putCohort_randkey (g : Group) (c : Cohort) : (g.putCohort c).randkey = g.randkey := rfl
@[simp] theorem putCohort_stamp (g : Group) (c : Cohort) : (g.putCohort c).stamp = g.stamp := rfl
@[simp] theorem putCohort_why (g : Group) (c : Cohort) : (g.putCohort c).why = g.why := rfl
@[simp] theorem putCohort_pc (g : Group) (c : Cohort) : (g.putCohort c).pc = g.pc := rfl
@[simp] theorem putCohort_pot (g : Group) (c : Cohort) : (g.putCohort c).pot = g.pot := rfl
@[simp] theorem putCohort_monitor (g : Group) (c : Cohort) : (g.putCohort c).monitor = g.monitor := rfl
@[simp] theorem putCohort_lastArr (g : Group) (c : Cohort) : (g.putCohort c).lastArr = g.lastArr := rfl
@[simp] theorem putCohort_barArr (g : Group) (c : Cohort) : (g.putCohort c).barArr = g.barArr := rfl
@[simp] theorem putCohort_barWait (g : Group) (c : Cohort) : (g.putCohort c).barWait = g.barWait := rfl
@[simp] theorem putCohort_threads (g : Group) (c : Cohort) : (g.putCohort c).threads = g.threads := rfl
@[simp] theorem putCohort_recruits (g : Group) (c : Cohort) : (g.putCohort c).recruits = g.recruits := rfl
@[simp] theorem putCohort_nextCid (g : Group) (c : Cohort) : (g.putCohort c).nextCid = g.nextCid := rfl
@[simp] theorem putCohort_held (g : Group) (c : Cohort) : (g.putCohort c).held = g.held := rfl
@[simp] theorem putCohort_records (g : Group) (c : Cohort) : (g.putCohort c).records = g.records := rfl
@[simp] theorem putCohort_nacked (g : Group) (c : Cohort) : (g.putCohort c).nacked = g.nacked := rfl
@[simp] theorem putCohort_closed (g : Group) (c : Cohort) : (g.putCohort c).closed = g.closed := rfl
@[simp] theorem putCohort_copies (g : Group) (c : Cohort) : (g.putCohort c).copies = g.copies := rfl
@[simp] theorem putCohort_xt (g : Group) (c : Cohort) : (g.putCohort c).xt = g.xt := rfl
@[simp] theorem putCohort_allAt (g : Group) (c : Cohort) : (g.putCohort c).allAt = g.allAt := rfl
@[simp] theorem putCohort_active (g : Group) (c : Cohort) : (g.putCohort c).active = g.active := rfl
@[simp] theorem putCohort_placed (g : Group) (c : Cohort) : (g.putCohort c).placed = g.placed := rfl
@[simp] theorem putCohort_yielded (g : Group) (c : Cohort) : (g.putCohort c).yielded = g.yielded := rfl
@[simp] theorem putCohort_ready (g : Group) (c : Cohort) : (g.putCohort c).ready = g.ready := rfl
@[simp] theorem putCohort_readySince (g : Group) (c : Cohort) : (g.putCohort c).readySince = g.readySince := rfl
@[simp] theorem putCohort_lastIssue (g : Group) (c : Cohort) : (g.putCohort c).lastIssue = g.lastIssue := rfl

/-! ## `putThread` writes `threads` -/

@[simp] theorem putThread_id (g : Group) (i : Nat) (t : Thread) : (g.putThread i t).id = g.id := rfl
@[simp] theorem putThread_asid (g : Group) (i : Nat) (t : Thread) : (g.putThread i t).asid = g.asid := rfl
@[simp] theorem putThread_core (g : Group) (i : Nat) (t : Thread) : (g.putThread i t).core = g.core := rfl
@[simp] theorem putThread_quad (g : Group) (i : Nat) (t : Thread) : (g.putThread i t).quad = g.quad := rfl
@[simp] theorem putThread_slots (g : Group) (i : Nat) (t : Thread) : (g.putThread i t).slots = g.slots := rfl
@[simp] theorem putThread_width (g : Group) (i : Nat) (t : Thread) : (g.putThread i t).width = g.width := rfl
@[simp] theorem putThread_vregs (g : Group) (i : Nat) (t : Thread) : (g.putThread i t).vregs = g.vregs := rfl
@[simp] theorem putThread_acc (g : Group) (i : Nat) (t : Thread) : (g.putThread i t).acc = g.acc := rfl
@[simp] theorem putThread_plat (g : Group) (i : Nat) (t : Thread) : (g.putThread i t).plat = g.plat := rfl
@[simp] theorem putThread_banks (g : Group) (i : Nat) (t : Thread) : (g.putThread i t).banks = g.banks := rfl
@[simp] theorem putThread_rdv (g : Group) (i : Nat) (t : Thread) : (g.putThread i t).rdv = g.rdv := rfl
@[simp] theorem putThread_lendCount (g : Group) (i : Nat) (t : Thread) : (g.putThread i t).lendCount = g.lendCount := rfl
@[simp] theorem putThread_v (g : Group) (i : Nat) (t : Thread) : (g.putThread i t).v = g.v := rfl
@[simp] theorem putThread_s (g : Group) (i : Nat) (t : Thread) : (g.putThread i t).s = g.s := rfl
@[simp] theorem putThread_m (g : Group) (i : Nat) (t : Thread) : (g.putThread i t).m = g.m := rfl
@[simp] theorem putThread_h (g : Group) (i : Nat) (t : Thread) : (g.putThread i t).h = g.h := rfl
@[simp] theorem putThread_w (g : Group) (i : Nat) (t : Thread) : (g.putThread i t).w = g.w := rfl
@[simp] theorem putThread_c (g : Group) (i : Nat) (t : Thread) : (g.putThread i t).c = g.c := rfl
@[simp] theorem putThread_latch (g : Group) (i : Nat) (t : Thread) : (g.putThread i t).latch = g.latch := rfl
@[simp] theorem putThread_randkey (g : Group) (i : Nat) (t : Thread) : (g.putThread i t).randkey = g.randkey := rfl
@[simp] theorem putThread_stamp (g : Group) (i : Nat) (t : Thread) : (g.putThread i t).stamp = g.stamp := rfl
@[simp] theorem putThread_why (g : Group) (i : Nat) (t : Thread) : (g.putThread i t).why = g.why := rfl
@[simp] theorem putThread_pc (g : Group) (i : Nat) (t : Thread) : (g.putThread i t).pc = g.pc := rfl
@[simp] theorem putThread_pot (g : Group) (i : Nat) (t : Thread) : (g.putThread i t).pot = g.pot := rfl
@[simp] theorem putThread_monitor (g : Group) (i : Nat) (t : Thread) : (g.putThread i t).monitor = g.monitor := rfl
@[simp] theorem putThread_lastArr (g : Group) (i : Nat) (t : Thread) : (g.putThread i t).lastArr = g.lastArr := rfl
@[simp] theorem putThread_barArr (g : Group) (i : Nat) (t : Thread) : (g.putThread i t).barArr = g.barArr := rfl
@[simp] theorem putThread_barWait (g : Group) (i : Nat) (t : Thread) : (g.putThread i t).barWait = g.barWait := rfl
@[simp] theorem putThread_cohorts (g : Group) (i : Nat) (t : Thread) : (g.putThread i t).cohorts = g.cohorts := rfl
@[simp] theorem putThread_recruits (g : Group) (i : Nat) (t : Thread) : (g.putThread i t).recruits = g.recruits := rfl
@[simp] theorem putThread_nextCid (g : Group) (i : Nat) (t : Thread) : (g.putThread i t).nextCid = g.nextCid := rfl
@[simp] theorem putThread_held (g : Group) (i : Nat) (t : Thread) : (g.putThread i t).held = g.held := rfl
@[simp] theorem putThread_records (g : Group) (i : Nat) (t : Thread) : (g.putThread i t).records = g.records := rfl
@[simp] theorem putThread_nacked (g : Group) (i : Nat) (t : Thread) : (g.putThread i t).nacked = g.nacked := rfl
@[simp] theorem putThread_closed (g : Group) (i : Nat) (t : Thread) : (g.putThread i t).closed = g.closed := rfl
@[simp] theorem putThread_copies (g : Group) (i : Nat) (t : Thread) : (g.putThread i t).copies = g.copies := rfl
@[simp] theorem putThread_xt (g : Group) (i : Nat) (t : Thread) : (g.putThread i t).xt = g.xt := rfl
@[simp] theorem putThread_allAt (g : Group) (i : Nat) (t : Thread) : (g.putThread i t).allAt = g.allAt := rfl
@[simp] theorem putThread_active (g : Group) (i : Nat) (t : Thread) : (g.putThread i t).active = g.active := rfl
@[simp] theorem putThread_placed (g : Group) (i : Nat) (t : Thread) : (g.putThread i t).placed = g.placed := rfl
@[simp] theorem putThread_yielded (g : Group) (i : Nat) (t : Thread) : (g.putThread i t).yielded = g.yielded := rfl
@[simp] theorem putThread_ready (g : Group) (i : Nat) (t : Thread) : (g.putThread i t).ready = g.ready := rfl
@[simp] theorem putThread_readySince (g : Group) (i : Nat) (t : Thread) : (g.putThread i t).readySince = g.readySince := rfl
@[simp] theorem putThread_lastIssue (g : Group) (i : Nat) (t : Thread) : (g.putThread i t).lastIssue = g.lastIssue := rfl

/-! ## Lookups -/

/-- A list whose entries of one key are replaced answers the new entry for that key, where there was one. -/
theorem find_map_same {α κ : Type} [BEq κ] [LawfulBEq κ] (key : α → κ) (y : α) (l : List α) :
    ((l.map fun x => if key x == key y then y else x).find? fun x => key x == key y) =
      (l.find? fun x => key x == key y).map fun _ => y := by
  induction l with
  | nil => rfl
  | cons x l ih =>
    simp only [List.map_cons, List.find?_cons]
    by_cases h : key x == key y
    · simp [h]
    · simp [h, ih]

/-- and what it answered before for every other key. -/
theorem find_map_other {α κ : Type} [BEq κ] [LawfulBEq κ] (key : α → κ) (y : α) (k : κ) (hk : (key y == k) = false) (l : List α) :
    ((l.map fun x => if key x == key y then y else x).find? fun x => key x == k) = l.find? fun x => key x == k := by
  induction l with
  | nil => rfl
  | cons x l ih =>
    simp only [List.map_cons, List.find?_cons]
    by_cases h : key x == key y
    · have hx : key x = key y := eq_of_beq h
      simp [hx, hk, ih]
    · simp [h, ih]

theorem group?_putGroup_same (s : State) (g : Group) : (s.putGroup g).group? g.id = (s.group? g.id).map fun _ => g :=
  find_map_same Group.id g s.groups
theorem group?_putGroup_other (s : State) (g : Group) (id : GroupId) (h : (g.id == id) = false) :
    (s.putGroup g).group? id = s.group? id := find_map_other Group.id g id h s.groups
theorem ctx?_putCtx_same (s : State) (c : Context) : (s.putCtx c).ctx? c.asid = (s.ctx? c.asid).map fun _ => c :=
  find_map_same Context.asid c s.ctxs
theorem ctx?_putCtx_other (s : State) (c : Context) (a : Nat) (h : (c.asid == a) = false) :
    (s.putCtx c).ctx? a = s.ctx? a := find_map_other Context.asid c a h s.ctxs
theorem team?_putTeam_same (s : State) (t : Team) : (s.putTeam t).team? t.id = (s.team? t.id).map fun _ => t :=
  find_map_same Team.id t s.teams
theorem team?_putTeam_other (s : State) (t : Team) (id : TeamId) (h : (t.id == id) = false) :
    (s.putTeam t).team? id = s.team? id := find_map_other Team.id t id h s.teams
theorem grid?_putGrid_same (s : State) (g : Grid) : (s.putGrid g).grid? g.id = (s.grid? g.id).map fun _ => g :=
  find_map_same Grid.id g s.grids
theorem grid?_putGrid_other (s : State) (g : Grid) (id : GridId) (h : (g.id == id) = false) :
    (s.putGrid g).grid? id = s.grid? id := find_map_other Grid.id g id h s.grids
theorem op?_putOp_same (s : State) (o : MemOp) : (s.putOp o).op? o.id = (s.op? o.id).map fun _ => o :=
  find_map_same MemOp.id o s.ops
theorem op?_putOp_other (s : State) (o : MemOp) (id : Nat) (h : (o.id == id) = false) :
    (s.putOp o).op? id = s.op? id := find_map_other MemOp.id o id h s.ops
theorem cohort?_putCohort_same (g : Group) (c : Cohort) : (g.putCohort c).cohort? c.cid = (g.cohort? c.cid).map fun _ => c :=
  find_map_same Cohort.cid c g.cohorts
theorem cohort?_putCohort_other (g : Group) (c : Cohort) (cid : Nat) (h : (c.cid == cid) = false) :
    (g.putCohort c).cohort? cid = g.cohort? cid := find_map_other Cohort.cid c cid h g.cohorts

/-- What a lookup finds has the key asked for. -/
theorem group?_id {s : State} {id : GroupId} {g : Group} (h : s.group? id = some g) : g.id = id :=
  eq_of_beq (List.find?_some (p := fun x : Group => x.id == id) h)
theorem cohort?_cid {g : Group} {cid : Nat} {c : Cohort} (h : g.cohort? cid = some c) : c.cid = cid :=
  eq_of_beq (List.find?_some (p := fun x : Cohort => x.cid == cid) h)
theorem ctx?_asid {s : State} {a : Nat} {c : Context} (h : s.ctx? a = some c) : c.asid = a :=
  eq_of_beq (List.find?_some (p := fun x : Context => x.asid == a) h)
theorem op?_id {s : State} {id : Nat} {o : MemOp} (h : s.op? id = some o) : o.id = id :=
  eq_of_beq (List.find?_some (p := fun x : MemOp => x.id == id) h)

/-! ## Registers of a group -/

theorem sreg_setS_same (g : Group) (r : Nat) (x : W64) (h : r < g.s.length) : (g.setS r x).sreg r = ⟨x, true, false⟩ := by
  simp [Group.setS, Group.putSreg, Group.sreg, h]
theorem sreg_setS_other (g : Group) (r q : Nat) (x : W64) (h : r ≠ q) : (g.setS r x).sreg q = g.sreg q := by
  simp [Group.setS, Group.putSreg, Group.sreg, h]
theorem vreg_putVreg_same (g : Group) (r : Nat) (x : VReg) (h : r < g.v.length) : (g.putVreg r x).vreg r = x := by
  simp [Group.putVreg, Group.vreg, h]
theorem vreg_putVreg_other (g : Group) (r q : Nat) (x : VReg) (h : r ≠ q) : (g.putVreg r x).vreg q = g.vreg q := by
  simp [Group.putVreg, Group.vreg, h]
theorem mreg_putMreg_same (g : Group) (r : Nat) (x : MReg) (h : r < g.m.length) : (g.putMreg r x).mreg r = x := by
  simp [Group.putMreg, Group.mreg, h]
theorem mreg_putMreg_other (g : Group) (r q : Nat) (x : MReg) (h : r ≠ q) : (g.putMreg r x).mreg q = g.mreg q := by
  simp [Group.putMreg, Group.mreg, h]
/-- m0 is not written (R53). -/
@[simp] theorem setM_zero (g : Group) (x : Lanes) : g.setM 0 x = g := rfl
/-- A predicated write that selects no lane changes nothing (log entry 16). -/
@[simp] theorem write_none (x : VReg) (w : Nat) (val : Nat → W32) (t : Tag) : x.write w 0 val t = x := rfl

end Sys2Proof.Machine
end

