-- ==== Sys2Proof/Machine/Cipher.lean ====
section
/-! DEFINITION. Machine/Cipher.lean: AES-256-XTS with ciphertext stealing, by which a protected page's sectors are encrypted
(06_compression R133, 17_system R318). PRESUMED (log entry 145): the spec names the cipher, and its public definition is taken. -/

namespace Sys2Proof.Machine

/-! ## AES -/

/-- A product in GF(2^8) of x^8 + x^4 + x^3 + x + 1. -/
def gfMul (a b : Nat) : Nat :=
  ((List.range 8).foldl (fun (r : Nat × Nat) i =>
    (if b.testBit i then r.1 ^^^ r.2 else r.1, if r.2 < 128 then 2 * r.2 else (2 * r.2) ^^^ 0x11B)) (0, a)).1
/-- An inverse in GF(2^8), 0 for 0: the 254th power. -/
def gfInv (a : Nat) : Nat :=
  ((List.range 7).foldl (fun (r : Nat × Nat) _ => (gfMul r.1 (gfMul r.2 r.2), gfMul r.2 r.2)) (1, a)).1
/-- A byte rotated left. -/
def rotl8 (x k : Nat) : Nat := x * 2 ^ k % 256 + x / 2 ^ (8 - k)
/-- SubBytes of one byte. -/
def aesSub (a : Nat) : Nat :=
  let b := gfInv a
  b ^^^ rotl8 b 1 ^^^ rotl8 b 2 ^^^ rotl8 b 3 ^^^ rotl8 b 4 ^^^ 0x63
/-- Two strings of bytes added. -/
def xorBytes (a b : List Nat) : List Nat := List.zipWith (· ^^^ ·) a b
/-- ShiftRows: byte `r + 4c` of a block stands in row `r`, column `c`. -/
def aesShift (l : List Nat) : List Nat := (List.range 16).map fun i => (l[(i + 4 * (i % 4)) % 16]?).getD 0
/-- MixColumns. -/
def aesMix (l : List Nat) : List Nat :=
  (List.range 16).map fun i =>
    let at_ := fun (k : Nat) => (l[i / 4 * 4 + (i + k) % 4]?).getD 0
    gfMul (at_ 0) 2 ^^^ gfMul (at_ 1) 3 ^^^ at_ 2 ^^^ at_ 3
/-- Word `i` of the key schedule, from those before it. -/
def aesWord (w : List (List Nat)) (i : Nat) : List Nat :=
  let t := (w[i - 1]?).getD []
  let t :=
    if i % 8 = 0 then xorBytes ((t.drop 1 ++ t.take 1).map aesSub) [2 ^ (i / 8 - 1), 0, 0, 0]
    else if i % 8 = 4 then t.map aesSub
    else t
  xorBytes ((w[i - 8]?).getD []) t
/-- The 15 round keys of a key of 32 bytes. -/
def aesKeys (key : List Nat) : List (List Nat) :=
  let w := (List.range 52).foldl (fun w i => w ++ [aesWord w (i + 8)]) ((List.range 8).map fun i => (key.drop (4 * i)).take 4)
  (List.range 15).map fun r => ((w.drop (4 * r)).take 4).flatten
/-- AES-256 of a block of 16 bytes under round keys. -/
def aesBlock (keys : List (List Nat)) (b : List Nat) : List Nat :=
  let key := fun (r : Nat) => (keys[r]?).getD []
  let b := (List.range 13).foldl (fun b r => xorBytes (aesMix (aesShift (b.map aesSub))) (key (r + 1))) (xorBytes b (key 0))
  xorBytes (aesShift (b.map aesSub)) (key 14)

/-! ## XTS -/

/-- A tweak times the primitive element of GF(2^128). -/
def xtsNext (t : Nat) : Nat := if t < 2 ^ 127 then 2 * t else (2 * t - 2 ^ 128) ^^^ 0x87
/-- A block of 16 bytes under a tweak. -/
def xtsBlock (keys : List (List Nat)) (t : Nat) (b : List Nat) : List Nat :=
  xorBytes (aesBlock keys (xorBytes b (bytesLE 16 t))) (bytesLE 16 t)
/-- The blocks of a data unit in turn; a last piece of less than 16 bytes steals from the block before it. -/
def xtsBlocks (keys : List (List Nat)) (t : Nat) (l : List (List Nat)) : List Nat :=
  match l with
  | [] => []
  | [b] => xtsBlock keys t b
  | [b, e] =>
    if e.length = 16 then xtsBlock keys t b ++ xtsBlock keys (xtsNext t) e
    else
      let c := xtsBlock keys t b
      xtsBlock keys (xtsNext t) (e ++ c.drop e.length) ++ c.take e.length
  | b :: rest => xtsBlock keys t b ++ xtsBlocks keys (xtsNext t) rest
/-- AES-256-XTS of a data unit: the key pair is the data key, then the tweak key, each in ascending bytes. -/
def xtsEncrypt (key : BitVec 512) (tweak : Nat) (data : List Nat) : List Nat :=
  let k := bytesLE 64 key.toNat
  let t := ofBytesLE (aesBlock (aesKeys (k.drop 32)) (bytesLE 16 tweak))
  xtsBlocks (aesKeys (k.take 32)) t ((List.range ((data.length + 15) / 16)).map fun i => (data.drop (16 * i)).take 16)

end Sys2Proof.Machine
end

