-- ==== Sys2Proof/Machine/Run.lean ====
section
/-! DEFINITION. Machine/Run.lean: what the sectors of a vault hold: runs as R133 packs and unpacks them, side words, and the
encryption of protected pages (06_compression R133, R134, 17_system R318). A program meets a block's bytes only as its home slice
decodes them, so `State.mem` holds them decoded; the sectors are a view of it. -/

namespace Sys2Proof.Machine

/-! ## Packing (R133) -/

/-- d[i]: a word less the base, modulo 2^32. -/
def deltaOf (base x : Nat) : Nat := (x + 2 ^ 32 - base) % 2 ^ 32
/-- Two words of a D4 block as a byte, four of their differences' bits each. -/
def packPairs (base : Nat) (w : List Nat) : List Nat :=
  match w with
  | x :: y :: rest => (deltaOf base x % 16 + 16 * (deltaOf base y % 16)) :: packPairs base rest
  | _ => []
/-- The run data of a block's words under a code. -/
def packRun (code : Nat) (w : List Nat) : List Nat :=
  let base := (w.head?).getD 0
  match code with
  | 2 => packPairs base w
  | 3 => w.map fun x => deltaOf base x % 256
  | 4 => w.flatMap fun x => bytesLE 2 (deltaOf base x)
  | 7 => w.flatMap (bytesLE 4)
  | _ => []
/-- The side word of sector `k` of a run. -/
def sideWord (code k : Nat) (w : List Nat) : Nat :=
  if k = 0 && (code == 2 || code == 3 || code == 4) then (w.head?).getD 0 else 0
/-- A difference of `bits` bits, extended to 32. -/
def deltaExt (bits d : Nat) : Nat := (signedOf bits d % (2 ^ 32 : Int)).toNat
/-- Word `i` of a block as it reads back from its run data and the side word of its sector 0. -/
def unpackWord (code : Nat) (b : List Nat) (base i : Nat) : Nat :=
  let byte := fun (n : Nat) => (b[n]?).getD 0
  match code with
  | 2 => (base + deltaExt 4 (byte (i / 2) / 16 ^ (i % 2) % 16)) % 2 ^ 32
  | 3 => (base + deltaExt 8 (byte i)) % 2 ^ 32
  | 4 => (base + deltaExt 16 (byte (2 * i) + 256 * byte (2 * i + 1))) % 2 ^ 32
  | 7 => byte (4 * i) + 256 * byte (4 * i + 1) + 65536 * byte (4 * i + 2) + 16777216 * byte (4 * i + 3)
  | 1 => base
  | _ => 0

/-! ## Sectors (R133, R318) -/

/-- ENC and KEY of a descriptor (R112). -/
def descEnc (d : W64) : Bool := bitAt d.toNat 10
def descKey (d : W64) : Nat := bitsOf d.toNat 11 6
/-- The block of some context whose run, or whose place on a row page, holds a sector of a vault: context, block, its entry and the
sector's number in the run; of a dirty block, the run that it still owns. -/
def State.sectorOwner (s : State) (vault sector : Nat) : Option (Nat × Nat × MapEntry × Nat) :=
  s.ctxs.findSome? fun c =>
    (c.entries.find? fun e => ((c.dirty? e.1).map (·.ownsRun)).getD true && decide (e.2.loc ≤ sector) && decide (sector < e.2.loc + codeSize e.2.code) &&
      s.home c.asid (e.1 * lineBytes) == vault).map fun e => (c.asid, e.1, e.2, sector - e.2.loc)
/-- The words of a block as its run in DRAM holds them: of a dirty line, those it had before. -/
def State.dramWords (s : State) (asid block : Nat) : List Nat :=
  let k := memKey asid (block * lineBytes)
  let now := cellsIn s.mem k (k + lineBytes)
  let l := (((s.ctx? asid).bind fun c => c.dirty? block).map (·.old)).getD now
  (List.range 128).map (blockWord l k)
/-- The 64 bytes of a sector and its side word, as the home slice has encoded its block, before any encryption; a free sector, whose
contents R133 does not give, has none. -/
def State.plainSector (s : State) (vault sector : Nat) : Option (List Nat × Nat) :=
  (s.sectorOwner vault sector).map fun o =>
    let w := s.dramWords o.1 o.2.1
    (((packRun o.2.2.1.code w).drop (64 * o.2.2.2)).take 64, sideWord o.2.2.1.code o.2.2.2 w)
/-- R133, R318: the sector as DRAM holds it: on a page with ENC = 1, its 68 bytes encrypted under the key slot that KEY names, the
tweak being the sector's index. -/
def State.storedSector (s : State) (vault sector : Nat) : Option (List Nat × Nat) :=
  match s.sectorOwner vault sector, s.plainSector vault sector with
  | some o, some x =>
    match (s.ctx? o.1).bind fun c => c.page? (o.2.1 * lineBytes) with
    | none => some x
    | some p =>
      if !descEnc p.desc then some x
      else
        let key := ((s.keys[descKey p.desc]?).map (·.key)).getD 0
        let l := xtsEncrypt key sector (x.1 ++ bytesLE 4 x.2)
        some (l.take 64, ofBytesLE (l.drop 64))
  | _, _ => none

end Sys2Proof.Machine
end

