-- ==== Sys2Proof/Tests/Slice0.lean ====
section
/-! SUPPORT. Tests/Slice0.lean: words of the spec's encodings decoded, ill-formed terms refused, one step of an instruction on a
small state, and for every statement with hypotheses a state and operands that meet them. -/

open Sys2Proof Sys2Proof.Machine

namespace Sys2Proof.Tests

/-! ## A small state: one group of width 16 at word 1 of a clause at 0x10000 -/

def gid0 : GroupId := ⟨⟨⟨0, 4⟩, 0⟩, 0⟩
def c0 : Cohort := ⟨0, allLanes 16, 0x10000, 1, true, 15, .s, false, .none, false, none, false, 0⟩
def g0 : Group := { newGroup gid0 1 0 [0] placedWords with cohorts := [c0], active := true }
def gr0 : Grid := ⟨⟨0, 4⟩, 1, placedWords, 0, 0, 1, [], [], none, List.replicate 8 ⟨0⟩, [], 0, none⟩
def x0 : Context := { newContext ⟨1, 0, 4096, 0, [], none, [], []⟩ none with descs := [((0, 0), 7), ((1, 0), 61)] }
def t0 : Team :=
  { id := gid0.team, asid := 1, st := .running, core := 0, pairTeam := false, ident := 0, ae := 0, gens := List.replicate 16 0
    points := List.replicate 24 ⟨1, 0, 0, none⟩, plats := (List.range 8).map fun k => ⟨0, k, [], [], false⟩, banks := [0, 1, 2, 3]
    savedBanks := [], consists := [], latched := [], deferred := [], deferredRoom := 0, wants := false, rows := [], area := [], reserve := 0
    placedAt := 0, stop := false, halted := [], ending := false, arrivalsDone := [], engineOps := 0, launches := 0 }
def p0 : Partition := newPart ⟨0, 1, 0x100, List.range 16⟩ 0 Flash.reset
/-- The machine in which a group runs and its only cohort executes. -/
def stOf (g : Group) : State :=
  { State.reset with
    parts := [p0], ctxs := [x0], grids := [gr0], teams := [t0], groups := [g], cur := some ⟨g.id, 0, 0, 0⟩ }
/-- What its cohort sees. -/
def vwOf (g : Group) : View := ⟨⟨g.id, 0, 0, 0⟩, g, (g.cohorts.head?).getD c0, false⟩
def s0 : State := stOf g0
def v0 : View := vwOf g0
/-- A group whose s4 holds 3 and s5 holds 2^64 − 1, v3 the lanes' numbers plus one, tagged A. -/
def g1 : Group := ((g0.setS 4 3).setS 5 0xFFFFFFFFFFFFFFFF).putVreg 3 ⟨(List.range 16).map fun i => BitVec.ofNat 32 (i + 1), .a, true, false⟩
/-- The group an outcome leaves, where it is a next state. -/
def groupAfter (o : Out) : Option Group :=
  match o with
  | .next s => s.group? gid0
  | _ => none

/-! ## Words of the spec's encodings (03_encoding R70 to R78 and the examples of the chapters) -/

/-- Header of the example after R83: COUNT 2, class V, h2 and h5. -/
theorem test_header : decodeHeader 0xA0002412#32 = .ok ⟨2, .v, false, 0x0024#16⟩ := by decide
theorem test_header_written : encodeHeader ⟨2, .v, false, 0x0024#16⟩ = 0xA0002412#32 := by decide
theorem test_word_vAdd : decode .v 0x000C0C10#32 none = .ok (.vAdd ⟨3, 1, 1, 2, 0, 0⟩) := by decide
theorem test_word_vFma : decode .v 0x661433F2#32 none = .ok (.vFma ⟨5, 6, 0, 0x7E, 0, 2⟩) := by decide
theorem test_word_ldB32 : decode .m 0x881E20C0#32 (some 0x02800040#32) = .ok (.ldB32Ml ⟨7, 0x44, 0, 3, 0, 0, 0, 1, 0, 2, 0x40⟩) := by
  decide
theorem test_word_sLi : decode .s 0x4F140380#32 (some 0x12345678#32) = .ok (.sLi ⟨0x45, 0, 0, 0x70, 0, 0, 0x12345678⟩) := by decide
theorem test_word_sLih : decode .s 0x51140380#32 (some 0x00007F00#32) = .ok (.sLih ⟨0x45, 0, 0, 0x70, 0, 0, 0x00007F00⟩) := by decide
theorem test_word_vPack : decode .v 0x94401018#32 (some 0x00050001#32) = .ok (.vPack ⟨0x10, 2, 0, 3, 0, 0, 0, 0, 0, 0, 5, 1⟩) := by
  decide
theorem test_word_vUnpack : decode .v 0x96148000#32 (some 0x00050003#32) = .ok (.vUnpack ⟨5, 0x10, 0, 0, 0, 0, 0, 0, 0, 0, 5, 3⟩) := by
  decide
theorem test_word_vWmax : decode .v 0xB0A04000#32 (some 0x00020293#32) = .ok (.vWmax ⟨0x28, 8, 0, 0, 0, 0, 0, 0, 0, 0, 2, 0x293⟩) := by
  decide
theorem test_word_vAdj : decode .v 0xBAB19000#32 (some 0x000202D3#32) = .ok (.vAdj ⟨0x2C, 0x32, 0, 0, 0, 0, 0, 0, 0, 0, 2, 0x2D3⟩) := by
  decide
theorem test_word_cp : decode .e 0x003122C6#32 none = .ok (.cp ⟨1, 0x44, 0x45, 0x46⟩) := by decide
theorem test_word_cpQ : decode .e 0x045122C6#32 none = .ok (.cpQ ⟨2, 0x44, 0x45, 0x46⟩) := by decide
theorem test_word_collAr : decode .e 0x10B122C6#32 none = .ok (.collAr ⟨5, 0x44, 0x45, 0x46⟩) := by decide
theorem test_word_launch : decode .e 0x30113C80#32 none = .ok (.launch ⟨0, 0x44, 0x79, 0⟩) := by decide
theorem test_word_srRd : decode .k 0x010C0400#32 none = .ok (.srRd ⟨0x43, 0x010, 0⟩) := by decide
theorem test_word_bankMode : decode .k 0x0D080001#32 none = .ok (.bankMode ⟨0x42, 0, 1⟩) := by decide
theorem test_word_evtPost : decode .k 0x11140000#32 none = .ok (.evtPost ⟨0x45, 0, 0⟩) := by decide
/-- R73 and R74, bit by bit: OP 0x04, 0x14, 0x0B, 0x03, 0x18 and 0x48 with their fields in place. -/
theorem test_word_mma : decode .x 0x08902060#32 none = .ok (.mma ⟨2, 16, 1, 0, 1, 1, 0⟩) := by decide
theorem test_word_rowOpen : decode .x 0x28726000#32 none = .ok (.rowOpen ⟨3, 0x49, 1, 0, 0⟩) := by decide
theorem test_word_accExp : decode .x 0x16A20000#32 none = .ok (.accExp ⟨2, 0x44, 0⟩) := by decide
theorem test_word_rdvSync : decode .y 0x06588000#32 none = .ok (.rdvSync ⟨5, 0x44, 0, 0⟩) := by decide
theorem test_word_recruit : decode .y 0x3008F201#32 (some 0x0002C403#32) = .ok (.recruit ⟨0, 0x47, 0x48, 1, 5, 0x44, 0, 3⟩) := by decide
theorem test_word_split : decode .s 0x91840010#32 (some 0x00000020#32) = .ok (.split ⟨0x61, 0, 0x10, 0, 0x20⟩) := by decide

/-- R77: an opcode no class allocates, and one that another class allocates. -/
theorem test_word_reserved : decode .s 0xDE000000#32 none = .error (.enc 1) := by decide
theorem test_word_other_class : (decode .x 0x000C0C10#32 none).toOption = none := by decide
/-- R347: a field the entry does not use. -/
theorem test_word_nonzero : decode .s 0xFE000008#32 none = .error (.enc 2) := by decide
/-- R345: the second word of a two-word instruction past COUNT. -/
theorem test_word_cut : decode .s 0x4F140380#32 none = .error (.hdr 5) := by decide

/-! ## Ill-formed terms refused -/

theorem wf_zero : WellFormed (.nop ⟨1, 0, 0, 0, 0, 0⟩) = false := by decide
theorem wf_zero_second_word : WellFormed (.split ⟨0x61, 0, 1, 1, 0⟩) = false := by decide
theorem wf_coded : WellFormed (.vCvt ⟨1, 2, 0, 0, 0, 0, 0, 0, 7, 0, 2, 2⟩) = false := by decide
theorem wf_event : WellFormed (.prechargeStart 200 0) = false := by decide
theorem wf_good : WellFormed (.sAdd ⟨0x44, 0x44, 0, 0x78, 0, 0⟩) = true := by decide

/-! ## One step of an instruction on the small state; results by hand from the rules cited -/

/-- R178: 3 + (2^64 − 1) is 2. -/
theorem test_sAdd : (groupAfter (exec (.sAdd ⟨0x46, 0x44, 0, 0x45, 0, 0⟩) (stOf g1))).map (fun g => (g.sreg 6).val) = some 2 := by decide
/-- R178: 3 − (2^64 − 1) is 4. -/
theorem test_sSub : (groupAfter (exec (.sSub ⟨0x46, 0x44, 0, 0x45, 0, 0⟩) (stOf g1))).map (fun g => (g.sreg 6).val) = some 4 := by decide
/-- R178: −1 < 3 as integers, not as naturals. -/
theorem test_sSltI : (groupAfter (exec (.sSltI ⟨0x46, 0x45, 0, 0x44, 0, 0⟩) (stOf g1))).map (fun g => (g.sreg 6).val) = some 1 := by decide
theorem test_sSltN : (groupAfter (exec (.sSltN ⟨0x46, 0x45, 0, 0x44, 0, 0⟩) (stOf g1))).map (fun g => (g.sreg 6).val) = some 0 := by decide
/-- R178: b = 0 gives −1. -/
theorem test_sDivI_zero : (groupAfter (exec (.sDivI ⟨0x46, 0x44, 0, 0x70, 0, 0⟩) (stOf g1))).map (fun g => (g.sreg 6).val) =
    some 0xFFFFFFFFFFFFFFFF := by decide
/-- R182: the constant of the rule's example. -/
theorem test_sLih : (groupAfter (exec (.sLih ⟨0x45, 0, 0, 0x70, 0, 0, 0x7F00⟩) (stOf (g0.setS 5 0x12345678)))).map
    (fun g => (g.sreg 5).val) = some 0x00007F0012345678 := by decide
/-- R202 and R58: v3 + 1 in lane 15, tagged A. -/
theorem test_vAdd : (groupAfter (exec (.vAdd ⟨5, 3, 0, 0x78, 0, 0⟩) (stOf g1))).map (fun g => (g.elem 5 15, (g.vreg 5).tag)) =
    some (17, .a) := by decide
/-- R210: 0.5 + 2.0 is 2.5. -/
theorem test_vFadd : (groupAfter (exec (.vFadd ⟨5, 0x7C, 0, 0x7E, 0, 0⟩) (stOf g1))).map (fun g => g.elem 5 0) = some 0x40200000 := by decide
/-- R183: `br.z` on zero goes to H + 4 × 3. -/
theorem test_brZ : (groupAfter (exec (.brZ ⟨0x70, 0, 3⟩) (stOf g1))).map (fun g => g.cohorts.map fun c => (c.clause, c.word, c.entered)) =
    some [(0x1000C, 1, false)] := by decide
/-- R285, R326: `trap` parks the group with a record of code TRAP. -/
theorem test_trap : (groupAfter (exec (.trap ⟨0, 0, 5⟩) (stOf g1))).map (fun g => (g.records, g.held.map fun f => f.code)) =
    some (1, [0x08]) := by decide
/-- R349: v63 is declared, so v62 is a legal destination; without registers above 15 declared, v16 raises OPERAND with detail 1. -/
theorem test_operand : (groupAfter (exec (.vMov ⟨16, 3, 0, 0, 0, 0⟩) (stOf { g1 with vregs := 16 }))).map
    (fun g => g.held.map fun f => (f.code, f.detail)) = some [(0x07, 1)] := by decide

/-! ## Hypotheses that can be met: classes S and V -/

theorem witness_ScalarTwoOperandsAndCompares :
    (∃ (f : A3) (s : State) (v : View), s.view = some v ∧ v.Steady ∧ v.Home ∧ v.Dst f.d ∧ v.Uni f.a ∧ v.Uni f.b ∧ v.uni f.b = 0) ∧
    (∃ (f : A3) (s : State) (v : View), s.view = some v ∧ v.Steady ∧ v.Home ∧ v.Dst f.d ∧ v.Uni f.a ∧ v.Uni f.b ∧ v.uni f.b ≠ 0 ∧
      opd f.d = .v 63) ∧
    (∃ (f : A4) (s : State) (v : View), s.view = some v ∧ v.Steady ∧ v.Home ∧ v.Dst f.d ∧ v.Uni f.a ∧ v.Uni f.b ∧ v.Uni f.c ∧
      v.uni f.c ≠ 0) ∧
    ∃ (f : A4) (s : State) (v : View), s.view = some v ∧ v.Steady ∧ v.Home ∧ v.Dst f.d ∧ v.Uni f.a ∧ v.Uni f.b ∧ v.Uni f.c ∧
      v.uni f.c = 0 :=
  ⟨⟨⟨0x46, 0x44, 0, 0x70, 0, 0⟩, stOf g1, vwOf g1, rfl, by decide⟩, ⟨⟨63, 0x44, 0, 0x45, 0, 0⟩, stOf g1, vwOf g1, rfl, by decide⟩,
    ⟨⟨0x46, 0x44, 0, 0x45, 0, 0, 0x45, 0, 0, 0, 0, 0⟩, stOf g1, vwOf g1, rfl, by decide⟩,
    ⟨⟨0x46, 0x44, 0, 0x45, 0, 0, 0x70, 0, 0, 0, 0, 0⟩, stOf g1, vwOf g1, rfl, by decide⟩⟩

theorem witness_ScalarOtherOperations :
    (∃ (f : A4) (s : State) (v : View), s.view = some v ∧ v.Steady ∧ v.Home ∧ v.Dst f.d ∧ v.Uni f.a ∧ v.Uni f.b ∧
      f.imm.getLsbD 12 = true ∧ f.imm.toNat / 64 % 64 = 0) ∧
    (∃ (f : AI) (s : State) (v : View), s.view = some v ∧ v.Steady ∧ v.Home ∧ v.Dst f.d ∧ v.Uni f.a ∧ f.imm.toInt = -1) ∧
    (∃ (f : A3) (s : State) (v : View) (r : Nat), s.view = some v ∧ v.Steady ∧ v.Home ∧ v.Dst f.d ∧ v.Uni f.b ∧ opd f.a = .v r ∧
      r < v.g.vregs ∧ (v.g.vreg r).bad = false ∧ (v.uni f.b).toNat % 128 < v.g.width ∧
      v.c.lanes.getLsbD ((v.uni f.b).toNat % 128) = true ∧ (v.g.vreg r).full = true) ∧
    (∃ (f : A3) (s : State) (v : View) (r : Nat), s.view = some v ∧ v.Steady ∧ v.Home ∧ v.Dst f.d ∧ v.Uni f.b ∧ opd f.a = .v r ∧
      r < v.g.vregs ∧ (v.g.vreg r).bad = false ∧ (v.uni f.b).toNat % 128 < v.g.width ∧
      v.c.lanes.getLsbD ((v.uni f.b).toNat % 128) = true ∧ (v.g.vreg r).full = false ∧ f.ea = 0) ∧
    ∃ (f : A3) (s : State) (v : View) (r : Nat), s.view = some v ∧ v.Steady ∧ v.Home ∧ v.Dst f.d ∧ v.Uni f.b ∧ opd f.a = .v r ∧
      r < v.g.vregs ∧ (v.g.vreg r).bad = false ∧ ¬((v.uni f.b).toNat % 128 < v.g.width) ∧ (v.g.vreg r).full = true :=
  ⟨⟨⟨0x46, 0x44, 0, 0x45, 0, 0, 0, 0, 0, 0, 0, 0x1000⟩, stOf g1, vwOf g1, rfl, by decide⟩,
    ⟨⟨0x46, 0x44, 0, 0x3FF⟩, stOf g1, vwOf g1, rfl, by decide⟩,
    ⟨⟨0x46, 3, 0, 0x44, 0, 0⟩, stOf g1, vwOf g1, 3, rfl, by decide⟩,
    ⟨⟨0x46, 3, 0, 0x44, 0, 0⟩, stOf (g1.emptyV 3 .g), vwOf (g1.emptyV 3 .g), 3, rfl, by decide⟩,
    ⟨⟨0x46, 3, 0, 0x45, 0, 0⟩, stOf g1, vwOf g1, 3, rfl, by decide⟩⟩

theorem witness_ScalarLoadImmediates :
    WellFormed (.sLi ⟨0x45, 0, 0, 0x70, 0, 0, 0x12345678⟩) = true ∧ WellFormed (.sLih ⟨0x45, 0, 0, 0x70, 0, 0, 0x7F00⟩) = true ∧
    (∃ (f : AL) (s : State) (v : View), s.view = some v ∧ v.Steady ∧ v.Home ∧ opd f.d = .s 31 ∧ (v.g.sreg 31).full = true ∧
      (v.g.sreg 31).bad = false) ∧
    (∃ (f : AL) (s : State) (v : View), s.view = some v ∧ v.Steady ∧ v.Home ∧ opd f.d = .s 31 ∧ (v.g.sreg 31).full = false) ∧
    ∃ (f : AL) (s : State) (v : View), s.view = some v ∧ v.Steady ∧ v.Home ∧ ∀ r, opd f.d ≠ .s r :=
  ⟨by decide, by decide, ⟨⟨0x5F, 0, 0, 0x70, 0, 0, 0⟩, s0, v0, rfl, by decide⟩,
    ⟨⟨0x5F, 0, 0, 0x70, 0, 0, 0⟩, stOf (g0.emptyS 31), vwOf (g0.emptyS 31), rfl, by decide⟩,
    ⟨⟨0x3F, 0, 0, 0x70, 0, 0, 0⟩, s0, v0, rfl, by decide, by decide, fun r h => by cases h⟩⟩

theorem witness_MaskOperations :
    WellFormed (.mAnd ⟨0x61, 0x62, 0, 0x63, 0, 0⟩) = true ∧ WellFormed (.mOr ⟨0x61, 0x62, 0, 0x63, 0, 0⟩) = true ∧
    WellFormed (.mAndn ⟨0x61, 0x62, 0, 0x63, 0, 0⟩) = true ∧ WellFormed (.mXor ⟨0x61, 0x62, 0, 0x63, 0, 0⟩) = true ∧
    (∃ (f : A3) (s : State) (v : View), s.view = some v ∧ v.Steady ∧ v.Home ∧ v.Uni f.a ∧ v.Uni f.b ∧ opd f.d = .m 7 ∧ v.g.width ≤ 64) ∧
    ∃ (f : A3) (s : State) (v : View), s.view = some v ∧ v.Steady ∧ v.Home ∧ mDst f.d = false :=
  ⟨by decide, by decide, by decide, by decide, ⟨⟨0x67, 0x60, 0, 0x45, 0, 0⟩, stOf g1, vwOf g1, rfl, by decide⟩,
    ⟨⟨0x60, 0x60, 0, 0x45, 0, 0⟩, stOf g1, vwOf g1, rfl, by decide⟩⟩

theorem witness_MaskBallotAndReads :
    (∃ (f : A3) (s : State) (v : View), s.view = some v ∧ v.Steady ∧ v.Home ∧ v.Src f.a ∧ opd f.d = .m 7 ∧ v.g.width ≤ 64) ∧
    (∃ (f : A3) (s : State) (v : View), s.view = some v ∧ v.Steady ∧ v.Home ∧ v.Dst f.d ∧ opd f.a = .m 0 ∧
      (v.g.mreg 0).bad = false ∧ v.g.width ≤ 64 ∧ (v.mask 0).getLsbD 0 = true) ∧
    (∃ (f : A3) (s : State) (v : View), s.view = some v ∧ v.Steady ∧ v.Home ∧ v.Dst f.d ∧ opd f.a = .m 7 ∧
      (v.g.mreg 7).bad = false ∧ v.g.width ≤ 64 ∧ ∀ k < v.g.width, (v.mask 7).getLsbD k = false) ∧
    ∃ (f : A3) (s : State) (v : View), s.view = some v ∧ v.Steady ∧ v.Home ∧ v.Uni f.a ∧ opd f.a = .s 5 ∧ opd f.d = .m 1 ∧
      v.g.width ≤ 64 :=
  ⟨⟨⟨0x67, 3, 0, 0, 0, 0⟩, stOf g1, vwOf g1, rfl, by decide⟩, ⟨⟨0x46, 0x60, 0, 0, 0, 0⟩, stOf g1, vwOf g1, rfl, by decide⟩,
    ⟨⟨0x46, 0x67, 0, 0, 0, 0⟩, stOf g1, vwOf g1, rfl, by decide⟩, ⟨⟨0x61, 0x45, 0, 0, 0, 0⟩, stOf g1, vwOf g1, rfl, by decide⟩⟩

theorem witness_Branches :
    (∃ (f : BR) (s : State) (v : View), s.view = some v ∧ v.Steady ∧ v.Src f.a ∧ opd f.a = .s 5 ∧ v.uni f.a ≠ 0 ∧ f.off.toInt = -65536) ∧
    (∃ (f : BR) (s : State) (v : View), s.view = some v ∧ v.Steady ∧ v.Src f.a ∧ f.a = 0x70 ∧ v.uni f.a = 0) ∧
    ∃ (f : BR) (s : State) (v : View), s.view = some v ∧ v.Steady ∧ v.Src f.a ∧ v.g.width ≤ 64 ∧ opd f.a = .v 3 ∧
      v.c.lanes &&& ~~~allLanes v.g.width = 0 :=
  ⟨⟨⟨0x45, 0, 0x10000⟩, stOf g1, vwOf g1, rfl, by decide⟩, ⟨⟨0x70, 0, 0⟩, stOf g1, vwOf g1, rfl, by decide⟩,
    ⟨⟨3, 0, 4⟩, stOf g1, vwOf g1, rfl, by decide⟩⟩

theorem witness_FarBranch :
    WellFormed (.brFar ⟨0, 0, 0, 0x70, 0, 0, 0xFFFFFFFC⟩) = true ∧
    (∃ (f : AL) (s : State) (v : View), s.view = some v ∧ v.Steady ∧ v.Home ∧ v.c.clause < 2 ^ 56 ∧ f.imm.toNat % 4 = 0 ∧
      f.imm = 0xFFFFFFFC) ∧
    ∃ (f : AL) (s : State) (v : View), s.view = some v ∧ v.Steady ∧ v.Home ∧ v.c.clause < 2 ^ 56 ∧ f.imm.toNat % 4 ≠ 0 :=
  ⟨by decide, ⟨⟨0, 0, 0, 0x70, 0, 0, 0xFFFFFFFC⟩, s0, v0, rfl, by decide⟩, ⟨⟨0, 0, 0, 0x70, 0, 0, 2⟩, s0, v0, rfl, by decide⟩⟩

/-- `g1` with every thread at a call depth. -/
def gDeep (n : Nat) : Group := { g1 with threads := List.replicate 16 { Thread.start with depth := n } }
/-- A group whose v3 holds multiples of 4. -/
def gFour (n : Nat) : Group := (gDeep n).putVreg 3 ⟨(List.range 16).map fun i => BitVec.ofNat 32 (4 * i), .a, true, false⟩
theorem witness_CallsReturnsAndJumps :
    (∃ (f : BR) (s : State) (v : View), s.view = some v ∧ v.Steady ∧ v.Home ∧ v.VDst f.a ∧ opd f.a = .v 3 ∧
      ∀ i ∈ v.lanes, (v.g.thread i).depth ≠ 255) ∧
    (∃ (f : BR) (s : State) (v : View), s.view = some v ∧ v.Steady ∧ v.Home ∧ v.VDst f.a ∧ opd f.a = .v 3 ∧
      ∃ i ∈ v.lanes, (v.g.thread i).depth = 255) ∧
    (∃ (f : BR) (s : State) (v : View), s.view = some v ∧ v.Steady ∧ v.Home ∧ v.Src f.a ∧ opd f.a = .v 3 ∧ v.g.width ≤ 64 ∧
      (∀ i ∈ v.lanes, (v.elem 3 i).toNat % 4 = 0) ∧ ∀ i ∈ v.lanes, (v.g.thread i).depth ≠ 0) ∧
    (∃ (f : BR) (s : State) (v : View), s.view = some v ∧ v.Home ∧ v.Src f.a ∧ opd f.a = .v 3 ∧
      ∃ i ∈ v.lanes, (v.elem 3 i).toNat % 4 ≠ 0) ∧
    ∃ (f : BR) (s : State) (v : View), s.view = some v ∧ v.Home ∧ v.Src f.a ∧ opd f.a = .v 3 ∧
      (∀ i ∈ v.lanes, (v.elem 3 i).toNat % 4 = 0) ∧ ∃ i ∈ v.lanes, (v.g.thread i).depth = 0 :=
  ⟨⟨⟨3, 0, 1⟩, stOf (gDeep 254), vwOf (gDeep 254), rfl, by decide⟩, ⟨⟨3, 0, 1⟩, stOf (gDeep 255), vwOf (gDeep 255), rfl, by decide⟩,
    ⟨⟨3, 0, 0⟩, stOf (gFour 1), vwOf (gFour 1), rfl, by decide⟩, ⟨⟨3, 0, 0⟩, stOf g1, vwOf g1, rfl, by decide⟩,
    ⟨⟨3, 0, 0⟩, stOf (gFour 0), vwOf (gFour 0), rfl, by decide⟩⟩

/-- `g1` with the meeting register and the meeting stack of every thread. -/
def gMeet (m : Meeting) (l : List Meeting) : Group := { g1 with threads := List.replicate 16 { Thread.start with meet := m, stack := l } }
theorem witness_SplitsMeetsAndJoins :
    (∃ (f : SplitF) (s : State) (v : View), s.view = some v ∧ v.Steady ∧ v.Home ∧ v.Uni f.a ∧
      ∀ i ∈ v.lanes, (v.g.thread i).stack.length < 8) ∧
    (∃ (f : SplitF) (s : State) (v : View), s.view = some v ∧ v.Steady ∧ v.Home ∧ v.Uni f.a ∧
      ∃ i ∈ v.lanes, 8 ≤ (v.g.thread i).stack.length) ∧
    (∃ (s : State) (v : View), s.view = some v ∧ v.Steady ∧ v.Home ∧
      ∀ i ∈ v.lanes, (v.g.thread i).meet = ⟨v.c.clause, (v.g.thread i).depth⟩) ∧
    (∃ (s : State) (v : View), s.view = some v ∧ v.Steady ∧ v.Home ∧
      ∃ i ∈ v.lanes, (v.g.thread i).meet ≠ ⟨v.c.clause, (v.g.thread i).depth⟩) ∧
    (∃ (g : Group) (c : Cohort) (parts : List (Lanes × Nat)), g.cohort? c.cid = some c ∧ ∃ p ∈ parts, p.1 ≠ 0) ∧
    (∃ (g : Group) (c : Cohort) (parts : List (Lanes × Nat)), g.cohort? c.cid = some c ∧ ∀ p ∈ parts, p.1 = 0) ∧
    (∃ (g : Group) (c : Cohort) (n : Nat), g.cohort? c.cid = some c ∧ c.word + n ≤ c.count) ∧
    ∃ (g : Group) (c : Cohort) (n : Nat), g.cohort? c.cid = some c ∧ c.count < c.word + n :=
  ⟨⟨⟨0x45, 0, 1, 0, 2⟩, stOf (gMeet ⟨0, 0⟩ (List.replicate 7 ⟨0, 0⟩)), vwOf (gMeet ⟨0, 0⟩ (List.replicate 7 ⟨0, 0⟩)), rfl, by decide⟩,
    ⟨⟨0x45, 0, 1, 0, 2⟩, stOf (gMeet ⟨0, 0⟩ (List.replicate 8 ⟨0, 0⟩)), vwOf (gMeet ⟨0, 0⟩ (List.replicate 8 ⟨0, 0⟩)), rfl, by decide⟩,
    ⟨stOf (gMeet ⟨0x10000, 0⟩ []), vwOf (gMeet ⟨0x10000, 0⟩ []), rfl, by decide⟩, ⟨s0, v0, rfl, by decide⟩,
    ⟨g0, c0, [(1, 0x20000), (0, 0x30000)], rfl, (1, 0x20000), by decide⟩, ⟨g0, c0, [(0, 0x30000)], rfl, by decide⟩,
    ⟨g0, c0, 14, rfl, by decide⟩, ⟨g0, c0, 15, rfl, by decide⟩⟩

theorem witness_NoOperation :
    WellFormed (.nop ⟨0, 0, 0, 0, 0, 0⟩) = true ∧ ∃ (s : State) (v : View), s.view = some v ∧ v.Steady ∧ v.Home :=
  ⟨by decide, s0, v0, rfl, by decide⟩

theorem witness_VectorIntegersAndCompares :
    (∃ (f : A3) (s : State) (v : View), s.view = some v ∧ v.Steady ∧ v.VDst f.d ∧ v.Src f.a ∧ v.Src f.b ∧ v.Pred f.p ∧ f.p = 3) ∧
    (∃ (f : A4) (s : State) (v : View), s.view = some v ∧ v.Steady ∧ v.VDst f.d ∧ v.Src f.a ∧ v.Src f.b ∧ v.Src f.c ∧ v.Pred f.p) ∧
    ∃ (f : A3) (s : State) (v : View), s.view = some v ∧ v.Steady ∧ opd f.d = .m 7 ∧ v.Src f.a ∧ v.Src f.b ∧ v.Pred f.p ∧
      v.g.width ≤ 64 :=
  ⟨⟨⟨63, 3, 1, 0x45, 0, 3⟩, stOf g1, vwOf g1, rfl, by decide⟩,
    ⟨⟨63, 3, 1, 0x45, 0, 3, 4, 1, 0, 0, 0, 7⟩, stOf g1, vwOf g1, rfl, by decide⟩, ⟨⟨0x67, 3, 1, 0x45, 0, 3⟩, stOf g1, vwOf g1, rfl, by decide⟩⟩

theorem witness_VectorMovesAndLaneReductions :
    (∃ (f : A4) (s : State) (v : View), s.view = some v ∧ v.Steady ∧ v.Home ∧ v.VDst f.d ∧ v.Src f.a ∧ v.Src f.b ∧ opd f.c = .m 2 ∧
      (v.g.mreg 2).bad = false ∧ v.Pred f.p) ∧
    (∃ (f : AI) (s : State) (v : View), s.view = some v ∧ v.Steady ∧ v.Home ∧ v.VDst f.d ∧ v.Src f.a) ∧
    (∃ (f : AL) (s : State) (v : View), s.view = some v ∧ v.Steady ∧ v.VDst f.d ∧ v.Pred f.p) ∧
    (∃ (f : A3) (s : State) (v : View), s.view = some v ∧ v.Steady ∧ v.Home ∧ v.VDst f.d ∧ v.Src f.a ∧ v.Src f.b ∧ v.Uni f.b ∧
      v.Pred f.p ∧ v.srcOk f.a = true ∧ (v.helping = true → v.foreign f.a 1 = false)) ∧
    ∃ (k : Nat) (l r : List (Option Nat)), l.length = 2 ^ k ∧ r.length = 2 ^ k :=
  ⟨⟨⟨63, 3, 1, 0x45, 0, 3, 0x62, 0, 0, 0, 0, 2⟩, stOf g1, vwOf g1, rfl, by decide⟩, ⟨⟨63, 3, 1, 0x3FF⟩, stOf g1, vwOf g1, rfl, by decide⟩,
    ⟨⟨63, 0, 0, 0x70, 0, 3, 5⟩, stOf g1, vwOf g1, rfl, by decide⟩, ⟨⟨63, 3, 1, 0x45, 0, 3⟩, stOf g1, vwOf g1, rfl, by decide⟩,
    1, [some 1, none], [none, some 4], by decide⟩

theorem witness_VectorFloatsAndConversions :
    (∃ (f : A3) (s : State) (v : View), s.view = some v ∧ v.Steady ∧ v.VDst f.d ∧ v.Src f.a ∧ v.Src f.b ∧ v.Pred f.p ∧
      v.isBad f.d 1 = false) ∧
    (∃ (f : A4) (s : State) (v : View), s.view = some v ∧ v.Steady ∧ v.VDst f.d ∧ v.Src f.a ∧ v.Src f.b ∧ v.Src f.c ∧ v.Pred f.p ∧
      f.ty = 3) ∧
    (∃ (f : A4) (s : State) (v : View), s.view = some v ∧ v.Steady ∧ v.VDst f.d ∧ v.Src f.a ∧ v.Src f.b ∧ v.Src f.c ∧ v.Pred f.p ∧
      f.ty = 4) ∧
    (∃ (f : A4) (s : State) (v : View), s.view = some v ∧ v.Steady ∧ v.VDst f.d ∧ v.Src f.a ∧ v.Src f.b ∧ v.Pred f.p ∧
      v.isBad f.d 1 = false ∧ f.imm.toNat % 32 = 24) ∧
    (∃ (f : A4) (s : State) (v : View), s.view = some v ∧ v.Steady ∧ v.VDst f.d ∧ v.Src f.a ∧ v.Src f.b ∧ v.Pred f.p ∧
      v.isBad f.d 1 = false ∧ 2 * tyBits f.ty.toNat * (f.imm.toNat % 8 + 1) = 32) ∧
    (∃ (f : A3) (s : State) (v : View), s.view = some v ∧ v.Steady ∧ v.VDst f.d ∧ v.Src f.a ∧ v.Src f.b ∧ v.Pred f.p ∧ opd f.a = .s 4) ∧
    ∃ (f : A3) (s : State) (v : View), s.view = some v ∧ v.Steady ∧ v.VDst f.d ∧ v.Src f.a ∧ v.Src f.b ∧ v.Pred f.p ∧ f.a = 0x70 :=
  ⟨⟨⟨63, 3, 1, 0x45, 0, 3⟩, stOf g1, vwOf g1, rfl, by decide⟩,
    ⟨⟨63, 3, 1, 0x45, 0, 3, 4, 1, 0, 0, 3, 7⟩, stOf g1, vwOf g1, rfl, by decide⟩,
    ⟨⟨63, 3, 1, 0x45, 0, 3, 4, 1, 0, 0, 4, 7⟩, stOf g1, vwOf g1, rfl, by decide⟩,
    ⟨⟨63, 3, 1, 0x45, 0, 3, 0, 0, 0, 0, 3, 24⟩, stOf g1, vwOf g1, rfl, by decide⟩,
    ⟨⟨63, 3, 1, 0x45, 0, 3, 0, 0, 0, 0, 5, 1⟩, stOf g1, vwOf g1, rfl, by decide⟩,
    ⟨⟨63, 0x44, 0, 3, 0, 3⟩, stOf g1, vwOf g1, rfl, by decide⟩, ⟨⟨63, 0x70, 0, 3, 0, 3⟩, stOf g1, vwOf g1, rfl, by decide⟩⟩

/-- `g1` with a witness register 1 in a state, of stamp 5 and a window of two terms. -/
def gWit (st : WState) : Group := g1.putWitness 1 ⟨st, 0, 1, 0, 5, List.replicate 16 0, false⟩
theorem witness_WitnessInstructions :
    (∃ (f : A4) (s : State) (v : View), s.view = some v ∧ v.Steady ∧ v.VDst f.d ∧ opd f.a = .v 3 ∧ v.Pred f.p ∧
      v.Block f.a (f.imm.toNat % 16 + 1) ∧ f.imm.toNat % 16 = 15) ∧
    (∃ (f : A4) (s : State) (v : View), s.view = some v ∧ v.Steady ∧ v.VDst f.d ∧ opd f.a = .v 3 ∧ v.Pred f.p ∧
      f.imm.toNat % 16 + 1 = 1 ∧ v.Src f.a ∧ v.Src f.b ∧ v.Src f.c) ∧
    (∃ (l : List W32) (lo hi : W32), l ≠ [] ∧ lo.toInt ≤ hi.toInt) ∧
    (∃ (f : A4) (s : State) (v : View), s.view = some v ∧ v.Steady ∧ opd f.d = .v 62 ∧ v.Src f.a ∧ v.Pred f.p ∧
      62 + (f.imm.toNat % 16 + 1) ≤ v.g.vregs ∧ v.Free f.d (f.imm.toNat % 16 + 1) ∧ (v.g.witness (f.imm.toNat / 16 % 4)).bad = false ∧
      (v.g.witness (f.imm.toNat / 16 % 4)).st = .live ∧ (v.g.witness (f.imm.toNat / 16 % 4)).stamp = f.imm.toNat / 128 ∧
      (v.g.witness (f.imm.toNat / 16 % 4)).nm1 = f.imm.toNat % 16 ∧ f.imm.getLsbD 6 = false) ∧
    (∃ (f : A4) (s : State) (v : View), s.view = some v ∧ v.Steady ∧ opd f.d = .v 62 ∧ v.Src f.a ∧ v.Pred f.p ∧
      62 + (f.imm.toNat % 16 + 1) ≤ v.g.vregs ∧ v.Free f.d (f.imm.toNat % 16 + 1) ∧ (v.g.witness (f.imm.toNat / 16 % 4)).bad = false ∧
      (v.g.witness (f.imm.toNat / 16 % 4)).st = .live ∧ (v.g.witness (f.imm.toNat / 16 % 4)).stamp = f.imm.toNat / 128 ∧
      (v.g.witness (f.imm.toNat / 16 % 4)).nm1 = f.imm.toNat % 16 ∧ f.imm.getLsbD 6 = true ∧
      v.isBad f.d (f.imm.toNat % 16 + 1) = false ∧ v.g.width ≤ 64) ∧
    ∃ (f : A4) (s : State) (v : View), s.view = some v ∧ v.Steady ∧ opd f.d = .v 62 ∧ v.Src f.a ∧ v.Pred f.p ∧
      62 + (f.imm.toNat % 16 + 1) ≤ v.g.vregs ∧ v.Free f.d (f.imm.toNat % 16 + 1) ∧ (v.g.witness (f.imm.toNat / 16 % 4)).bad = false ∧
      (v.g.witness (f.imm.toNat / 16 % 4)).st = .consumed ∧ f.imm.getLsbD 6 = false :=
  ⟨⟨⟨63, 3, 0, 0, 0, 3, 0, 0, 0, 0, 0, 0x1F⟩, stOf g1, vwOf g1, rfl, by decide⟩,
    ⟨⟨63, 3, 0, 0x44, 0, 3, 0x45, 0, 0, 0, 0, 0x10⟩, stOf g1, vwOf g1, rfl, by decide⟩, ⟨[3], 1, 1, by decide⟩,
    ⟨⟨62, 3, 0, 0, 0, 3, 0, 0, 0, 0, 0, 0x291⟩, stOf (gWit .live), vwOf (gWit .live), rfl, by decide⟩,
    ⟨⟨62, 3, 0, 0, 0, 3, 0, 0, 0, 0, 2, 0x2D1⟩, stOf (gWit .live), vwOf (gWit .live), rfl, by decide⟩,
    ⟨⟨62, 3, 0, 0, 0, 3, 0, 0, 0, 0, 0, 0x291⟩, stOf (gWit .consumed), vwOf (gWit .consumed), rfl, by decide⟩⟩

theorem g0_truthful : g0.Truthful := by
  intro r
  have h : g0.vreg r = VReg.zero 16 := by
    unfold Group.vreg
    rw [show g0.v = List.replicate 64 (VReg.zero 16) from rfl, show g0.width = 16 from rfl, List.getElem?_replicate]
    split <;> rfl
  rw [h]
  refine fun _ => ⟨fun _ => ⟨0, fun i _ => ?_⟩, fun h => by cases h⟩
  unfold VReg.zero
  rw [List.getElem?_replicate]
  split <;> rfl
theorem witness_TagsTellTheTruth : ∃ (i : Instr) (w0 : W32) (w1 : Option W32) (s t : State) (v : View) (g : Group),
    encode i = some (.v, w0, w1) ∧ s.view = some v ∧ v.g.width ≤ 64 ∧ (v.helping = true → ∃ l < v.g.width, v.c.lanes.getLsbD l = false) ∧
      v.g.Truthful ∧ exec i s = .next t ∧ t.group? v.g.id = some g :=
  ⟨.vMov ⟨63, 0x44, 0, 0, 0, 0⟩, _, _, s0, _, v0, _, rfl, rfl, by decide, fun h => absurd h (by decide), g0_truthful, rfl, rfl⟩

theorem witness_RegisterWrites :
    (∃ (g : Group) (r : Nat) (sel : Lanes), r < g.v.length ∧ sel ≠ 0) ∧
    (∃ (v : View) (g : Group) (d : Code), v.Home ∧ opd d = .s 31 ∧ 31 < g.s.length) ∧
    ∃ (v : View) (g : Group) (d : Code), v.Home ∧ opd d = .v 63 ∧ 63 < g.v.length ∧ v.c.lanes ≠ 0 :=
  ⟨⟨g0, 63, 1, by decide⟩, ⟨v0, g0, 0x5F, by decide⟩, v0, g0, 0x3F, by decide⟩

theorem witness_FloatRounding :
    (∃ a b c : W32, (fv a).isNan = true ∨ (fv b).isNan = true ∨ (fv c).isNan = true) ∧ (∃ x y : Bool, x ≠ y) ∧
    ∃ (b : Bool) (m : Nat) (e : Int), |(FVal.fin b m e).rat| < (2 ^ 25 - 1) * 2 ^ 103 :=
  ⟨⟨0x7FC00000, 0, 0, by decide⟩, ⟨true, false, by decide⟩, false, 3, -1, by norm_num [FVal.rat]⟩

/-! ## Hypotheses that can be met: class M -/

/-- `g1` with an address in s6, and 4 and 64 in s7 and s8. -/
def g2 : Group := ((g1.setS 6 0x20000).setS 7 4).setS 8 64
def s2 : State := stOf g2
def v2 : View := vwOf g2
def m2 : MS := ⟨4, 0x46, 0, 3, 0, 0, 3⟩
/-- s6 + 32 on track 3 from v4, under m3 of no lane; and under no predicate. -/
def f2 : ML := ⟨4, 0x46, 0, 3, 0, 0, 0, 0x70, 0, 0, 0x20⟩
def f2none : ML := { f2 with p := 3 }

theorem witness_PlainAccessesIssue :
    (∃ (s : State) (g : Group) (sp n i ea d : Nat), n ∈ [1, 2, 4, 8, 16] ∧ sp < 4 ∧ (sp = 1 → ea % min n 16 = 0) ∧ s.group? g.id = some g ∧
      d = 0 ∧ i = 15) ∧
    (∃ (m : MS) (f' f : ML) (s : State) (v : View) (i : Instr) (words n : Nat) (signed acq : Bool), s.view = some v ∧
      (i, f, words, n, signed, acq) ∈ loadForms m f' ∧ v.dataOk f n true = true ∧ v.Free f.t (regsOf n) ∧ v.Addr f ∧ v.Src f.x ∧
      (isS f.t = false → v.Pred f.p) ∧
      (∀ l ∈ v.accessLanes f, s.placeFault v.g f.sp.toNat (v.addr f true f.offset l) n (acq || f.sp == 1) = none) ∧
      s.accessHeld v f.track = false ∧ v.accessLanes f ≠ []) ∧
    (∃ (m : MS) (f' f : ML) (s : State) (v : View) (i : Instr) (words n : Nat) (signed acq : Bool), s.view = some v ∧
      (i, f, words, n, signed, acq) ∈ loadForms m f' ∧ v.dataOk f n true = true ∧ v.Free f.t (regsOf n) ∧ v.Addr f ∧ v.Src f.x ∧
      (isS f.t = false → v.Pred f.p) ∧
      (∀ l ∈ v.accessLanes f, s.placeFault v.g f.sp.toNat (v.addr f true f.offset l) n (acq || f.sp == 1) = none) ∧
      s.accessHeld v f.track = false ∧ v.accessLanes f = []) ∧
    (∃ (m : MS) (f' f : ML) (s : State) (v : View) (i : Instr) (words n : Nat), s.view = some v ∧ (i, f, words, n) ∈ storeForms m f' ∧
      v.storeOk f n true = true ∧ v.Holds f.t (regsOf n) ∧ v.Addr f ∧ v.Src f.x ∧ (isS f.t = false → v.Pred f.p) ∧
      (∀ l ∈ v.accessLanes f, s.placeFault v.g f.sp.toNat (v.addr f true f.offset l) n (f.sp == 1) = none) ∧
      s.accessHeld v f.track = false ∧ v.g.count f.track < 255 ∧ v.accessLanes f ≠ []) ∧
    (∃ (m : MS) (f' f : ML) (s : State) (v : View) (i : Instr) (words n : Nat), s.view = some v ∧ (i, f, words, n) ∈ storeForms m f' ∧
      v.storeOk f n true = true ∧ v.Holds f.t (regsOf n) ∧ v.Addr f ∧ v.Src f.x ∧ (isS f.t = false → v.Pred f.p) ∧
      (∀ l ∈ v.accessLanes f, s.placeFault v.g f.sp.toNat (v.addr f true f.offset l) n (f.sp == 1) = none) ∧
      s.accessHeld v f.track = false ∧ 255 ≤ v.g.count f.track) ∧
    ∃ (m : MS) (f' f : ML) (s : State) (v : View) (i : Instr) (words n : Nat), s.view = some v ∧
      (i, f, words, n) ∈ storeReleaseForms m f' ∧ v.storeOk f n true = true ∧ v.Holds f.t (regsOf n) ∧ v.Addr f ∧ v.Src f.x ∧
      (isS f.t = false → v.Pred f.p) ∧
      (∀ l ∈ v.accessLanes f, s.placeFault v.g f.sp.toNat (v.addr f true f.offset l) n true = none) ∧
      s.roundHeld v.g = false ∧ s.Drained v (oneTrack f.track) ∧ v.accessLanes f ≠ [] :=
  ⟨⟨s0, g0, 3, 16, 15, 0, 0, by decide, by decide, by decide, rfl, rfl, rfl⟩,
    ⟨m2, f2, f2, s2, v2, .ldB128Ml f2, 2, 16, false, false, rfl, by simp [loadForms], by decide⟩,
    ⟨m2, f2none, f2none, s2, v2, .ldB128Ml f2none, 2, 16, false, false, rfl, by simp [loadForms], by decide⟩,
    ⟨m2, f2, f2, s2, v2, .stB128Ml f2, 2, 16, rfl, by simp [storeForms], by decide⟩,
    ⟨m2, f2, f2, stOf { g2 with pc := List.replicate 16 255 }, vwOf { g2 with pc := List.replicate 16 255 }, .stB128Ml f2, 2, 16, rfl,
      by simp [storeForms], by decide⟩,
    ⟨m2, f2, f2, s2, v2, .stRelB64Ml f2, 2, 8, rfl, by simp [storeReleaseForms], by decide, by decide, by decide, by decide, by decide,
      by decide, by decide, ⟨by decide, fun g h => by cases h; decide, by decide, by decide, by decide⟩, by decide⟩⟩

theorem witness_AtomicsAndReductions :
    (∃ (m : MS) (f' f : ML) (s : State) (v : View) (i : Instr) (words n : Nat) (a : AtOp), s.view = some v ∧
      (i, f, words, n, a) ∈ atomicForms m f' ∧ a = .add ∧ (constT f.t || v.dataOk f n true) = true ∧ v.Holds f.t (regsOf n) ∧ v.Addr f ∧
      v.Src f.x ∧ (isS f.t = false → v.Pred f.p) ∧ (isS f.t = true → v.Free f.t 1) ∧
      (∀ l ∈ v.accessLanes f, s.placeFault v.g 0 (v.addr f true f.offset l) n true = none) ∧ s.accessHeld v f.track = false ∧
      v.g.count f.track < 255 ∧ v.accessLanes f ≠ []) ∧
    (∃ (m : MS) (f' f : ML) (s : State) (v : View) (i : Instr) (words n : Nat) (a : AtOp), s.view = some v ∧
      (i, f, words, n, a) ∈ atomicForms m f' ∧ a = .cas ∧ (constT f.t || v.dataOk f n false) = true ∧ v.Holds f.t (regsOf n) ∧ v.Addr f ∧
      v.casOk f n = true ∧ v.Holds f.x (regsOf n) ∧ (isS f.t = false → v.Pred f.p) ∧ (isS f.t = true → v.Free f.t 1) ∧
      (∀ l ∈ v.accessLanes f, s.placeFault v.g 0 (v.addr f false f.offset l) n true = none) ∧ s.accessHeld v f.track = false ∧
      v.g.count f.track < 255 ∧ v.accessLanes f ≠ []) ∧
    (∃ (m : MS) (f' f : ML) (s : State) (v : View) (g : Group) (i : Instr) (words tn : Nat) (r : RedOp) (off : W64), s.view = some v ∧
      s.group? v.g.id = some g ∧ (i, f, words, r, off, tn) ∈ reductionForms m f' ∧ v.storeOk f tn true = true ∧ v.Holds f.t (regsOf tn) ∧
      v.Addr f ∧ v.Src f.x ∧ (isS f.t = false → v.Pred f.p) ∧
      (∀ l ∈ v.accessLanes f, s.placeFault v.g 0 (v.addr f true off l) r.width true = none) ∧ s.accessHeld v f.track = false ∧
      v.c.prog.spilled = none ∧ s.potUsed v.g + v.g.width / 16 ≤ 256) ∧
    (∃ m v x : Nat, m < 2 ^ 32 ∧ v < 2 ^ 32 ∧ x < 2 ^ 32) ∧ (∃ m v x : Nat, m < 2 ^ 64 ∧ v < 2 ^ 64 ∧ x < 2 ^ 64) ∧
    ∃ (m v f k p : Nat) (b : Bool) (e : Int), m < 2 ^ 64 ∧ f < 64 ∧ k < 2 ^ 24 ∧ fv (BitVec.ofNat 32 v) = .fin b p e ∧
      (FVal.fin b p e).rat = k ∧ k * 2 ^ f < 2 ^ 63 :=
  ⟨⟨m2, f2, f2, s2, v2, .atAddB64Ml f2, 2, 8, .add, rfl, by simp [atomicForms], by decide⟩,
    ⟨m2, f2, f2, s2, v2, .atCasB64 f2, 2, 8, .cas, rfl, by simp [atomicForms], by decide⟩,
    ⟨m2, f2, f2, s2, v2, g2, .redAddB64Ml f2, 2, 8, .add64, f2.offset, rfl, rfl, by simp [reductionForms], by decide⟩,
    ⟨0xFFFFFFFF, 0xFFFFFFFF, 0, by decide⟩, ⟨0xFFFFFFFFFFFFFFFF, 0xFFFFFFFFFFFFFFFF, 0, by decide⟩,
    ⟨0xFFFFFFFFFFFFFFFF, 0x3F800000, 62, 1, 0x800000, false, -23, by decide, by decide, by decide, by decide,
      by norm_num [FVal.rat], by decide⟩⟩

theorem drained2 (ts : BitVec 16) (h : ts = allTracks ∨ ts = oneTrack 3) : s2.Drained v2 ts := by
  rcases h with h | h <;> subst h <;> exact ⟨by decide, fun g h => by cases h; decide, by decide, by decide, by decide⟩
/-- An operation on its way. -/
def op2 (k : OpKind) (st : PSt) : MemOp :=
  { id := 7, kind := k, gid := gid0, cid := 0, core := 0, asid := 1, trk := 3, round := none, hold := none, lanes := 1, dest := .none, width := 4
    org := ⟨0x10000, 1, 0, 0, false, 0⟩, ep := 0, bypass := true, strm := false, gen := 0, tick := 0, fence := 0
    parts := [⟨0, 0, 4, .glob 0x20000, 0, 0, 0, st, false, false⟩], lo := 0, hi := 0, pos := 0, priv := none, tok := 0, pc := true }
theorem witness_FencesAndCacheMaintenance :
    (∃ (f : MS) (s : State) (v : View) (g : Group), s.view = some v ∧ s.group? v.g.id = some g ∧ s.Drained v (oneTrack f.trk.toNat) ∧
      v.c.prog = .none) ∧
    (∃ (f : MS) (s : State) (v : View) (g : Group), s.view = some v ∧ s.group? v.g.id = some g ∧
      s.loadsOut v.g.id (oneTrack f.trk.toNat) = false ∧ s.tracksHeld v.g v.c.cid (oneTrack f.trk.toNat) = false ∧
      s.loadsOut v.g.id allTracks = false ∧ s.tracksHeld v.g v.c.cid allTracks = false ∧ v.g.quiet allTracks = true) ∧
    (∃ (f : MS) (s : State) (v : View) (g : Group), s.view = some v ∧ s.group? v.g.id = some g ∧
      s.tracksHeld v.g v.c.cid (oneTrack f.trk.toNat) = false ∧ v.c.prog = .none ∧
      (g.pot.all fun e => !(oneTrack f.trk.toNat).getLsbD e.trk) = true ∧ g.count f.trk.toNat ≠ 0) ∧
    (∃ (f : MS) (s : State) (v : View), s.view = some v ∧ v.Home ∧ isS f.t = true ∧ v.Holds f.t 1 ∧ v.uniAddr f.a = true ∧
      v.Holds f.a (addrArg (msAsMl f)).n ∧ (v.uni f.t).toNat ≤ 2 ^ 32 ∧
      s.placeFault v.g 0 (v.rPair f.a v.lane0).toNat (max (v.uni f.t).toNat 1) false = none ∧ s.accessHeld v f.trk.toNat = false ∧
      v.g.count f.trk.toNat = 0 ∧ 0 < (v.uni f.t).toNat) ∧
    ∃ (f : MS) (s : State) (v : View), s.view = some v ∧ v.Home ∧ isS f.t = true ∧ v.Holds f.t 1 ∧ v.uniAddr f.a = true ∧
      v.Holds f.a (addrArg (msAsMl f)).n ∧ (v.uni f.t).toNat ≤ 2 ^ 32 ∧
      s.placeFault v.g 0 (v.rPair f.a v.lane0).toNat (max (v.uni f.t).toNat 1) false = none ∧ s.accessHeld v f.trk.toNat = false ∧
      v.g.count f.trk.toNat ≠ 0 :=
  ⟨⟨m2, s2, v2, g2, rfl, rfl, drained2 _ (.inr rfl), rfl⟩, ⟨m2, s2, v2, g2, rfl, rfl, by decide⟩,
    ⟨m2, stOf (g2.up 3), vwOf (g2.up 3), g2.up 3, rfl, rfl, by decide⟩, ⟨⟨0x48, 0x46, 0, 3, 0, 1, 0⟩, s2, v2, rfl, by decide⟩,
    ⟨0x48, 0x46, 0, 3, 0, 1, 0⟩, stOf (g2.up 3), vwOf (g2.up 3), rfl, by decide⟩

theorem witness_RangesAndImages :
    (∃ (x : ML) (s : State) (v : View), s.view = some v ∧ v.Addr x ∧ v.Src x.x ∧ v.Pred x.p) ∧
    (∃ (f' : ML) (s : State) (v : View), s.view = some v ∧ v.uniAddr f'.a = true ∧ v.Holds f'.a (addrArg f').n ∧ v.lenOk f'.x = true ∧
      v.Holds f'.x (match opd f'.x with | .v _ => 2 | _ => 1) ∧ v.Uni f'.t ∧ (v.rPair f'.x v.lane0).toNat ≤ 2 ^ 32 ∧
      0 < (v.rPair f'.x v.lane0).toNat ∧
      s.placeFault v.g f'.sp.toNat (v.rPair f'.a v.lane0 + f'.offset).toNat (v.rPair f'.x v.lane0).toNat false = none ∧
      s.accessHeld v f'.track = false ∧ v.g.count f'.track < 255 ∧ f'.sp = 0) ∧
    (∀ sp ∈ [(1 : BitVec 2), 2], ∃ (f' : ML) (s : State) (v : View), s.view = some v ∧ v.uniAddr f'.a = true ∧ v.Holds f'.a (addrArg f').n ∧
      v.lenOk f'.x = true ∧ v.Holds f'.x (match opd f'.x with | .v _ => 2 | _ => 1) ∧ v.Uni f'.t ∧ (v.rPair f'.x v.lane0).toNat ≤ 2 ^ 32 ∧
      0 < (v.rPair f'.x v.lane0).toNat ∧
      s.placeFault v.g f'.sp.toNat (v.rPair f'.a v.lane0 + f'.offset).toNat (v.rPair f'.x v.lane0).toNat false = none ∧
      s.accessHeld v f'.track = false ∧ v.g.count f'.track < 255 ∧ f'.sp = sp) ∧
    (∃ (f' : ML) (s : State) (v : View), s.view = some v ∧ v.uniAddr f'.a = true ∧ v.Holds f'.a (addrArg f').n ∧ v.lenOk f'.x = true ∧
      v.Holds f'.x (match opd f'.x with | .v _ => 2 | _ => 1) ∧ v.Uni f'.t ∧ (v.rPair f'.x v.lane0).toNat = 0 ∧
      s.accessHeld v f'.track = false ∧ v.g.count f'.track < 255) ∧
    (∃ (f : ML) (s : State) (v : View), s.view = some v ∧ v.uniAddr f.a = true ∧ v.Holds f.a (addrArg f).n ∧ v.indexOk f.x = true ∧
      v.Holds f.x 1 ∧ s.placeFault v.g f.sp.toNat (v.addr f true f.offset v.lane0) (16 + v.g.width) true = none ∧
      s.accessHeld v f.track = false ∧ v.g.count f.track < 255 ∧ (v.g.witness (f.t.toNat % 4)).bad = false ∧
      (v.g.witness (f.t.toNat % 4)).st = .live ∧ v.c.prog = .none) ∧
    ∃ (g : Group) (w : Witness), w.op < 5 ∧ w.nm1 < 16 ∧ w.elem < 3 ∧ (w.op = 3 → w.nm1 = 0) ∧ w.stamp < 512 ∧
      g.width ∈ [16, 32, 64] ∧ w.bytes.length = g.width :=
  ⟨⟨f2, s2, v2, rfl, by decide⟩, ⟨⟨0x47, 0x46, 0, 3, 0, 0, 0, 0x48, 0, 0, 0x20⟩, s2, v2, rfl, by decide⟩,
    fun sp h => by
      simp only [List.mem_cons, List.not_mem_nil, or_false] at h
      rcases h with h | h <;> subst h
      · exact ⟨⟨0x47, 0x70, 0, 3, 1, 0, 0, 0x48, 0, 0, 0x20⟩, s2, v2, rfl, by decide⟩
      · exact ⟨⟨0x47, 0x70, 0, 3, 2, 0, 0, 0x48, 0, 0, 0x20⟩, s2, v2, rfl, by decide⟩,
    ⟨⟨0x47, 0x46, 0, 3, 0, 0, 0, 0x70, 0, 0, 0x20⟩, s2, v2, rfl, by decide⟩,
    ⟨{ f2 with t := 1 }, stOf ((g2.putWitness 1 ⟨.live, 0, 1, 0, 5, List.replicate 16 0, false⟩)),
      vwOf ((g2.putWitness 1 ⟨.live, 0, 1, 0, 5, List.replicate 16 0, false⟩)), rfl, by decide⟩,
    g0, ⟨.live, 3, 0, 2, 511, List.replicate 16 0, false⟩, by decide⟩

/-- The state in which bank 0 of the team is a FIFO that holds these words. -/
def sFifo (g : Group) (l : List W32) : State :=
  (stOf g).putPair 0 (Pair.reset.putBank 0 { CBank.reset with mode := .fifo, owner := some gid0.team, fifo := l })
theorem witness_Fifos :
    (∃ (f : ML) (s : State) (v : View) (r n : Nat), s.view = some v ∧ opd f.t = .v r ∧ v.vDst f.t = true ∧ v.Holds f.t 1 ∧ v.Addr f ∧
      v.Src f.x ∧ v.Pred f.p ∧ v.Home ∧ v.c.prog = .none ∧
      (∀ l ∈ v.selected f.p, s.placeFault v.g 1 (v.addr f true f.offset l) 4 true = none ∧ v.addr f true f.offset l / 65536 = n) ∧
      ((s.pair (pairOf v.g.core)).bank (s.bankOf v.g.id.team (n * 65536))).mode = .fifo ∧
      ((s.pair (pairOf v.g.core)).bank (s.bankOf v.g.id.team (n * 65536))).switch = none ∧
      ((s.pair (pairOf v.g.core)).bank (s.bankOf v.g.id.team (n * 65536))).bad = [] ∧ v.selected f.p ≠ [] ∧
      (v.selected f.p).length ≤ ((s.pair (pairOf v.g.core)).bank (s.bankOf v.g.id.team (n * 65536))).fifo.length ∧
      ((s.pair (pairOf v.g.core)).bank (s.bankOf v.g.id.team (n * 65536))).fifo.length + (v.selected f.p).length ≤ 16384) ∧
    ∃ (s : State) (v : View) (f : ML) (words b : Nat) (rest : List Nat) (got : List (Nat × W32)),
      (s.focus v.g.id v.c.cid).view = some v ∧ v.c.prog = .fifo f words false b rest got ∧ v.c.stopped = false ∧ v.g.slots ≠ [] ∧
      rest ≠ [] ∧ ((s.pair (pairOf v.g.core)).bank b).fifo.length + rest.length ≤ 16384 :=
  ⟨⟨{ f2 with a := 0x70, sp := 1 }, sFifo g2 (List.replicate 16 5), v2, 4, 0, rfl, by decide⟩,
    let h := g2.hold 0 (.fifo { f2 with a := 0x70, sp := 1 } 2 false 0 [3] [(3, 9)])
    ⟨sFifo h [], vwOf h, { f2 with a := 0x70, sp := 1 }, 2, 0, [3], [(3, 9)], rfl, by decide⟩⟩

/-! ## Hypotheses that can be met: class X, rows, banks -/

/-- An `mma` from v16 with platform 1 into tile 2, and with the reuse latch. -/
def xm : XM := ⟨2, 16, 1, 1, 0, 0, 0⟩
def mi : MatInstr := ⟨0, 0, 0, xm, (List.range 16).map fun i => (i, List.replicate 16 0), ⟨0x10000, 1, 0, 0, false, 0⟩, none⟩
/-- A machine of one team with these matrix instructions in the latch and these consists. -/
def sTeam (g : Group) (t : Team) : State := { stOf g with teams := [t] }
def con0 : Consist := ⟨0, 3, 5, 9⟩
theorem witness_MatrixOperationsAndConsists :
    (∃ (f : XM) (s : State) (v : View) (t : Team), s.view = some v ∧ v.Home ∧ v.c.prog ≠ .latch ∧ s.team? v.g.id.team = some t ∧
      f.c.toNat < v.g.acc ∧ f.pl.toNat < v.g.plat ∧ (v.g.tile f.c.toNat).bad = false ∧ f.a.toNat + 17 ≤ v.g.vregs ∧
      f.spl.toNat < v.g.plat ∧ lastGroup (matFmt 0 f.fmt.toNat) f ≤ 15 ∧ lastGroup (matFmt 1 f.fmt.toNat) f ≤ 15 ∧
      lastGroup (matFmt 2 f.fmt.toNat) f ≤ 15 ∧ latchMatch 0 f s v = true ∧ latchMatch 1 f s v = true ∧ latchMatch 2 f s v = true ∧
      v.isEmpty (f.a.setWidth 7) 17 = false ∧ v.isBad (f.a.setWidth 7) 17 = false) ∧
    (∃ (s : State) (gid : GroupId) (t : Team) (g : Group) (x : MatInstr) (l : List MatInstr) (cst : Option Consist),
      s.team? gid.team = some t ∧ s.group? gid = some g ∧ t.ready g.core gid.grp = some (x :: l, cst) ∧
      (∀ y ∈ x :: l, ∀ n ∈ y.plats, ∀ p, s.plat? gid.team g.core n = some p → p.writes = [] ∧ p.bad = false) ∧
      (s.core g.core).mirror = false ∧ l = [] ∧ x.grp = gid.grp) ∧
    (∃ (s : State) (core : Nat) (r : MatRun) (rest : List MatRun) (x : MatInstr) (g : Group), (s.core core).runs = r :: rest ∧
      r.start + s.runCycles r ≤ s.now core ∧ r.point = none ∧ r.instrs = [x] ∧ s.group? ⟨r.team, x.grp⟩ = some g) ∧
    (∀ fmt ∈ [(6 : BitVec 4), 7, 8], ∃ (g : Group) (x : MatInstr), x.kind = 0 ∧ x.f.fmt = fmt ∧ x.f.c.toNat < g.c.length ∧
      g.tile x.f.c.toNat = Tile.zero g.width ∧ (x.rows.map (·.1)).Nodup ∧
      (∃ i ∈ List.range g.width, ∃ row, (i, row) ∈ x.rows ∧ row.length = 16) ∧ ∃ i ∈ List.range g.width, ∀ r ∈ x.rows, r.1 ≠ i) ∧
    (∃ (f : Y) (s : State) (v : View) (t : Team), s.view = some v ∧ v.Home ∧ v.Uni f.a ∧ f.n.toNat < v.g.rdv ∧
      s.team? v.g.id.team = some t ∧
      let mask := v.uni f.a
      let members := (List.range 64).filter fun i => mask.getLsbD i
      members.length ∈ [2, 3, 4, 5, 6] ∧ v.g.id.grp ∈ members ∧
      (∀ i ∈ members, i < (s.launchOf v.g).groups ∧ (s.launchOf v.g).groupCore t.core i = v.g.core) ∧
      (∀ c ∈ t.consists, c.point ≠ f.n.toNat ∧ (c.core = v.g.core → c.mask &&& mask = 0)) ∧
      total (s.teams.filter fun t => t.st == .running) (fun t => (t.consists.filter fun x => x.core == v.g.core).length) < 8 ∧
      (t.point f.n.toNat).arrivals < (t.point f.n.toNat).expected) ∧
    (∃ (s : State) (v : View) (t : Team), s.view = some v ∧ v.Home ∧ s.team? v.g.id.team = some t ∧
      t.consistOf v.g.core v.g.id.grp = none) ∧
    ∃ (s : State) (v : View) (t : Team) (c : Consist), s.view = some v ∧ v.Home ∧ s.team? v.g.id.team = some t ∧
      t.consistOf v.g.core v.g.id.grp = some c ∧ (∀ x ∈ t.latched, c.holds x = false) ∧ s.jointRuns t.id c = false ∧
      (t.point c.point).arrivals < (t.point c.point).expected :=
  ⟨⟨xm, s2, v2, t0, rfl, by decide⟩,
    ⟨sTeam g2 { t0 with latched := [mi] }, gid0, { t0 with latched := [mi] }, g2, mi, [], none, rfl, rfl, rfl,
      fun y hy n hn p hp => by
        rw [List.mem_singleton.1 hy] at hn
        rw [List.mem_singleton.1 hn] at hp
        cases hp; exact ⟨rfl, rfl⟩, rfl, rfl, rfl⟩,
    ⟨({ s2 with tiles := [{ TileState.reset with acc := 4000 }] } : State).putCore 0 { Core.reset with runs := [⟨0, gid0.team, [mi], [], [], 0, none⟩] },
      0, ⟨0, gid0.team, [mi], [], [], 0, none⟩, [], mi, g2, rfl, by decide, rfl, rfl, rfl⟩,
    fun fmt h => by
      simp only [List.mem_cons, List.not_mem_nil, or_false] at h
      rcases h with h | h | h <;> subst h
      · exact ⟨g2, { mi with f := { xm with fmt := 6 }, rows := [(15, List.replicate 16 0x7F)] }, rfl, rfl, by decide, rfl, by decide,
          ⟨15, by decide, _, List.mem_singleton.2 rfl, rfl⟩, 14, by decide, by decide⟩
      · exact ⟨g2, { mi with f := { xm with fmt := 7 }, rows := [(15, List.replicate 16 0xFF)] }, rfl, rfl, by decide, rfl, by decide,
          ⟨15, by decide, _, List.mem_singleton.2 rfl, rfl⟩, 14, by decide, by decide⟩
      · exact ⟨g2, { mi with f := { xm with fmt := 8 }, rows := [(15, List.replicate 16 0x80)] }, rfl, rfl, by decide, rfl, by decide,
          ⟨15, by decide, _, List.mem_singleton.2 rfl, rfl⟩, 14, by decide, by decide⟩,
    ⟨⟨3, 0x44, 0, 0⟩, { s2 with grids := [{ gr0 with q := { placedWords with q1 := placedWords.q1 + 2 ^ 25 } }] }, v2, t0, rfl, by decide⟩,
    ⟨s2, v2, t0, rfl, by decide⟩,
    sTeam g2 { t0 with consists := [con0] }, v2, { t0 with consists := [con0] }, con0, rfl, by decide⟩


theorem witness_Accumulators :
    (∃ (t : Tile) (e : Int) (con : Nat → Nat → List FVal), t.exp = some e ∧ t.cls.length = t.man.length ∧
      (∀ r ∈ t.man, r.length = 32) ∧ (∀ r ∈ t.cls, r.length = 32) ∧
      let man := fun (i j : Nat) => ((t.man[i]?).bind fun r => r[j]?).getD 0
      ∀ i < t.man.length, ∀ j < 32, ((t.cls[i]?).bind fun r => r[j]?) = some .fin ∧
        (∀ c ∈ con i j, (∃ b m d, c = .fin b m d) ∧ |c.rat| < (2 : ℚ) ^ (e + 31) ∧ ∃ k : Int, c.rat = k * (2 : ℚ) ^ e) ∧
        |(man i j : ℚ) * (2 : ℚ) ^ e + ((con i j).map FVal.rat).sum| < (2 : ℚ) ^ (e + 46)) ∧
    (∃ (f : XM) (s : State) (v : View), s.view = some v ∧ v.Home ∧ f.c.toNat < v.g.acc ∧ s.tileBusy v f.c.toNat = false ∧
      f.a.toNat + 32 ≤ v.g.vregs ∧ v.isEmpty (f.a.setWidth 7) 32 = false ∧ v.isBad (f.a.setWidth 7) 32 = false ∧
      (v.g.tile f.c.toNat).bad = false) ∧
    ∃ (f : XE) (s : State) (v : View), s.view = some v ∧ v.Home ∧ v.Dst f.d ∧ f.c.toNat < v.g.acc ∧
      s.tileBusy v f.c.toNat = false ∧ (v.g.tile f.c.toNat).bad = false :=
  ⟨⟨⟨some 0, [List.replicate 32 5], [List.replicate 32 .fin], false⟩, 0, fun _ _ => [.fin false 7 0], rfl, rfl, by decide, by decide,
      by
        intro man i hi j hj
        obtain rfl : i = 0 := by simpa using hi
        have h : man 0 j = 5 := by
          simp only [man, List.getElem?_cons_zero, Option.bind_some]
          rw [List.getElem?_replicate]; simp [hj]
        refine ⟨(List.getElem?_replicate.trans (if_pos hj) : (List.replicate 32 ECls.fin)[j]? = some .fin), ?_, ?_⟩
        · intro c hc
          rw [List.mem_singleton.1 hc]
          exact ⟨⟨_, _, _, rfl⟩, by norm_num [FVal.rat], 7, by norm_num [FVal.rat]⟩
        · rw [h]; norm_num [FVal.rat]⟩,
    ⟨xm, s2, v2, rfl, by decide⟩, ⟨⟨2, 0x44, 0⟩, s2, v2, rfl, by decide⟩⟩

/-- A row page of vault 0 at 0x1_0000_0000, its open row under handle 2. -/
def xRow : Context := { x0 with descs := [((0, 0), 7), ((1, 0), 61), ((1, 1), 262333)] }
def row0 : RowEntry := ⟨3, .opened, 1, 0x100000000, 0, 5, mkToken 4 3 0 0, gid0, 2, 0, some 0, 0⟩
def gRow : Group := (g2.setS 9 0x100000000).putHandle 2 ⟨.full, mkToken 4 3 0 0, 0, 0, false, false⟩
def rowCore (r : RowEntry) : Core := { Core.reset with rows := [r] }
def sRow : State := { (stOf gRow) with ctxs := [xRow], cores := [(0, rowCore row0)] }
def xr (h : BitVec 4) : XR := ⟨h, 0x49, 0, 1, 0⟩
theorem witness_PlatformAndRowInstructions :
    (∃ (f : XR) (s : State) (v : View) (p : Partition) (g : Group), s.view = some v ∧ v.Home ∧ v.UniPair f.a ∧ f.pl.toNat < v.g.plat ∧
      s.part? v.g.id.team.grid.part = some p ∧ s.group? v.g.id = some g ∧
      let a := (v.addrVal f.a).toNat
      let va := a % 2 ^ 56
      (a / 2 ^ 56 = 0 ∧ va + 2048 ≤ 2 ^ 56 ∨ a / 2 ^ 56 = 1 ∧ a % 2 ^ 32 + 2048 ≤ 65536 * v.g.banks) ∧ va % 512 = 0 ∧
      (v.g.handle f.h.toNat).st ≠ .pending ∧ s.accessHeld v 0 = false ∧ s.spillFull v.g.asid = false) ∧
    (∃ (f : XR) (s : State) (v : View) (t : Team) (p : Platform), s.view = some v ∧ v.Home ∧ f.pl.toNat < v.g.plat ∧
      s.team? v.g.id.team = some t ∧ s.plat? v.g.id.team v.g.core f.pl.toNat = some p ∧ p.writes = []) ∧
    (∃ (f : XR) (s : State) (v : View) (p : Partition) (g : Group) (c : Context) (q : PageOf) (e : Nat), s.view = some v ∧ v.Home ∧
      v.UniPair f.a ∧ s.part? v.g.id.team.grid.part = some p ∧ s.group? v.g.id = some g ∧
      let a := (v.addrVal f.a).toNat
      let t := s.canon v.g.asid a
      a < 2 ^ 56 ∧ s.ctx? t.1 = some c ∧ c.walk t.2.1 = .ok q ∧ descRow q.desc = true ∧ descPidx q.desc = v.g.core ∧
      (∀ r ∈ (s.core v.g.core).rows, r.bank = (q.slot t.2.1).2 → ∃ why, r.st = .expired why) ∧
      (s.core v.g.core).freeEntry = some e ∧ (v.g.handle f.h.toNat).st ≠ .pending ∧
      s.rowsOwed v.g.core v.g.id.team (q.slot t.2.1).2 = false) ∧
    (∃ (f : XR) (s : State) (v : View) (g : Group) (r : RowEntry), s.view = some v ∧ v.Home ∧ s.group? v.g.id = some g ∧
      let h := v.g.handle f.h.toNat
      s.rowHandle v h = true ∧ f.pl.toNat < v.g.plat ∧ h.bad = false ∧ h.st = .full ∧ (s.core v.g.core).rowOf h.tok = some r ∧
      r.st = .opened ∧ s.takeFault v h = [] ∧ (s.vault v.g.core).busEnd ≤ s.now v.g.core ∧ s.accessHeld v 0 = false ∧ s.slotRead v r = false) ∧
    ∃ (s : State) (o : MemOp) (g : Group) (n h : Nat) (p : Platform), s.op? o.id = some o ∧ o.kind = .pld ∧ o.dest = .plat n h ∧
      s.group? o.gid = some g ∧ s.plat? g.id.team g.core n = some p ∧ p.writes.head? = some o.id ∧
      (∀ q ∈ o.parts, q.st.isOpen = false) ∧ o.refusal = none :=
  ⟨⟨xr 3, sRow, vwOf gRow, p0, gRow, rfl, by decide⟩, ⟨xr 3, sRow, vwOf gRow, t0, ⟨0, 1, [], [], false⟩, rfl, by decide⟩,
    ⟨xr 3, { sRow with cores := [] }, vwOf gRow, p0, gRow, xRow, ⟨262333, 0x100000000, 0x100000000⟩, 0, rfl, by decide, by decide, rfl, rfl,
      by decide, rfl, rfl, rfl, rfl, fun _ h => absurd h List.not_mem_nil, rfl, by decide, rfl⟩,
    ⟨xr 2, sRow, vwOf gRow, gRow, row0, rfl, by decide⟩,
    ⟨{ sTeam g2 { t0 with plats := [⟨0, 1, [], [7], false⟩] } with ops := [{ op2 .pld .done with dest := .plat 1 3 }] },
      { op2 .pld .done with dest := .plat 1 3 }, g2, 1, 3, ⟨0, 1, [], [7], false⟩, rfl, rfl, rfl, rfl, rfl, rfl, by decide, rfl⟩⟩

/-! ## Hypotheses that can be met: DRAM, handles, engines -/

def tileLate : TileState := { TileState.reset with acc := 1000000000 }
/-- A machine whose core 0 and vault 0 are these, long after reset. -/
def sCore (c : Core) (x : Vault) : State := { sRow with tiles := [tileLate], time := 1000000, cores := [(0, c)], vaults := [(0, x)] }
def bankIn (st : BankState) : Vault := { Vault.reset with banks := [{ DBank.reset 0 with st := st }] }
def win (active : Bool) : Vault := { Vault.reset with window := some ⟨0, 5, active⟩ }
def take0 : Take := ⟨7, 3, row0.tok, gid0, 1, 0, []⟩
theorem witness_RowAndRefreshEvents :
    (∃ (s : State) (core e : Nat) (r : RowEntry), (s.core core).waitingRow e = some r ∧
      (s.vault core).bankState r.bank = .idle ∧ s.windowNear core = false ∧
      (∀ x ∈ ((s.core core).gone ++ (s.core core).rows).takeWhile (fun x => !sameOp x.tok r.tok), x.bank ≠ r.bank) ∧
      ∀ id ∈ ((s.vault core).dbank r.bank).held, s.stillHeld id = false) ∧
    (∃ (s : State) (core e a : Nat) (r : RowEntry) (id : GroupId) (g : Group),
      ((s.core core).gone ++ (s.core core).rows).find? (fun r => r.e == e && r.st == .opening && r.activated.isSome) = some r ∧
      r.activated = some a ∧ a + s.dramCc core 24 ≤ s.now core ∧ ((s.core core).rowOf r.tok).isSome = true ∧
      s.group? id = some g ∧ id.team.grid.part = r.gid.team.grid.part) ∧
    (∃ (s : State) (core : Nat) (x : Take) (p : Platform), (s.core core).takes.find? (fun y => y.id == x.id) = some x ∧ s.plat? x.gid.team core x.p = some p ∧
      p.writes.head? = some x.id ∧ x.start + s.dramCc core (if (s.vault core).degraded = true then 10 else 6) ≤ s.now core) ∧
    (∃ (s : State) (n b t r : Nat), (s.vault n).bankState b = .shutting t r ∧ t ≤ s.now n) ∧
    (∃ (s : State) (n b t : Nat), (s.vault n).bankState b = .precharging t ∧ t + s.dramCc n 24 ≤ s.now n) ∧
    (∃ (s : State) (core e : Nat) (r : RowEntry), (s.core core).row? e = some r ∧ r.st = .opened ∧
      r.opened + s.dramCc core 8192 ≤ s.now core ∧ r.takeEnd ≤ s.now core) ∧
    (∃ (s : State) (n b : Nat), b < 192 ∧ slotStart b ((s.vault n).dbank b).slots ≤ 7 * s.time ∧ (s.vault n).bankState b = .idle) ∧
    (∃ (s : State) (n b : Nat), b < 192 ∧ slotStart b ((s.vault n).dbank b).slots ≤ 7 * s.time ∧ (s.vault n).bankState b ≠ .idle) ∧
    (∃ (s : State) (n b t : Nat), (s.vault n).bankState b = .refreshing t ∧ t + s.dramCc n 200 ≤ s.now n ∧
      ((s.vault n).dbank b).postponed = 0) ∧
    (∃ (s : State) (n ahead len : Nat), n < 128 ∧ (s.vault n).lastWindow = none ∧
      (∀ i < 16, (s.vault (n / 16 * 16 + i)).window = none) ∧ 20000 ≤ ahead ∧ 1 ≤ len ∧ len ≤ 2000) ∧
    (∃ (s : State) (n : Nat) (w : Window), (s.vault n).window = some w ∧ w.active = false ∧ w.start ≤ s.time ∧
      (s.vault n).busEnd ≤ s.now n ∧ (∀ i < 16, ∀ x, (s.vault (n / 16 * 16 + i)).window = some x → x.active = false) ∧ ∀ r ∈ (s.core n).rows ++ (s.core n).gone, r.st = .opening → r.activated = none) ∧
    ∃ (s : State) (n : Nat) (w : Window), (s.vault n).window = some w ∧ w.active = true ∧ w.start + w.len ≤ s.time :=
  ⟨⟨sCore (rowCore { row0 with st := .opening, activated := none }) Vault.reset, 0, 3, { row0 with st := .opening, activated := none }, rfl, by decide⟩,
    ⟨sCore (rowCore { row0 with st := .opening }) Vault.reset, 0, 3, 0, { row0 with st := .opening }, gid0, gRow, rfl, by decide⟩,
    ⟨{ sCore { rowCore row0 with takes := [take0] } Vault.reset with teams := [{ t0 with plats := [⟨0, 1, [], [7], false⟩] }] },
      0, take0, ⟨0, 1, [], [7], false⟩, rfl, by decide⟩,
    ⟨sCore Core.reset (bankIn (.shutting 0 0)), 0, 0, 0, 0, rfl, by decide⟩, ⟨sCore Core.reset (bankIn (.precharging 0)), 0, 0, 0, rfl, by decide⟩,
    ⟨sCore (rowCore row0) Vault.reset, 0, 3, row0, rfl, by decide⟩, ⟨sCore Core.reset Vault.reset, 0, 0, by decide⟩,
    ⟨sCore Core.reset (bankIn (.opened 3)), 0, 0, by decide⟩, ⟨sCore Core.reset (bankIn (.refreshing 0)), 0, 0, 0, rfl, by decide⟩,
    ⟨sCore Core.reset Vault.reset, 0, 20000, 1, by decide⟩,
    ⟨sCore Core.reset (win false), 0, ⟨0, 5, false⟩, rfl, rfl, by decide, by decide, (fun i hi x h => by
        have e : ∀ i < 16, ((sCore Core.reset (win false)).vault (0 / 16 * 16 + i)).window =
          if i = 0 then some ⟨0, 5, false⟩ else none := by decide
        rw [e i hi] at h
        split at h <;> cases h
        rfl), by decide⟩,
    ⟨sCore Core.reset (win true), 0, ⟨0, 5, true⟩, rfl, by decide⟩⟩

def pTok (live : List W64) (failed : List FailedOp) : Partition := { p0 with seqs := List.replicate 8 9, live := live, failed := failed }
/-- Handle 3 of group `gH` in a state, s4 holding a token of KIND 1. -/
def tok1 : W64 := mkToken 1 0 0 3
def gH (st : HState) (t : W64) : Group := (g2.putHandle 3 ⟨st, t, 2, 5, false, false⟩).setS 4 tok1
def eH : E := ⟨3, 0x44, 0x44, 0x44⟩
def sH (st : HState) (t : W64) (p : Partition) : State := { stOf (gH st t) with parts := [p] }
theorem witness_HandleInstructions :
    (∃ (f : E) (s : State) (v : View), s.view = some v ∧ v.Home ∧ v.Dst f.a ∧ (v.g.handle f.h.toNat).bad = false ∧
      (v.g.handle f.h.toNat).st = .full) ∧
    (∃ (f : E) (s : State) (v : View), s.view = some v ∧ v.Home ∧ v.Dst f.a ∧ (v.g.handle f.h.toNat).bad = false ∧
      (v.g.handle f.h.toNat).st = .pending) ∧
    (∃ (f : E) (s : State) (v : View), s.view = some v ∧ v.Home ∧ v.Dst f.a ∧ (v.g.handle f.h.toNat).bad = false ∧
      (v.g.handle f.h.toNat).st = .errored) ∧
    (∃ (f : E) (s : State) (v : View), s.view = some v ∧ v.Home ∧ v.Dst f.a ∧ (v.g.handle f.h.toNat).bad = false ∧
      (v.g.handle f.h.toNat).st = .idle) ∧
    (∃ (f : E) (s : State) (v : View) (p : Partition), s.view = some v ∧ v.Home ∧ v.Uni f.a ∧ s.part? v.g.id.team.grid.part = some p ∧
      let t := v.uni f.a
      1 ≤ tokKind t ∧ tokKind t ≤ 5 ∧ tokSeq t < (p.seqs[tokKind t]?).getD 0 ∧ p.isLive t = false ∧ p.failure? t = none ∧
        s.tokenError v.g.id.team.grid.part t = none ∧
        (∀ g ∈ s.groups, g.id.team.grid.part = v.g.id.team.grid.part → ∀ h ∈ g.h, ¬(h.st = .errored ∧ sameOp h.tok t = true)) ∧
        (v.g.handle f.h.toNat).st ≠ .pending) ∧
    (∃ (f : E) (s : State) (v : View) (p : Partition), s.view = some v ∧ v.Home ∧ v.Uni f.a ∧ s.part? v.g.id.team.grid.part = some p ∧
      let t := v.uni f.a
      1 ≤ tokKind t ∧ tokKind t ≤ 5 ∧ tokSeq t < (p.seqs[tokKind t]?).getD 0 ∧ p.isLive t = true ∧ p.failure? t = none ∧ s.tokenError v.g.id.team.grid.part t = none ∧
        (v.g.handle f.h.toNat).st ≠ .pending) ∧
    (∃ (f : E) (s : State) (v : View) (p : Partition) (x : FailedOp), s.view = some v ∧ v.Home ∧ v.Uni f.a ∧
      s.part? v.g.id.team.grid.part = some p ∧
      let t := v.uni f.a
      1 ≤ tokKind t ∧ tokKind t ≤ 5 ∧ tokSeq t < (p.seqs[tokKind t]?).getD 0 ∧ p.failure? t = some x ∧ p.isLive t = false ∧
        s.tokenError v.g.id.team.grid.part t = some (x.code, x.pfx) ∧
        (v.g.handle f.h.toNat).st ≠ .pending) ∧
    (∃ (f : E) (s : State) (v : View) (p : Partition), s.view = some v ∧ v.Home ∧ v.Uni f.a ∧ s.part? v.g.id.team.grid.part = some p ∧
      (p.seqs[tokKind (v.uni f.a)]?).getD 0 ≤ tokSeq (v.uni f.a)) ∧
    (∃ (f : E) (s : State) (v : View) (g : Group), s.view = some v ∧ v.Home ∧ s.group? v.g.id = some g ∧
      (v.g.handle f.h.toNat).st ≠ .pending) ∧
    ∀ t ∈ [tok1, mkToken 4 3 0 0, mkToken 5 0 0 0], ∃ (f : E) (s : State) (v : View) (g : Group), s.view = some v ∧ v.Home ∧
      s.group? v.g.id = some g ∧ (v.g.handle f.h.toNat).st = .pending ∧ (v.g.handle f.h.toNat).tok = t :=
  ⟨⟨eH, sH .full tok1 p0, vwOf (gH .full tok1), rfl, by decide⟩, ⟨eH, sH .pending tok1 p0, vwOf (gH .pending tok1), rfl, by decide⟩,
    ⟨eH, sH .errored tok1 p0, vwOf (gH .errored tok1), rfl, by decide⟩, ⟨eH, sH .idle tok1 p0, vwOf (gH .idle tok1), rfl, by decide⟩,
    ⟨eH, sH .idle 0 (pTok [] []), vwOf (gH .idle 0), pTok [] [], rfl, by decide⟩,
    ⟨eH, sH .idle 0 (pTok [tok1] []), vwOf (gH .idle 0), pTok [tok1] [], rfl, by decide⟩,
    ⟨eH, sH .idle 0 (pTok [] [⟨1, 3, 2, 5⟩]), vwOf (gH .idle 0), pTok [] [⟨1, 3, 2, 5⟩], ⟨1, 3, 2, 5⟩, rfl, by decide⟩,
    ⟨eH, sH .idle 0 p0, vwOf (gH .idle 0), p0, rfl, by decide⟩,
    ⟨eH, sH .idle 0 p0, vwOf (gH .idle 0), gH .idle 0, rfl, by decide⟩,
    fun t h => ⟨eH, sH .pending t p0, vwOf (gH .pending t), gH .pending t, rfl, rfl, rfl, rfl, by simp at h; rcases h with h | h | h <;> subst h <;> rfl⟩⟩

/-- `g2` with the control word of a collective over rank set 2 in s9: 1 element of type 2. -/
def gEng : Group := g2.setS 9 0x10202
def pEng : Partition := { p0 with rankSets := [(2, ⟨2, 0, [(1, 0)]⟩)] }
def sEng : State := { stOf gEng with parts := [pEng] }
/-- The record of the running grid, at 0x20000. -/
def recordBytes : Nat := [placedWords.q0, placedWords.q1, placedWords.q2, placedWords.q3, placedWords.q4, placedWords.q5, placedWords.q6,
  placedWords.q7].foldr (fun w n => w.toNat + 2 ^ 64 * n) 0
def sLaunch : State := { s2 with mem := cellsWrite [] (memKey 1 0x20000) 64 recordBytes }
theorem witness_EngineAndLaunchInstructions :
    (∀ k ∈ [EngKind.cp, .ar, .bucket], ∃ (f : E) (s : State) (v : View) (g : Group) (p : Partition) (x : Instr × EngKind × List Code),
      s.view = some v ∧ v.Home ∧ s.group? v.g.id = some g ∧ s.part? v.g.id.team.grid.part = some p ∧ s.Drained v allTracks ∧
      s.spillFull v.g.asid = false ∧ (v.g.handle f.h.toNat).bad = false ∧ (v.g.handle f.h.toNat).st ≠ .pending ∧
      x ∈ engineForms f ∧ x.2.1 = k ∧ (∀ c ∈ x.2.2, v.Uni c) ∧
      (∀ q ∈ s.engVals v.g.id.team.grid.part x.2.1 (v.uni f.a) (v.uni f.b) (v.uni f.c), q.1 = true) ∧
      (x.2.1.tender = false → s.replayed v false = none) ∧
      (x.2.1 = .bucket → s.armed v.g.asid < 32) ∧
      let d := ((s.advanceGens v.g.id.team allTracks).markAll v.g.id).descReach v x.2.1 f
      d.2 = true ∧ (x.2.1.tender = true →
        ((d.1.unheld (accessId v.g.id v.c.cid true)).issueEng v x.2.1 f).crowded s.nextId = false)) ∧
    ∃ (f : E) (s : State) (v : View) (g : Group) (p : Partition) (l : List Launch), s.view = some v ∧ v.Home ∧
      s.group? v.g.id = some g ∧ s.part? v.g.id.team.grid.part = some p ∧ v.Uni f.a ∧ v.Uni f.b ∧
      let a := (v.uni f.a).toNat
      let b := (v.uni f.b).toNat
      let rec' : LaunchWords := recordOf fun i => s.engLoad v.g.asid (a + 8 * i) 8
      a < 2 ^ 56 ∧ b < 64 ∧ (v.g.handle f.h.toNat).bad = false ∧ (v.g.handle f.h.toNat).st ≠ .pending ∧
      s.Drained v allTracks ∧ s.spillFull v.g.asid = false ∧ s.replayed v true = none ∧
      (∀ x ∈ linesOf a 64, s.owner? (s.lineKey v.g.asid x.1) = none) ∧ (s.recordReach v f).2 = true ∧
      p.queues[b]? = some l ∧ l.length < 256 ∧
      s.rangeFault v.g.asid a 64 = none ∧ recordOk rec' = true ∧ p.depOk rec' = true :=
  ⟨fun k h => by
    simp only [List.mem_cons, List.not_mem_nil, or_false] at h
    rcases h with h | h | h <;> subst h
    · refine ⟨⟨3, 0x46, 0x46, 0x48⟩, sEng, vwOf gEng, gEng, pEng, (_, .cp, [0x46, 0x46, 0x48]), rfl, by decide, rfl, rfl, ⟨by decide,
        fun g h => by cases h; decide, by decide, by decide, by decide⟩, by decide, by decide, by decide, .head _, rfl, by decide, by decide,
        by decide, by decide, by decide, by decide⟩
    · refine ⟨⟨3, 0x46, 0x46, 0x49⟩, sEng, vwOf gEng, gEng, pEng, (_, .ar, [0x46, 0x46, 0x49]), rfl, by decide, rfl, rfl, ⟨by decide,
        fun g h => by cases h; decide, by decide, by decide, by decide⟩, by decide, by decide, by decide,
        .tail _ (.tail _ (.tail _ (.tail _ (.tail _ (.head _))))), rfl, by decide, by decide, by decide, by decide, by decide, by decide⟩
    · exact ⟨⟨3, 0x46, 0x46, 0x48⟩, sEng, vwOf gEng, gEng, pEng, (.bucketArm ⟨3, 0x46, 0x46, 0x48⟩, .bucket, [0x46]), rfl, by decide, rfl, rfl,
        ⟨by decide, fun g h => by cases h; decide, by decide, by decide, by decide⟩, by decide, by decide, by decide,
        by simp [engineForms], rfl, by decide, by decide, by decide, by decide, by decide, by decide⟩,
    ⟨⟨3, 0x46, 0x47, 0⟩, sLaunch, v2, g2, p0, [], rfl, by decide, rfl, rfl, by decide, by decide, by decide, by decide, by decide, by decide,
      ⟨by decide, fun g h => by cases h; decide, by decide, by decide, by decide⟩, by decide, by decide, by decide, by decide, by decide,
      by decide, by decide, by decide, by decide⟩⟩

/-- A `cp` of 64 bytes from 0x30000 to 0x20000, planned. -/
def eng0 : Engine :=
  { id := 7, kind := .cp, gid := gid0, asid := 1, part := 0, core := 0, tok := tok1, a := 0x20000, b := 0x30000, c := 64, total := 64, chunk := 0
    snap := none, lag := false, owned := [], granted := [], stall := none, cancel := false, failed := none, plan := some [], rset := 0, place := 0
    peers := [], started := false, shot := none, late := [] }
def sEngs (e : Engine) : State := { s2 with engs := [e], ctxs := [{ x0 with free := 64 }] }
def sPort (p : Port) (e : Engine) : State := { sEng with ports := [p], engs := [e], parts := [{ pEng with collectives := [(2, 1)] }] }
def engAr : Engine := { eng0 with kind := .ar, rset := 2 }
theorem witness_EngineProgress :
    (∃ (s : State) (e : Engine), Memory.wf s.mem = true ∧ s.eng? e.id = some e ∧ e.kind = .cp ∧ s.headOp e = true ∧ e.cancel = false ∧
      e.failed = none ∧ e.stall = none ∧ e.plan.isSome = true ∧ e.snap = none ∧ e.lag = false ∧ e.granted = [] ∧ e.chunk = 0 ∧
      let dst := e.a.toNat
      let src := e.b.toNat
      let n := e.c.toNat
      let t := s.canon e.asid dst
      e.total = n ∧ 0 < n ∧ dst < 2 ^ 56 ∧ src < 2 ^ 56 ∧ dst % 512 + n ≤ 512 ∧ src % 512 + n ≤ 512 ∧ t.2.1 + n ≤ 2 ^ 56 ∧
      s.piecesHeld e [⟨dst, n, .copy, 0⟩] = false ∧ s.pieceFault e src n false = none ∧ s.pieceFault e dst n true = none ∧
      let d := s.reachAll e.id (s.piecesReach e [(⟨dst, n, .copy, 0⟩, true)])
      d.2 = true ∧ ∀ c, d.1.ctx? t.1 = some c → (d.1.grantNeed e (decide (n = 512)) (t.1, t.2.1 / 512)).1 ≤ c.free) ∧
    (∀ b ∈ [0, 1, 2], ∃ (s : State) (e : Engine) (id : GroupId) (g : Group), s.eng? e.id = some e ∧ e.kind.tender = true ∧
      s.headOp e = true ∧ s.group? id = some g ∧ id.team.grid.part = e.part ∧
      (b = 0 → e.cancel = false ∧ e.failed = none ∧ e.stall = none ∧ e.plan.isSome = true ∧ e.total ≤ chunkBytes * e.chunk) ∧
      (b = 1 → e.failed.isSome = true) ∧ (b = 2 → e.failed = none ∧ e.cancel = true)) ∧
    (∃ (s : State) (e : Engine) (va : Nat) (c : Context), s.eng? e.id = some e ∧ e.stall = some (codeCAPACITY, va) ∧
      s.ctx? (s.canon e.asid va).1 = some c ∧ c.balloonList = 0 ∧ s.stallNeed e.asid va ≤ c.free) ∧
    (∃ (s : State) (port : Nat) (f : Flit) (p : Port), s.ports[port]? = some p ∧ f.seq ≠ p.expect) ∧
    (∃ (s : State) (port : Nat) (f : Flit) (p : Port), s.ports[port]? = some p ∧ f.seq = p.expect ∧ p.up = true ∧ p.enabled = true ∧
      f.body = .management ∧ f.pause = none ∧ f.resume = none ∧ p.toSend = [] ∧ p.inbox = [] ∧ p.stopped = []) ∧
    (∃ (s : State) (port : Nat) (f : Flit) (p : Port) (rset idx rank : Nat) (l : List W32) (part : Nat) (rs : RankSet),
      s.ports[port]? = some p ∧ f.seq = p.expect ∧ p.up = true ∧ p.enabled = true ∧ f.body = .reduce rset idx rank l ∧
      s.portSet port rset (some rank) = some (part, rs) ∧ p.inbox = [] ∧
      (((s.part? part).bind fun p => assoc rset p.collectives).getD 0) ≤ idx ∧ f.vc < 4) ∧
    ∃ (s : State) (port : Nat) (f : Flit) (p : Port) (rset idx rank : Nat) (l : List W32) (e : Engine) (part : Nat) (rs : RankSet),
      s.ports[port]? = some p ∧ f.seq = p.expect ∧ p.up = true ∧ p.enabled = true ∧ f.body = .reduce rset idx rank l ∧
      s.portSet port rset (some rank) = some (part, rs) ∧ p.inbox = [] ∧ idx < (((s.part? part).bind fun p => assoc rset p.collectives).getD 0) ∧
      s.engs.find? (fun e => e.part == part && e.kind.toAll && e.rset == rset && e.place == idx) = some e :=
  ⟨⟨sEngs eng0, eng0, rfl, rfl, rfl, rfl, rfl, rfl, rfl, rfl, rfl, rfl, rfl, rfl, by decide, by decide, by decide, by decide, by decide, by decide,
      by decide, by decide, by decide, by decide, rfl, fun c h => by cases h; decide⟩,
    fun b h => by
      simp only [List.mem_cons, List.not_mem_nil, or_false] at h
      rcases h with h | h | h <;> subst h
      · exact ⟨sEngs { eng0 with chunk := 1 }, { eng0 with chunk := 1 }, gid0, g2, rfl, rfl, by decide, rfl, rfl, by decide, by decide, by decide⟩
      · exact ⟨sEngs { eng0 with failed := some (2, 0, 0) }, { eng0 with failed := some (2, 0, 0) }, gid0, g2, rfl, rfl, by decide, rfl, rfl,
          by decide, by decide, by decide⟩
      · exact ⟨sEngs { eng0 with cancel := true }, { eng0 with cancel := true }, gid0, g2, rfl, rfl, by decide, rfl, rfl, by decide, by decide, by decide⟩,
    ⟨sEngs { eng0 with stall := some (codeCAPACITY, 0x20000) }, { eng0 with stall := some (codeCAPACITY, 0x20000) }, 0x20000,
      { x0 with free := 64 }, rfl, rfl, rfl, rfl, by decide⟩,
    ⟨sPort Port.reset engAr, 0, ⟨0, 5, none, none, none, .management⟩, Port.reset, rfl, by decide⟩,
    ⟨sPort Port.reset engAr, 0, ⟨0, 0, none, none, none, .management⟩, Port.reset, rfl, by decide⟩,
    ⟨sPort Port.reset engAr, 0, ⟨0, 0, none, none, none, .reduce 2 1 1 []⟩, Port.reset, 2, 1, 1, [], 0, ⟨2, 0, [(1, 0)]⟩, rfl, rfl, rfl, rfl, rfl,
      rfl, rfl, by decide⟩,
    ⟨sPort Port.reset engAr, 0, ⟨0, 0, none, none, none, .reduce 2 0 1 []⟩, Port.reset, 2, 0, 1, [], engAr, 0, ⟨2, 0, [(1, 0)]⟩, rfl, rfl, rfl, rfl, rfl,
      rfl, rfl, by decide, rfl⟩⟩

/-! ## Hypotheses that can be met: points, barriers, monitors, the active set -/

/-- `g2` with 256 in s9 and 1 in s10, its cohort with this progress. -/
def gS (p : Prog) : Group := { (g2.setS 9 256).setS 10 1 with cohorts := [{ c0 with prog := p }] }
def sPoint (g : Group) (p : Point) (c : List Consist) : State := sTeam g { t0 with points := List.replicate 24 p, consists := c }
def tPoint (p : Point) (c : List Consist) : Team := { t0 with points := List.replicate 24 p, consists := c }
/-- Y with s9, s10. -/
def y9 : Y := ⟨3, 0x49, 0x49, 0⟩
def y10 : Y := ⟨3, 0x4A, 0x4A, 0⟩
theorem witness_RendezvousCounts :
    (∀ b ∈ [0, 1, 2], ∃ (f : Y) (s : State) (v : View) (g : Group) (t : Team), s.view = some v ∧ v.Home ∧ v.Uni f.a ∧
      s.group? v.g.id = some g ∧ s.team? v.g.id.team = some t ∧ f.point < v.g.rdv ∧
      let a := (v.uni f.a).toNat
      (b = 0 → 255 < a ∧ v.c.prog.begun = false) ∧ (b = 1 → 1 ≤ a ∧ a ≤ 255 ∧ v.c.prog = .none ∧ t.consists.any (fun c => c.point == f.point) = true) ∧
      (b = 2 → 1 ≤ a ∧ a ≤ 255 ∧ (∀ c ∈ t.consists, c.point ≠ f.point) ∧ (t.point f.point).arrivals < (t.point f.point).expected ∧
        (t.point f.point).arrivals < a)) ∧
    ∃ (f : Y) (s : State) (v : View) (g : Group) (t : Team), s.view = some v ∧ v.Home ∧ s.group? v.g.id = some g ∧
      s.team? v.g.id.team = some t ∧ f.point < v.g.rdv ∧ v.c.prog = .none ∧ (∀ c ∈ t.consists, c.point ≠ f.point) ∧
      s.tracksHeld v.g v.c.cid allTracks = false ∧ v.g.quiet allTracks = true ∧ s.loadsOut v.g.id allTracks = false ∧ (∀ e ∈ g.pot, e.trk < 16) ∧
      (t.point f.point).arrivals + 1 < (t.point f.point).expected ∧ v.Dst f.a ∧ s.gridFailed v.g.id.team.grid = none ∧
      (t.point f.point).err = none :=
  ⟨fun b h => by
    simp only [List.mem_cons, List.not_mem_nil, or_false] at h
    rcases h with h | h | h <;> subst h
    · exact ⟨y9, sPoint (gS .none) ⟨3, 0, 0, none⟩ [], vwOf (gS .none), gS .none, tPoint ⟨3, 0, 0, none⟩ [], rfl, by decide⟩
    · exact ⟨⟨5, 0x4A, 0x4A, 0⟩, sPoint (gS .none) ⟨3, 0, 0, none⟩ [con0], vwOf (gS .none), gS .none, tPoint ⟨3, 0, 0, none⟩ [con0], rfl, by decide⟩
    · exact ⟨y10, sPoint (gS .none) ⟨3, 0, 0, none⟩ [], vwOf (gS .none), gS .none, tPoint ⟨3, 0, 0, none⟩ [], rfl, by decide⟩,
    ⟨y9, sPoint (gS .none) ⟨3, 0, 0, none⟩ [], vwOf (gS .none), gS .none, tPoint ⟨3, 0, 0, none⟩ [], rfl, by decide⟩⟩

theorem witness_RendezvousPhases :
    (∀ b ∈ [0, 1, 2], ∃ (f : Y) (s : State) (v : View) (g : Group) (t : Team), s.view = some v ∧ v.Home ∧ v.Dst f.a ∧
      s.group? v.g.id = some g ∧ s.team? v.g.id.team = some t ∧ f.point < v.g.rdv ∧ v.c.prog = .none ∧
      s.gridFailed v.g.id.team.grid = none ∧
      let p := t.point f.point
      let k := ((g.lastArr[f.point]?).getD none).getD p.phase
      (b = 0 → k < p.phase) ∧ (b = 1 → p.phase ≤ k ∧ p.err = some 255) ∧ (b = 2 → p.phase ≤ k ∧ p.err = none)) ∧
    ∃ (s : State) (t : TeamId) (x : Team) (n : Nat) (g : Group) (c : Cohort) (d : Code) (r : Nat), s.team? t = some x ∧
      x.st = .running ∧ n < x.points.length ∧ (x.point n).expected ≤ (x.point n).arrivals ∧
      (∀ g ∈ s.groups, g.id.team = t → ∀ e ∈ g.pot, e.hold ≠ some (n, (x.point n).phase)) ∧
      (∀ o ∈ s.ops, o.gid.team = t → o.hold ≠ some (n, (x.point n).phase)) ∧ s.group? g.id = some g ∧ g.id.team = t ∧
      g.cohorts = [c] ∧ c.helper = none ∧ c.stopped = false ∧ c.prog = .phase false n (x.point n).phase d ∧ opd d = .s r ∧
      (g.sreg r).full = true :=
  ⟨fun b h => by
    simp only [List.mem_cons, List.not_mem_nil, or_false] at h
    rcases h with h | h | h <;> subst h
    · exact ⟨y9, sPoint { gS .none with lastArr := List.replicate 24 (some 4) } ⟨3, 0, 5, none⟩ [],
        vwOf { gS .none with lastArr := List.replicate 24 (some 4) }, { gS .none with lastArr := List.replicate 24 (some 4) },
        tPoint ⟨3, 0, 5, none⟩ [], rfl, by decide⟩
    · exact ⟨y9, sPoint (gS .none) ⟨3, 0, 5, some 255⟩ [], vwOf (gS .none), gS .none, tPoint ⟨3, 0, 5, some 255⟩ [], rfl, by decide⟩
    · exact ⟨y9, sPoint (gS .none) ⟨3, 0, 5, none⟩ [], vwOf (gS .none), gS .none, tPoint ⟨3, 0, 5, none⟩ [], rfl, by decide⟩,
    ⟨sPoint (gS (.phase false 3 5 0x49)) ⟨2, 2, 5, none⟩ [], gid0.team, tPoint ⟨2, 2, 5, none⟩ [], 3, gS (.phase false 3 5 0x49),
      { c0 with prog := .phase false 3 5 0x49 }, 0x49, 9, rfl, by decide⟩⟩

def sGrid (g : Group) (gr : Grid) : State := { stOf g with grids := [gr] }
/-- The grid with all its teams placed, barriers in phase 5. -/
def grBar : Grid := { gr0 with bars := List.replicate 8 ⟨5⟩, next := 1 }
/-- The same of two groups, of which one has exited. -/
def grBar2 : Grid := { grBar with q := { grBar.q with q1 := grBar.q.q1 + 0x2000000 } }
def gBar (p : Nat) : Group := { gS .none with barArr := List.replicate 8 (some p), barWait := List.replicate 8 (some p) }
theorem witness_GridBarriers :
    (∃ (f : Y) (s : State) (v : View) (g : Group) (t : Team) (gr : Grid), s.view = some v ∧ v.Home ∧ s.group? v.g.id = some g ∧
      s.team? v.g.id.team = some t ∧ s.grid? v.g.id.team.grid = some gr ∧ f.point < 8 ∧ s.Drained v allTracks ∧ gr.relaunch = false ∧
      gr.kept = []) ∧
    (∀ b ∈ [0, 1, 2], ∃ (f : Y) (s : State) (v : View) (g : Group) (gr : Grid), s.view = some v ∧ v.Home ∧ v.Dst f.a ∧
      s.group? v.g.id = some g ∧ s.grid? v.g.id.team.grid = some gr ∧ f.point < 8 ∧ v.c.prog = .none ∧
      let k := ((v.g.barArr[f.point]?).getD none).getD (gr.barPhase f.point)
      (b = 0 → gr.failed = none ∧ k < gr.barPhase f.point) ∧ (b = 1 → gr.failed = some 255) ∧
      (b = 2 → gr.failed = none ∧ gr.barPhase f.point ≤ k)) ∧
    (∀ b ∈ [true, false], ∃ (s : State) (id : GridId) (gr : Grid) (n : Nat), s.grid? id = some gr ∧ n < 8 ∧ gr.bars.length = 8 ∧ gr.kept = [] ∧
      gr.q.teams ≤ gr.next ∧ (∀ t < gr.q.teams, t ∈ gr.ended ∨ ∀ i < gr.q.groups, (∃ g, s.group? ⟨⟨gr.id, t⟩, i⟩ = some g ∧
        g.barWait[n]? = some (some (gr.barPhase n))) ∨ (s.group? ⟨⟨gr.id, t⟩, i⟩ = none ∧ (s.team? ⟨gr.id, t⟩).isSome = true)) ∧
      (b = true → ∃ t ∈ List.range gr.q.teams, t ∉ gr.ended ∧ ∃ i < gr.q.groups, s.group? ⟨⟨gr.id, t⟩, i⟩ = none) ∧
      ∃ t < gr.q.teams, ∃ i < gr.q.groups, ∃ g, s.group? ⟨⟨gr.id, t⟩, i⟩ = some g ∧ g.barWait[n]? = some (some (gr.barPhase n))) ∧
    ∃ (s : State) (id : GridId) (gr : Grid) (n : Nat), s.grid? id = some gr ∧ n < 8 ∧ gr.bars.length = 8 ∧ gr.kept = [] ∧
      ∀ t < gr.q.teams, t ∉ gr.ended ∧ ∀ i < gr.q.groups, ∀ g, s.group? ⟨⟨gr.id, t⟩, i⟩ = some g →
        (g.barWait[n]?).getD none ≠ some (gr.barPhase n) := by
  have one : ∀ t < grBar.q.teams, t = 0 := fun t h => by have : grBar.q.teams = 1 := by decide
                                                         omega
  have grp : ∀ i < grBar.q.groups, i = 0 := fun i h => by have : grBar.q.groups = 1 := by decide
                                                          omega
  refine ⟨⟨y9, sGrid (gS .none) grBar, vwOf (gS .none), gS .none, t0, grBar, rfl, by decide, rfl, rfl, rfl, by decide,
      ⟨by decide, fun g h => by cases h; decide, by decide, by decide, by decide⟩, by decide, rfl⟩, fun b h => ?_,
    (fun b h => by
      simp only [List.mem_cons, List.not_mem_nil, or_false] at h
      rcases h with h | h <;> subst h
      · refine ⟨sGrid (gBar 5) grBar2, gid0.team.grid, grBar2, 3, rfl, by decide, rfl, rfl, by decide, fun t ht => .inr fun i hi => ?_,
          fun _ => ⟨0, by decide, by decide, 1, by decide, rfl⟩, 0, by decide, 0, by decide, gBar 5, rfl, rfl⟩
        have ht' : t = 0 := by have : grBar2.q.teams = 1 := by decide
                               omega
        have hi' : i = 0 ∨ i = 1 := by have : grBar2.q.groups = 2 := by decide
                                       omega
        rcases hi' with rfl | rfl <;> subst ht'
        · exact .inl ⟨gBar 5, rfl, rfl⟩
        · exact .inr ⟨rfl, rfl⟩
      · exact ⟨sGrid (gBar 5) grBar, gid0.team.grid, grBar, 3, rfl, by decide, rfl, rfl, by decide, fun t ht => .inr fun i hi => by
          rw [one t ht, grp i hi]; exact .inl ⟨gBar 5, rfl, rfl⟩, (fun h => by cases h), 0, by decide, 0, by decide, gBar 5, rfl, rfl⟩),
    ⟨sGrid (gBar 4) grBar, gid0.team.grid, grBar, 3, rfl, by decide, rfl, rfl, fun t ht => ⟨by decide +revert, fun i hi g hg => by
      rw [one t ht, grp i hi] at hg; cases hg; decide⟩⟩⟩
  simp only [List.mem_cons, List.not_mem_nil, or_false] at h
  rcases h with h | h | h <;> subst h
  · exact ⟨y9, sGrid (gBar 4) grBar, vwOf (gBar 4), gBar 4, grBar, rfl, by decide⟩
  · exact ⟨y9, sGrid (gBar 4) { grBar with failed := some 255 }, vwOf (gBar 4), gBar 4, { grBar with failed := some 255 }, rfl, by decide⟩
  · exact ⟨y9, sGrid (gS .none) grBar, vwOf (gS .none), gS .none, grBar, rfl, by decide⟩

def gMon (fired : Bool) : Group := { gS .none with monitor := some ⟨0, true, fired⟩ }
/-- Eight active groups of one quadrant and the executing one, pending. -/
def sActive (yielded : Bool) : State :=
  { s2 with groups := { g2 with active := false } ::
      (List.range 8).map fun i => { g2 with id := ⟨gid0.team, i + 1⟩, active := true, yielded := yielded, slots := [i + 1] } }
theorem witness_WatchSleepAndActiveSet :
    (∃ (f : Y) (s : State) (v : View), s.view = some v ∧ v.Home ∧ v.UniPair f.a ∧ v.c.prog ≠ .watch) ∧
    (∃ (s : State) (id : GroupId) (g : Group) (c : Cohort), s.group? id = some g ∧ g.cohorts = [c] ∧ c.prog = .watch ∧ c.stopped = false) ∧
    (∀ b ∈ [0, 1, 2], ∃ (f : Y) (s : State) (v : View) (g : Group), s.view = some v ∧ v.Home ∧ v.Uni f.a ∧ v.Dst f.b ∧ v.c.prog = .none ∧
      s.group? v.g.id = some g ∧ (b = 0 → ∃ m, v.g.monitor = some m ∧ m.fired = true) ∧
      (b = 1 → (¬∃ m, v.g.monitor = some m ∧ m.fired = true) ∧ (v.uni f.a).toNat % 2 ^ 32 = 0) ∧
      (b = 2 → (¬∃ m, v.g.monitor = some m ∧ m.fired = true) ∧ 0 < (v.uni f.a).toNat % 2 ^ 32)) ∧
    (∀ b ∈ [0, 1], ∃ (s : State) (id : GroupId) (g : Group) (c : Cohort) (till : Nat) (d : Code) (r : Nat), s.resident? id = some g ∧
      g.cohort? c.cid = some c ∧ c.stopped = false ∧ c.prog = .sleep till d ∧ opd d = .s r ∧ (g.sreg r).full = true ∧
      (b = 0 → till ≤ s.now g.core) ∧ (b = 1 → s.now g.core < till)) ∧
    (∃ (s : State) (id : GroupId) (g : Group), s.resident? id = some g ∧ g.active = false ∧ g.blocked = false ∧
      ((s.quadGroups g).filter (·.active)).length < 8) ∧
    (∃ (s : State) (id : GroupId) (g x : Group), s.resident? id = some g ∧ g.active = false ∧ g.blocked = false ∧
      8 ≤ ((s.quadGroups g).filter (·.active)).length ∧
      ((s.quadGroups g).filter (·.active)).find? (fun x => x.blocked || x.yielded) = some x) ∧
    (∃ (s : State) (id : GroupId) (g : Group), s.resident? id = some g ∧ g.active = false ∧ g.blocked = false ∧
      8 ≤ ((s.quadGroups g).filter (·.active)).length ∧ ∀ x ∈ (s.quadGroups g).filter (·.active), x.blocked = false ∧ x.yielded = false) ∧
    ∃ (s : State) (id : GroupId) (g : Group), s.resident? id = some g ∧ g.active = true ∧ g.placed + 4096 ≤ s.now g.core ∧
      (∃ c ∈ g.cohorts, c.entered = false) ∧ ∃ x ∈ s.quadGroups g, x.active = false ∧ x.blocked = false := by
  have mon : ∀ m, (gMon false).monitor = some m → m.fired = true → False := fun m h => by cases h; decide
  refine ⟨⟨y9, stOf (gS .none), vwOf (gS .none), rfl, by decide⟩,
    ⟨stOf (gS .watch), gid0, gS .watch, { c0 with prog := .watch }, rfl, rfl, rfl, rfl⟩, fun b h => ?_, fun b h => ?_,
    ⟨stOf { g2 with active := false }, gid0, { g2 with active := false }, rfl, by decide⟩,
    ⟨sActive true, gid0, { g2 with active := false }, { g2 with id := ⟨gid0.team, 1⟩, active := true, yielded := true, slots := [1] }, rfl,
      rfl, by decide, by decide, by decide⟩,
    ⟨sActive false, gid0, { g2 with active := false }, rfl, rfl, by decide, by decide, by decide⟩,
    ⟨{ s2 with
        tiles := [tileLate]
        groups := [{ g2 with cohorts := [{ c0 with entered := false }] }, { g2 with id := ⟨gid0.team, 1⟩, slots := [1], active := false }] },
      gid0, { g2 with cohorts := [{ c0 with entered := false }] }, rfl, rfl, by decide, ⟨_, List.mem_singleton.2 rfl, rfl⟩,
      { g2 with id := ⟨gid0.team, 1⟩, slots := [1], active := false }, by decide, rfl, by decide⟩⟩ <;>
    simp only [List.mem_cons, List.not_mem_nil, or_false] at h
  · rcases h with h | h | h <;> subst h
    · exact ⟨y9, stOf (gMon true), vwOf (gMon true), gMon true, rfl, by decide, by decide, by decide, rfl, rfl, fun _ => ⟨_, rfl, rfl⟩,
        fun h => absurd h (by decide), fun h => absurd h (by decide)⟩
    · exact ⟨⟨3, 0x42, 0x49, 0⟩, stOf (gMon false), vwOf (gMon false), gMon false, rfl, by decide, by decide, by decide, rfl, rfl, fun h => absurd h (by decide),
        fun _ => ⟨fun ⟨m, h, k⟩ => mon m h k, by decide⟩, fun h => absurd h (by decide)⟩
    · exact ⟨y9, stOf (gMon false), vwOf (gMon false), gMon false, rfl, by decide, by decide, by decide, rfl, rfl, fun h => absurd h (by decide),
        fun h => absurd h (by decide), fun _ => ⟨fun ⟨m, h, k⟩ => mon m h k, by decide⟩⟩
  · rcases h with h | h <;> subst h
    · exact ⟨{ stOf (gS (.sleep 40 0x49)) with tiles := [tileLate] }, gid0, gS (.sleep 40 0x49), { c0 with prog := .sleep 40 0x49 }, 40, 0x49, 9, rfl, by decide⟩
    · exact ⟨stOf (gS (.sleep 40 0x49)), gid0, gS (.sleep 40 0x49), { c0 with prog := .sleep 40 0x49 }, 40, 0x49, 9, rfl, by decide⟩

/-! ## Hypotheses that can be met: recruitment, class K -/

/-- A group of one thread that moves, the first of 16, with 8 lend registers. -/
def gRec : Group := { g2 with lendCount := 8, cohorts := [{ c0 with lanes := oneLane 0 }] }
def rec0 : Recruitment := ⟨5, 0, 0, 4, 1, [], [⟨60, 0, false, 7⟩], 0, true, []⟩
/-- The same in a helper body as helper `k` of a recruitment, hosted by the second group of the team where k ≥ 1. -/
def gHelp (k hosted : Nat) (p : Prog) : Group :=
  { gRec with
    recruits := [{ rec0 with hosted := hosted }]
    cohorts := [{ c0 with
      lanes := oneLane 0, prog := p, helper := some ⟨5, k, 0, if k = 0 then gid0 else ⟨gid0.team, 1⟩, 2, [⟨9, true, .g, true, false⟩]⟩ }] }
def helper (k : Nat) : Helper := ⟨5, k, 0, if k = 0 then gid0 else ⟨gid0.team, 1⟩, 2, [⟨9, true, .g, true, false⟩]⟩
theorem witness_RecruitsAndHelpers :
    (∃ (f : RecruitF) (s : State) (v : View) (g : Group) (i : Nat), s.view = some v ∧ v.Home ∧ s.group? v.g.id = some g ∧
      s.Drained v allTracks ∧ v.lanes = [i] ∧ v.c.cid < g.nextCid ∧ v.Dst f.d ∧ v.Uni f.a ∧ v.Uni f.b ∧
      f.imm.toNat ≤ 8 ∧ 1 ≤ (v.uni f.a).toNat ∧ (v.uni f.a).toNat ≤ 64 ∧ (v.uni f.b).toNat ≤ 256 ∧
      (∀ j < f.imm.toNat, f.xb.toNat + j < v.g.vregs ∧ (v.g.vreg (f.xb.toNat + j)).tag ≠ .g ∧
        (v.g.vreg (f.xb.toNat + j)).full = true ∧ (v.g.vreg (f.xb.toNat + j)).bad = false) ∧ f.imm.toNat = 1 ∧ f.xb.toNat < 64) ∧
    (∃ (f : Y) (s : State) (v : View), s.view = some v ∧ v.c.prog.begun = false ∧ v.dDst f.a = true ∧ v.isEmpty f.a 1 = false ∧ v.Home) ∧
    (∃ (f : Y) (s : State) (v : View), s.view = some v ∧ v.c.prog.begun = false ∧ v.Home ∧ v.Src f.a ∧ v.Src f.b ∧ f.imm.toNat < v.g.vregs) ∧
    (∀ b ∈ [true, false], ∃ (f : Y) (s : State) (v : View) (h : Helper) (r : Recruitment), s.view = some v ∧ v.c.helper = some h ∧
      v.recruitment = some r ∧ v.dDst f.a = true ∧ v.isEmpty f.a 1 = false ∧ (isS f.a = false → v.Free f.a 1) ∧ s.underForce v h r = false ∧ (b = true → r.next < r.chunks) ∧ (b = false → r.chunks ≤ r.next)) ∧
    (∃ (f : Y) (s : State) (v : View) (h : Helper) (r : Recruitment), s.view = some v ∧ v.c.helper = some h ∧ v.recruitment = some r ∧
      v.Src f.a ∧ v.Src f.b ∧ f.imm.toNat < v.g.vregs ∧
      (v.r32 .word f.b v.lane0).toNat < r.chunks ∧
      (∀ d ∈ r.deposits, d.dest = f.imm.toNat → d.chunk ≠ (v.r32 .word f.b v.lane0).toNat ∧ d.isF32 = false) ∧
      r.deposits.any (fun d => d.dest == f.imm.toNat) = true) ∧
    ∃ (s : State) (v : View) (h : Helper) (hg : Group), s.view = some v ∧ v.c.helper = some h ∧ h.k ≠ 0 ∧ h.host ≠ v.g.id ∧
      (∀ l ∈ h.lend, l.written = true → l.full = true) ∧ s.group? h.host = some hg ∧ h.hostLane < hg.threads.length :=
  ⟨⟨⟨0, 0x47, 0x48, 1, 5, 0x44, 0, 3⟩, stOf gRec, vwOf gRec, gRec, 0, rfl, by decide, rfl, ⟨by decide, fun g h => by cases h; decide, by decide,
      by decide, by decide⟩, by decide⟩,
    ⟨⟨0, 0x44, 0, 0⟩, stOf gRec, vwOf gRec, rfl, by decide⟩, ⟨⟨0, 3, 0x78, 60⟩, stOf gRec, vwOf gRec, rfl, by decide⟩,
    fun b h => by
      simp only [List.mem_cons, List.not_mem_nil, or_false] at h
      rcases h with h | h <;> subst h
      · exact ⟨⟨0, 57, 0, 0⟩, stOf (gHelp 0 0 .none), vwOf (gHelp 0 0 .none), helper 0, rec0, rfl, by decide⟩
      · exact ⟨⟨0, 57, 0, 0⟩, stOf { gHelp 0 0 .none with recruits := [{ rec0 with next := 4 }] },
          vwOf { gHelp 0 0 .none with recruits := [{ rec0 with next := 4 }] }, helper 0, { rec0 with next := 4 }, rfl, by decide⟩,
    ⟨⟨0, 57, 0x78, 60⟩, stOf (gHelp 0 0 .none), vwOf (gHelp 0 0 .none), helper 0, rec0, rfl, by decide⟩,
    ⟨{ stOf (gHelp 1 1 .none) with groups := [gHelp 1 1 .none, { gRec with id := ⟨gid0.team, 1⟩ }] }, vwOf (gHelp 1 1 .none), helper 1,
      { gRec with id := ⟨gid0.team, 1⟩ }, rfl, by decide⟩⟩

/-- A group whose threads 0 and 1 wait at a join of the clause at 0x10000, thread 0 hosting a helper where `b`. -/
def gJoin (b : Bool) : Group :=
  { gRec with
    cohorts := []
    threads := (List.range 16).map fun i =>
      if i < 2 then { Thread.start with meet := ⟨0x10000, 1⟩, wait := some ⟨3, 5, .s, false⟩, hosting := b && i == 0 }
      else { Thread.start with meet := ⟨0x20000, 1⟩ } }
def gOwes : Group := { gJoin false with threads := (gJoin false).threads.set 1 { Thread.start with meet := ⟨0x10000, 1⟩ } }
theorem witness_RecruitmentsEnd :
    (∃ (s s' : State) (v : View) (h : Helper) (r : Recruitment) (i : Instr), s'.view = some v ∧ v.c.helper = some h ∧ h.k = 0 ∧
      v.recruitment = some r ∧ (∃ f, i = .hjoin f) ∧ s = s' ∧ r.hosted = 0 ∧
      (∀ d ∈ r.deposits, (v.g.vreg d.dest).full = true ∧ d.dest < v.g.v.length) ∧ r.lane < v.g.width ∧ v.g.width ≤ 64) ∧
    (∀ n ∈ [0, 1], ∃ (s s' : State) (v : View) (h : Helper) (r : Recruitment) (i : Instr) (g : Group), s'.view = some v ∧ v.c.helper = some h ∧
      h.k = 0 ∧ v.recruitment = some r ∧ i = .hjoinComplete v.g.id r.id ∧ s' = s.focus v.g.id v.c.cid ∧ v.c.prog = .hjoin ∧
      v.c.stopped = false ∧ s.group? v.g.id = some g ∧ g.cohorts = [v.c] ∧ r.hosted = n) ∧
    (∃ (s : State) (id : GroupId) (g : Group) (m : Meeting), s.resident? id = some g ∧
      ∃ i < g.width, ((g.thread i).meet = m ∨ m ∈ (g.thread i).stack) ∧ ¬((g.thread i).meet = m ∧ (g.thread i).wait.isSome = true)) ∧
    (∃ (s : State) (id : GroupId) (g : Group) (m : Meeting), s.resident? id = some g ∧
      let waits := fun i => (g.thread i).meet = m ∧ (g.thread i).wait.isSome = true
      let owes := fun i => (g.thread i).meet = m ∨ m ∈ (g.thread i).stack
      ∃ (i : Nat) (w : Waiting), i < g.width ∧ waits i ∧ (∀ j < i, ¬waits j) ∧ (g.thread i).wait = some w ∧
        (∀ j < g.width, owes j → waits j) ∧ (∀ j < g.width, waits j → (g.thread j).hosting = false) ∧
        (∀ c ∈ g.cohorts, c.cid ≠ g.nextCid) ∧ g.width ≤ 64 ∧ g.threads.length = g.width) ∧
    (∃ (s : State) (id : GroupId) (g : Group) (m : Meeting), s.resident? id = some g ∧ g.due m = false) ∧
    ∃ (s : State) (id : GroupId) (g : Group) (m : Meeting) (x : Group) (c : Cohort) (h : Helper), s.resident? id = some g ∧ g.due m = true ∧
      s.group? x.id = some x ∧ x.cohorts = [c] ∧ c.helper = some h ∧ h.k ≠ 0 ∧ h.host = id ∧ h.hostLane < g.width ∧
      (g.thread h.hostLane).arrived m = true ∧ (g.thread h.hostLane).hosting = true :=
  ⟨⟨stOf (gHelp 0 0 .none), stOf (gHelp 0 0 .none), vwOf (gHelp 0 0 .none), helper 0, rec0, .hjoin ⟨0, 0, 0, 0⟩, rfl, rfl, rfl, rfl, ⟨_, rfl⟩,
      rfl, rfl, by decide, by decide, by decide⟩,
    fun n h => by
      simp only [List.mem_cons, List.not_mem_nil, or_false] at h
      rcases h with h | h <;> subst h
      · exact ⟨stOf (gHelp 0 0 .hjoin), stOf (gHelp 0 0 .hjoin), vwOf (gHelp 0 0 .hjoin), helper 0, rec0, _, gHelp 0 0 .hjoin, rfl, rfl, rfl, rfl,
          rfl, rfl, rfl, rfl, rfl, rfl, rfl⟩
      · exact ⟨stOf (gHelp 0 1 .hjoin), stOf (gHelp 0 1 .hjoin), vwOf (gHelp 0 1 .hjoin), helper 0, { rec0 with hosted := 1 }, _, gHelp 0 1 .hjoin,
          rfl, rfl, rfl, rfl, rfl, rfl, rfl, rfl, rfl, rfl, rfl⟩,
    ⟨stOf gOwes, gid0, gOwes, ⟨0x10000, 1⟩, rfl, 1, by decide⟩,
    ⟨stOf (gJoin false), gid0, gJoin false, ⟨0x10000, 1⟩, rfl, 0, ⟨3, 5, .s, false⟩, by decide⟩,
    ⟨stOf gOwes, gid0, gOwes, ⟨0x10000, 1⟩, rfl, by decide⟩,
    ⟨{ stOf (gJoin true) with groups := [gJoin true, { gHelp 1 1 .none with
          id := ⟨gid0.team, 1⟩
          cohorts := [{ c0 with lanes := oneLane 0, helper := some ⟨5, 1, 0, gid0, 0, []⟩ }] }] }, gid0, gJoin true, ⟨0x10000, 1⟩,
      { gHelp 1 1 .none with id := ⟨gid0.team, 1⟩, cohorts := [{ c0 with lanes := oneLane 0, helper := some ⟨5, 1, 0, gid0, 0, []⟩ }] },
      { c0 with lanes := oneLane 0, helper := some ⟨5, 1, 0, gid0, 0, []⟩ }, ⟨5, 1, 0, gid0, 0, []⟩, rfl, by decide⟩⟩

/-- A context with mailboxes and two queues, one of the host. -/
def xSys : Context :=
  { x0 with
    mboxes := List.replicate 8 ⟨0, 0, false⟩, queues := [⟨.va 0x20000, 0, [(0, 0, 7)]⟩, ⟨.iova 0x1000, 4096, [(0, 0, 7)]⟩, ⟨.iova 0x5000, 0, []⟩]
    free := 64, reads := [⟨7, gid0, true, 1, .s 4⟩, ⟨8, gid0, false, 1, .v 4 1 false⟩] }
def sSys : State := { s2 with ctxs := [xSys], pairs := [(0, { Pair.reset with banks := [⟨.way, some gid0.team, [], [], [], some (.fifo, 3)⟩] })] }
theorem witness_StateRegisters :
    (∃ (f : K) (s : State) (v : View) (g : Group) (p : Partition) (c : Context) (gr : Grid) (m : Mbox) (r : Nat), s.view = some v ∧ v.Home ∧
      v.Dst f.d ∧ s.group? v.g.id = some g ∧ s.part? v.g.id.team.grid.part = some p ∧ s.ctx? v.g.asid = some c ∧
      s.grid? v.g.id.team.grid = some gr ∧ c.mboxes[7]? = some m ∧ opd f.d = .s r) ∧
    (∃ (s : State) (v : View) (q r : RowEntry), s.view = some v ∧ v.Home ∧ (s.core v.g.core).rows = [q, r] ∧
      (((s.core v.g.core).rows).map (·.e)).Nodup ∧ (∀ r ∈ (s.core v.g.core).rows, r.e < 16) ∧ r.st = .expired 1) ∧
    (∀ b ∈ [true, false], ∃ (s : State) (v : View) (w : Window), s.view = some v ∧ v.Home ∧ (s.vault v.g.core).window = some w ∧
      w.active = b) ∧
    (∃ (s : State) (v : View) (b t : Nat), s.view = some v ∧ v.Home ∧ b < 192 ∧ (s.vault v.g.core).bankState b = .refreshing t) ∧
    (∃ (s : State) (v : View), s.view = some v ∧ v.Home ∧ ¬∃ b t, b < 192 ∧ (s.vault v.g.core).bankState b = .refreshing t) ∧
    (∃ (f : K) (s : State) (v : View) (g : Group) (c : Context), s.view = some v ∧ v.Home ∧ v.Uni f.d ∧ s.group? v.g.id = some g ∧
      s.ctx? v.g.asid = some c) ∧
    (∃ (s : State) (c : Context) (r : PantryRead) (g : Group) (n : Nat), s.ctxs.find? (fun c => c.reads.any fun x => x.id == r.id) = some c ∧
      c.reads.find? (fun x => x.id == r.id) = some r ∧ s.group? r.gid = some g ∧ r.dest = .s n) ∧
    ∃ (s : State) (c : Context) (r : PantryRead) (g : Group) (n k : Nat) (b : Bool),
      s.ctxs.find? (fun c => c.reads.any fun x => x.id == r.id) = some c ∧
      c.reads.find? (fun x => x.id == r.id) = some r ∧ s.group? r.gid = some g ∧ r.dest = .v n k b :=
  ⟨⟨⟨0x44, 0, 0⟩, sSys, v2, g2, p0, xSys, gr0, ⟨0, 0, false⟩, 4, rfl, by decide⟩,
    ⟨{ sRow with cores := [(0, { rowCore row0 with rows := [row0, { row0 with e := 4, st := .expired 1 }] })] }, vwOf gRow, row0,
      { row0 with e := 4, st := .expired 1 }, rfl, by decide⟩,
    fun b h => by
      simp only [List.mem_cons, List.not_mem_nil, or_false] at h
      rcases h with h | h <;> subst h
      · exact ⟨{ sRow with vaults := [(0, win true)] }, vwOf gRow, ⟨0, 5, true⟩, rfl, by decide⟩
      · exact ⟨{ sRow with vaults := [(0, win false)] }, vwOf gRow, ⟨0, 5, false⟩, rfl, by decide⟩,
    ⟨{ sRow with vaults := [(0, { Vault.reset with banks := [⟨7, .refreshing 0, 0, false, [], 0, 1, []⟩] })] }, vwOf gRow, 7, 0, rfl, by decide⟩,
    ⟨sRow, vwOf gRow, rfl, by decide, fun ⟨_, _, _, h⟩ => nomatch h⟩,
    ⟨⟨0x44, 0, 0⟩, sSys, v2, g2, xSys, rfl, by decide⟩, ⟨sSys, xSys, ⟨7, gid0, true, 1, .s 4⟩, g2, 4, rfl, rfl, rfl, rfl⟩,
    ⟨sSys, xSys, ⟨8, gid0, false, 1, .v 4 1 false⟩, g2, 4, 1, false, rfl, rfl, rfl, rfl⟩⟩

theorem witness_StateRegisterAccessesComplete :
    (∃ (f : K) (s : State) (v : View), s.view = some v ∧ v.Home ∧
      f.srn.toNat ∈ [0, 1, 2, 3, 4, 5, 6, 0x10, 0x11, 0x12, 0x13, 0x14, 0x15, 0x20, 0x21, 0x22, 0x23, 0x24, 0x25, 0x26, 0x27, 0x30, 0x31,
        0x32, 0x40, 0x41, 0x42, 0x50, 0x60] ∧ v.Dst f.d ∧ v.Uni f.d) ∧
    ∃ (s : State) (id : Nat), (total s.ctxs fun c => (c.reads.filter fun x => x.id == id).length) = 1 :=
  ⟨⟨⟨0x44, 0x60, 0⟩, sSys, v2, rfl, by decide⟩, sSys, 7, rfl⟩

theorem witness_TrapsBankModesAndEvents :
    (∃ (s : State) (v : View), s.view = some v ∧ v.Home) ∧
    (∀ b ∈ [0, 1, 2], ∃ (f : K) (s : State) (v : View) (g : Group), s.view = some v ∧ v.Home ∧ isS f.d = true ∧ v.Holds f.d 1 ∧
      s.group? v.g.id = some g ∧
      let n := (v.uni f.d).toNat
      let x := (s.pair (pairOf v.g.core)).bank (s.bankOf v.g.id.team (n * 65536))
      (b = 0 → n < v.g.banks ∧ x.switch = none) ∧ (b = 1 → n < v.g.banks ∧ x.switch ≠ none) ∧ (b = 2 → v.g.banks ≤ n ∧ v.c.prog.begun = false)) ∧
    (∀ b ∈ [true, false], ∃ (s : State) (k b' at_ : Nat) (m : BankMode) (x : CBank), (s.pair k).banks[b']? = some x ∧
      x.switch = some (m, at_) ∧ s.bankBusy k b' at_ = b) ∧
    (∃ (f : K) (s : State) (v : View) (g : Group) (c : Context) (x : EventQueue), s.view = some v ∧ v.Home ∧ isS f.d = true ∧
      v.Holds f.d 1 ∧ s.group? v.g.id = some g ∧ s.ctx? v.g.asid = some c ∧ f.imm.toNat ≤ 15 ∧ c.queues[f.imm.toNat]? = some x ∧
      s.Drained v allTracks ∧ s.queueRoom v.g.asid x x.waiting.length = true) ∧
    (∃ (s : State) (asid q a kind core : Nat) (payload : W64) (rest : List (Nat × Nat × W64)) (c : Context) (x : EventQueue),
      s.MemOk ∧ s.ctx? asid = some c ∧ c.queues[q]? = some x ∧ x.waiting = (kind, core, payload) :: rest ∧ kind < 256 ∧ core < 256 ∧
      s.queueRoom asid x 0 = true ∧ x.base = .iova a) ∧
    ∃ (s : State) (asid q a kind core : Nat) (payload : W64) (rest : List (Nat × Nat × W64)) (c : Context) (x : EventQueue),
      s.MemOk ∧ s.ctx? asid = some c ∧ c.queues[q]? = some x ∧ x.waiting = (kind, core, payload) :: rest ∧ kind < 256 ∧ core < 256 ∧
      s.queueRoom asid x 0 = true ∧ x.base = .va a ∧ s.entryOk asid (a + 16 * (x.next % 4096)) = true ∧
      (s.reach asid (a + 16 * (x.next % 4096)) 16 true (eventAccess asid q)).2 = true ∧
      a + 16 * (x.next % 4096) + 16 ≤ 2 ^ 56 ∧ ∀ p, s.part? (s.partOf asid) = some p → p.synonyms = [] := by
  refine ⟨⟨s2, v2, rfl, by decide⟩, fun b h => ?_, fun b h => ?_,
    ⟨⟨0x47, 0, 2⟩, sSys, v2, g2, xSys, ⟨.iova 0x5000, 0, []⟩, rfl, by decide, rfl, by decide, rfl, rfl, by decide, rfl,
      ⟨by decide, fun g h => by cases h; decide, by decide, by decide, by decide⟩, by decide⟩,
    ⟨sSys, 1, 1, 0x1000, 0, 0, 7, [], xSys, ⟨.iova 0x1000, 4096, [(0, 0, 7)]⟩, by decide⟩,
    ⟨sSys, 1, 0, 0x20000, 0, 0, 7, [], xSys, ⟨.va 0x20000, 0, [(0, 0, 7)]⟩, by decide, rfl, rfl, rfl, by decide, by decide, by decide, rfl,
      by decide, by decide, by decide, fun p h => by cases h; rfl⟩⟩ <;>
    simp only [List.mem_cons, List.not_mem_nil, or_false] at h
  · rcases h with h | h | h <;> subst h
    · exact ⟨⟨0x4A, 0, 2⟩, s2, v2, g2, rfl, by decide⟩
    · exact ⟨⟨0x4A, 0, 2⟩, sSys, v2, g2, rfl, by decide⟩
    · exact ⟨⟨0x48, 0, 2⟩, s2, v2, g2, rfl, by decide⟩
  · rcases h with h | h <;> subst h
    · exact ⟨{ sSys with ops := [{ op2 .store .waiting with id := 2, parts := [⟨0, 0, 4, .bank 0 0, 0, 0, 0, .waiting, false, false⟩] }] },
        0, 0, 3, .fifo, ⟨.way, some gid0.team, [], [], [], some (.fifo, 3)⟩, rfl, rfl, by decide⟩
    · exact ⟨sSys, 0, 0, 3, .fifo, ⟨.way, some gid0.team, [], [], [], some (.fifo, 3)⟩, rfl, rfl, by decide⟩

/-! ## Hypotheses that can be met: ends, accesses, launches, teams -/

def sGridOver (g : Grid) : State := { s2 with grids := [g], teams := [], groups := [] }
theorem witness_GroupsAndGridsEnd :
    (∃ (s : State) (v : View), s.view = some v ∧ v.Home ∧ v.Steady ∧ v.whole = false ∧ v.c.prog.begun = false) ∧
    (∀ b ∈ [0, 1], ∃ (s : State) (v : View), s.view = some v ∧ v.Home ∧ v.Steady ∧ v.whole = true ∧ s.Drained v allTracks ∧
      v.c.prog = .none ∧ (s.core v.g.core).runs = [] ∧ (b = 0 → s.engs = [] ∧ s.ops = []) ∧ (b = 1 → ∃ e ∈ s.engs, e.gid = v.g.id)) ∧
    (∀ b ∈ [true, false], ∃ (s : State) (g : Grid) (p : Partition), s.grid? g.id = some g ∧ s.gridOver g = b ∧
      s.part? g.id.part = some p) ∧
    ∃ (s : State) (part : Nat) (g : Grid), s.grids = [g] ∧ g.id.part = part ∧ g.failed = none ∧ s.freePool part < saveSectors g.q ∧
      ∃ t, g.waitSince = some t ∧ t + 10000000 ≤ s.time := by
  refine ⟨⟨stOf gRec, vwOf gRec, rfl, by decide⟩, fun b h => ?_, fun b h => ?_,
    ⟨{ s2 with grids := [{ gr0 with waitSince := some 0 }], parts := [{ p0 with pool := 0 }], time := 10000000 }, 0,
      { gr0 with waitSince := some 0 }, rfl, rfl, rfl, by decide, 0, rfl, by decide⟩⟩ <;>
    simp only [List.mem_cons, List.not_mem_nil, or_false] at h
  · rcases h with h | h <;> subst h
    · exact ⟨s2, v2, rfl, by decide, by decide, by decide, ⟨by decide, fun g h => by cases h; decide, by decide, by decide, by decide⟩,
        rfl, rfl, by decide, fun h => absurd h (by decide)⟩
    · exact ⟨sEngs eng0, v2, rfl, by decide, by decide, by decide, ⟨by decide, fun g h => by cases h; decide, by decide, by decide, by decide⟩,
        rfl, rfl, by decide, fun _ => ⟨eng0, .head _, rfl⟩⟩
  · rcases h with h | h <;> subst h
    · exact ⟨sGridOver gr0, gr0, p0, rfl, rfl, rfl⟩
    · exact ⟨sGridOver { gr0 with next := 0 }, { gr0 with next := 0 }, p0, rfl, rfl, rfl⟩

/-- A machine with one operation on its way, on a group with a count on its track, in a context where the line at 0x20000 is `d`. -/
def gOne : Group := { g2 with pc := (List.replicate 16 0).set 3 1 }
def opL : MemOp := { op2 (.load false false) .waiting with dest := .v 4 1 false }
def sOne (o : MemOp) (d : List Dirty) (e : List Engine) : State :=
  { stOf gOne with ops := [o], engs := e, ctxs := [{ x0 with dirty := d, free := 64 }] }
def owns : Engine := { eng0 with owned := [memKey 1 0x20000 / 512] }
theorem codeSize_le (n : Nat) : codeSize n ≤ 8 := by unfold codeSize; split <;> decide
/-- The vaults with bank 0 in a refresh slot, the block at 0x20000 in it. -/
def xDram : Context := { x0 with entries := [(256, ⟨7, false, false, 0, 0⟩)], free := 64 }
def sDram (o : MemOp) : State :=
  { sOne o [] [] with ctxs := [xDram], vaults := (List.range 16).map fun n => (n, { Vault.reset with banks := [⟨0, .refreshing 0, 0, false, [], 0, 1, []⟩] }) }
/-- A load of 8 bytes of private space, its two words on two lines. -/
def opPair : MemOp :=
  { opL with
    width := 8, dest := .v 4 2 false
    parts := [⟨0, 0, 4, .glob 0x20000, 0, 0, 0, .waiting, false, false⟩, ⟨0, 4, 4, .glob 0x20040, 0, 0, 0, .waiting, false, false⟩] }
theorem witness_PairsAtHome :
    ∀ b ∈ [true, false], ∃ (s : State) (o : MemOp) (k : Nat) (p q : Part) (va vb : Nat) (sg acq : Bool), s.op? o.id = some o ∧
      o.kind = .load sg acq ∧ o.mates (2 * k) = [2 * k, 2 * k + 1] ∧ o.mates (2 * k + 1) = [2 * k, 2 * k + 1] ∧ o.parts[2 * k]? = some p ∧
      o.parts[2 * k + 1]? = some q ∧ p.loc = .glob va ∧ q.loc = .glob vb ∧ p.st = .waiting ∧ q.st = .waiting ∧ s.closure o p = none ∧
      s.closure o q = none ∧ s.blocked o (2 * k) p = false ∧ s.blocked o (2 * k + 1) q = false ∧
      s.owner? (s.lineKey o.asid va) = none ∧ s.owner? (s.lineKey o.asid vb) = none ∧ (∀ q ∈ o.parts, q.passed = false) ∧
      let a := s.canon o.asid va
      let c := s.canon o.asid vb
      (b = true → s.homeFault o va p.n false = none ∧ s.homeFault o vb q.n false = none ∧
        (s.reachAll o.id [(a.1, a.2.1, p.n, false), (c.1, c.2.1, q.n, false)]).2 = true) ∧
      (b = false → s.homeFault o va p.n false = some (codeXLATE, 1)) :=
  fun b h => by
    simp only [List.mem_cons, List.not_mem_nil, or_false] at h
    rcases h with h | h <;> subst h
    · exact ⟨sOne opPair [] [], opPair, 0, _, _, 0x20000, 0x20040, false, false, rfl, rfl, rfl, rfl, rfl, rfl, rfl, rfl, by decide⟩
    · exact ⟨{ sOne opPair [] [] with ctxs := [{ x0 with descs := [] }] }, opPair, 0, _, _, 0x20000, 0x20040, false, false, rfl, rfl, rfl, rfl, rfl,
        rfl, rfl, rfl, by decide⟩
theorem witness_WorkAtHome :
    (∀ p' ∈ [PSt.waiting, .recalled], ∃ (s : State) (o : MemOp) (k : Nat) (p : Part) (va : Nat), Memory.wf s.mem = true ∧
      s.op? o.id = some o ∧ o.parts[k]? = some p ∧ p.loc = .glob va ∧ s.closure o p = none ∧ s.blocked o k p = false ∧
      o.mates k = [k] ∧ (∀ q ∈ o.parts, q.passed = false) ∧ o.kind = .store ∧ p.st = p' ∧ (s.owner? (s.lineKey o.asid va)).isSome = true) ∧
    (∀ p' ∈ [PSt.waiting, .recalled], ∃ (s : State) (o : MemOp) (k : Nat) (p : Part) (va : Nat), Memory.wf s.mem = true ∧
      s.op? o.id = some o ∧ o.parts[k]? = some p ∧ p.loc = .glob va ∧ s.closure o p = none ∧ s.blocked o k p = false ∧
      o.mates k = [k] ∧ (∀ q ∈ o.parts, q.passed = false) ∧ o.kind = .load false false ∧ p.st = p' ∧ s.owner? (s.lineKey o.asid va) = none ∧ s.homeFault o va p.n false = none ∧
      (s.reach (s.canon o.asid va).1 (s.canon o.asid va).2.1 p.n o.kind.isWrite o.id).2 = true) ∧
    (∃ (s : State) (o : MemOp) (k : Nat) (p : Part) (va : Nat), Memory.wf s.mem = true ∧
      s.op? o.id = some o ∧ o.parts[k]? = some p ∧ p.loc = .glob va ∧ s.closure o p = none ∧ s.blocked o k p = false ∧
      o.mates k = [k] ∧ (∀ q ∈ o.parts, q.passed = false) ∧ o.kind = .load false false ∧ p.st = .waiting ∧ s.owner? (s.lineKey o.asid va) = none ∧ s.homeFault o va p.n false = none ∧
      (s.reach (s.canon o.asid va).1 (s.canon o.asid va).2.1 p.n o.kind.isWrite o.id).2 = false) ∧
    (∃ (s : State) (o : MemOp) (k : Nat) (p : Part) (va code det : Nat), Memory.wf s.mem = true ∧
      s.op? o.id = some o ∧ o.parts[k]? = some p ∧ p.loc = .glob va ∧ s.closure o p = none ∧ s.blocked o k p = false ∧
      o.mates k = [k] ∧ (∀ q ∈ o.parts, q.passed = false) ∧ o.kind = .load false false ∧ p.st = .waiting ∧ s.owner? (s.lineKey o.asid va) = none ∧
      s.homeFault o va p.n false = some (code, det) ∧ code ≠ codeUE) ∧
    (∀ b ∈ [true, false], ∃ (s : State) (o : MemOp) (k : Nat) (p : Part) (va : Nat) (c : Context), Memory.wf s.mem = true ∧
      s.op? o.id = some o ∧ o.parts[k]? = some p ∧ p.loc = .glob va ∧ s.closure o p = none ∧ s.blocked o k p = false ∧
      o.mates k = [k] ∧ (∀ q ∈ o.parts, q.passed = false) ∧ o.kind = .store ∧ p.st = .waiting ∧ s.owner? (s.lineKey o.asid va) = none ∧ s.homeFault o va p.n false = none ∧
      let t := s.canon o.asid va
      let d := s.reach t.1 t.2.1 p.n o.kind.isWrite o.id
      d.2 = true ∧ d.1.ctx? t.1 = some c ∧ (c.dirty? (t.2.1 / 512)).isSome = b ∧
      (b = false → d.1.need t.1 (t.2.1 / 512) (d.1.home t.1 t.2.1) ≠ 0)) ∧
    ∃ (s : State) (o : MemOp) (k : Nat) (p : Part) (va : Nat) (r : RedOp) (c : Context), Memory.wf s.mem = true ∧
      s.op? o.id = some o ∧ o.parts[k]? = some p ∧ p.loc = .glob va ∧ o.kind = .red r ∧ p.st = .waiting ∧ s.closure o p = none ∧
      s.blocked o k p = false ∧ (∀ q ∈ o.parts, q.passed = false) ∧ s.owner? (s.lineKey o.asid va) = none ∧
      s.homeFault o va p.n false = none ∧ p.n = o.width ∧
      let t := s.canon o.asid va
      let d := s.reach t.1 t.2.1 p.n true o.id
      d.2 = true ∧ d.1.ctx? t.1 = some c ∧ (c.dirty? (t.2.1 / 512)).isSome = true :=
  ⟨fun p' h => by
    simp only [List.mem_cons, List.not_mem_nil, or_false] at h
    rcases h with h | h <;> subst h
    · exact ⟨sOne (op2 .store .waiting) [] [owns], op2 .store .waiting, 0, _, 0x20000, rfl, rfl, rfl, rfl, by decide⟩
    · exact ⟨sOne (op2 .store .recalled) [] [owns], op2 .store .recalled, 0, _, 0x20000, rfl, rfl, rfl, rfl, by decide⟩,
    fun p' h => by
    simp only [List.mem_cons, List.not_mem_nil, or_false] at h
    rcases h with h | h <;> subst h
    · exact ⟨sOne opL [] [], opL, 0, _, 0x20000, rfl, rfl, rfl, rfl, by decide⟩
    · exact ⟨sOne { op2 (.load false false) .recalled with dest := .v 4 1 false } [] [], { op2 (.load false false) .recalled with dest := .v 4 1 false }, 0, _,
        0x20000, rfl, rfl, rfl, rfl, by decide⟩,
    ⟨sDram opL, opL, 0, _, 0x20000, rfl, rfl, rfl, rfl, by decide⟩,
    ⟨{ sOne opL [] [] with ctxs := [{ x0 with descs := [] }] }, opL, 0, _, 0x20000, codeXLATE, 1, rfl, rfl, rfl, rfl, by decide⟩,
    fun b h => by
    simp only [List.mem_cons, List.not_mem_nil, or_false] at h
    rcases h with h | h <;> subst h
    · exact ⟨sOne (op2 .store .waiting) [⟨256, 0, true, []⟩] [], op2 .store .waiting, 0, _, 0x20000, _, rfl, rfl, rfl, rfl, by decide, by decide, rfl, by decide, rfl,
        rfl, by decide, by decide, by decide, rfl, by decide, by decide⟩
    · exact ⟨sOne (op2 .store .waiting) [] [], op2 .store .waiting, 0, _, 0x20000, _, rfl, rfl, rfl, rfl, by decide, by decide, rfl, by decide, rfl,
        rfl, by decide, by decide, by decide, rfl, by decide, by decide⟩,
    ⟨sOne (op2 (.red .add32) .waiting) [⟨256, 0, true, []⟩] [], op2 (.red .add32) .waiting, 0, _, 0x20000, .add32, _, rfl, rfl, rfl, rfl, rfl, rfl,
      by decide, by decide, by decide, by decide, by decide, rfl, by decide, rfl, by decide⟩⟩

/-- A context with a reservation of the store of `op2`; its bank in a refresh slot where `b`. -/
def xRes (free : Nat) (b : Bool) : Context :=
  { x0 with reserves := [⟨7, 0, 8⟩], free := free, entries := if b then [(256, ⟨7, false, false, 0, 0⟩)] else [] }
def sRes (free : Nat) (b : Bool) : State :=
  { sOne (op2 .store .reserving) [] [] with ctxs := [xRes free b], vaults := if b then (sDram opL).vaults else [] }
theorem witness_ReservationsAndSettlements :
    (∀ b ∈ [0, 1, 2], ∃ (s : State) (c : Context) (r : Reserve) (rest : List Reserve) (o : MemOp) (p : Part) (va : Nat),
      Memory.wf s.mem = true ∧ s.ctx? c.asid = some c ∧ c.reserves = r :: rest ∧ s.op? r.op = some o ∧ o.parts[r.part]? = some p ∧
      p.st = .reserving ∧ o.mates r.part = [r.part] ∧ (∀ q ∈ o.parts, q.passed = false) ∧ p.loc = .glob va ∧ o.kind = .store ∧
      (s.canon o.asid va).1 = c.asid ∧ c.buckets = [] ∧
      let a := (s.canon o.asid va).2.1
      let d := s.reach c.asid a p.n true o.id
      (b = 0 → d.2 = false) ∧ (b ≠ 0 → d.2 = true ∧ ∃ y ∈ (d.1.ctx? c.asid).toList, y.buckets = [] ∧
        let need := max r.need (d.1.need c.asid (a / 512) (d.1.home c.asid a))
        (b = 1 → y.free < need) ∧ (b = 2 → need ≤ y.free))) ∧
    ∃ (s : State) (c : Context) (d : Dirty) (b : Nat), s.ctx? c.asid = some c ∧ c.dirty? b = some d ∧ d.owned ≤ 8 ∧
      c.dramHit b = true ∧ (s.vault (s.home c.asid (b * 512))).valid c.asid b = BitVec.allOnes 8 ∧ b ∉ c.l2Bad ∧ c.balloonReq = 0 ∧
      (s.settleReach c.asid b 0).2 = true :=
  ⟨fun b h => by
    simp only [List.mem_cons, List.not_mem_nil, or_false] at h
    rcases h with h | h | h <;> subst h
    · exact ⟨sRes 64 true, xRes 64 true, ⟨7, 0, 8⟩, [], op2 .store .reserving, _, 0x20000, rfl, rfl, rfl, rfl, rfl, rfl, rfl, by decide, rfl, rfl,
        rfl, rfl, by decide⟩
    · exact ⟨sRes 7 false, xRes 7 false, ⟨7, 0, 8⟩, [], op2 .store .reserving, _, 0x20000, rfl, rfl, rfl, rfl, rfl, rfl, rfl, by decide, rfl, rfl,
        rfl, rfl, by decide⟩
    · exact ⟨sRes 8 false, xRes 8 false, ⟨7, 0, 8⟩, [], op2 .store .reserving, _, 0x20000, rfl, rfl, rfl, rfl, rfl, rfl, rfl, by decide, rfl, rfl,
        rfl, rfl, by decide⟩,
    ⟨{ sOne opL [] [] with
        ctxs := [{ x0 with dirty := [⟨256, 8, true, []⟩], free := 64, dramBad := [2048] }]
        vaults := (List.range 16).map fun n => (n, { Vault.reset with l2 := [⟨1, 256, 255, 255⟩] }) },
      { x0 with dirty := [⟨256, 8, true, []⟩], free := 64, dramBad := [2048] }, ⟨256, 8, true, []⟩, 256, rfl, rfl, by decide⟩⟩

theorem witness_AccessesReturn :
    (∃ (s : State) (o : MemOp) (g : Group) (r : Nat) (p : Part), s.op? o.id = some o ∧ s.group? o.gid = some g ∧ o.kind = .load true true ∧
      (∀ p ∈ o.parts, p.st = .done ∧ p.off = 0 ∧ p.n = o.width) ∧ (o.parts.map (·.lane)).Nodup ∧ o.dest = .s r ∧ o.parts = [p] ∧
      (lanesOf g.width o.lanes).head? = some p.lane ∧ o.width ∈ [1, 2, 4, 8]) ∧
    (∃ (s : State) (o : MemOp) (g : Group) (r : Nat) (bc : Bool), s.op? o.id = some o ∧ s.group? o.gid = some g ∧ o.kind = .load true true ∧
      (∀ p ∈ o.parts, p.st = .done ∧ p.off = 0 ∧ p.n = o.width) ∧ (o.parts.map (·.lane)).Nodup ∧ o.dest = .v r 1 bc ∧ o.width ∈ [1, 2, 4]) ∧
    (∃ (s : State) (o : MemOp) (g : Group) (r : Nat) (bc : Bool), s.op? o.id = some o ∧ s.group? o.gid = some g ∧ o.kind = .load true true ∧
      (∀ p ∈ o.parts, p.st = .done ∧ p.off = 0 ∧ p.n = o.width) ∧ (o.parts.map (·.lane)).Nodup ∧ o.dest = .v r 2 bc ∧ o.width = 8) ∧
    (∃ (s : State) (o : MemOp) (g : Group) (r : Nat) (p : Part), s.op? o.id = some o ∧ s.group? o.gid = some g ∧ o.kind = .acc ∧
      (∀ p ∈ o.parts, p.st = .done ∧ p.off = 0 ∧ p.n = o.width) ∧ (o.parts.map (·.lane)).Nodup ∧ o.dest = .s r ∧ o.parts = [p] ∧
      (lanesOf g.width o.lanes).head? = some p.lane ∧ o.width = 8) ∧
    (∃ (s : State) (o : MemOp) (g : Group) (r n : Nat) (bc : Bool), s.op? o.id = some o ∧ s.group? o.gid = some g ∧ o.kind = .acc ∧
      (∀ p ∈ o.parts, p.st = .done ∧ p.off = 0 ∧ p.n = o.width) ∧ (o.parts.map (·.lane)).Nodup ∧ o.dest = .v r n bc ∧ o.width = 4 * n ∧ n = 16) ∧
    (∃ (s : State) (o : MemOp) (g : Group), s.op? o.id = some o ∧ s.group? o.gid = some g ∧ ∃ p ∈ o.parts, p.st ≠ .done) ∧
    (∃ (s : State) (o : MemOp) (g : Group), s.op? o.id = some o ∧ s.group? o.gid = some g ∧ (∀ p ∈ o.parts, p.st = .done) ∧ o.kind = .store) ∧
    ∃ (s : State) (o : MemOp) (g : Group) (a : AtOp) (r : Nat) (bc : Bool), s.op? o.id = some o ∧ s.group? o.gid = some g ∧
      (∀ p ∈ o.parts, p.st = .done) ∧ o.kind = .atomic a ∧ o.dest = .v r 1 bc ∧ o.width = 4 ∧ (o.parts.map (·.lane)).Nodup ∧
      ∀ p ∈ o.parts, p.off = 0 ∧ p.n = 4 := by
  let o1 : MemOp := { op2 (.load true true) .done with dest := .s 4 }
  let o2 : MemOp := { op2 (.load true true) .done with dest := .v 4 1 false }
  let o3 : MemOp := { op2 (.load true true) .done with
    dest := .v 4 2 false, width := 8, parts := [⟨0, 0, 8, .glob 0x20000, 0, 0, 5, .done, false, false⟩] }
  let o4 : MemOp := { op2 (.atomic .add) .done with dest := .v 4 1 true }
  let a1 : MemOp := { op2 .acc .done with
    dest := .s 4, width := 8, parts := [⟨0, 0, 8, .glob 0, 0, 0, 5, .done, false, false⟩] }
  let a2 : MemOp := { op2 .acc .done with
    dest := .v 4 16 false, width := 64, parts := [⟨0, 0, 64, .glob 0, 0, 0, 5, .done, false, false⟩] }
  exact ⟨⟨sOne o1 [] [], o1, gOne, 4, _, rfl, rfl, rfl, by decide, by decide, rfl, rfl, by decide, by decide⟩,
    ⟨sOne o2 [] [], o2, gOne, 4, false, rfl, rfl, rfl, by decide, by decide, rfl, by decide⟩,
    ⟨sOne o3 [] [], o3, gOne, 4, false, rfl, rfl, rfl, by decide, by decide, rfl, by decide⟩,
    ⟨sOne a1 [] [], a1, gOne, 4, _, rfl, rfl, rfl, by decide, by decide, rfl, rfl, by decide, rfl⟩,
    ⟨sOne a2 [] [], a2, gOne, 4, 16, false, rfl, rfl, rfl, by decide, by decide, rfl, by decide⟩,
    ⟨sOne opL [] [], opL, gOne, rfl, rfl, _, .head _, by decide⟩,
    ⟨sOne (op2 .store .done) [] [], op2 .store .done, gOne, rfl, rfl, by decide, rfl⟩,
    ⟨sOne o4 [] [], o4, gOne, .add, 4, true, rfl, rfl, by decide, rfl, rfl, rfl, by decide, by decide⟩⟩

/-- Ring 0 on, of two entries, with an unread record at 0x1000 of the host's memory. -/
def pRing : Partition := { p0 with rings := (List.replicate 64 ⟨0, 0, 0⟩).set 0 ⟨0x8100000000001000, 1, 0⟩ }
def sRing : State := { s2 with parts := [pRing], hostMem := cellsWrite [] 0x1000 64 recordBytes }
/-- A record at the head of queue 0 that depends on the grid of token `tok3`. -/
def tok3 : W64 := mkToken 3 0 0 1
def grDep : Grid := { gr0 with id := ⟨0, 11⟩, next := 0, q := { placedWords with q7 := tok3 } }
def pDep (live : List W64) (failed : List FailedOp) : Partition :=
  { pTok live failed with queues := (List.replicate 64 []).set 0 [⟨⟨0, 11⟩, false⟩] }
/-- A partition whose queue 48 is full. -/
def pFull : Partition := { p0 with queues := (List.replicate 64 []).set 48 (List.replicate 256 ⟨⟨0, 11⟩, false⟩) }
/-- A context with a record its loader has written and not yet submitted. -/
def xPos (q : LaunchWords) : Context := { x0 with toSubmit := [(3, q)] }
theorem witness_LaunchRecordsReachQueues :
    (∃ (s : State) (n q : Nat) (p : Partition) (r : Ring), s.part? n = some p ∧ p.rings[q]? = some r ∧ q < 64 ∧ r.cfg.getLsbD 63 = false) ∧
    (∃ (s : State) (n q : Nat) (p : Partition) (r : Ring) (c : Context) (l : List Launch), s.part? n = some p ∧ p.rings[q]? = some r ∧ q < 64 ∧
      s.hostCtx n = some c ∧ p.queues[q]? = some l ∧ l.length < 256 ∧ r.cfg.getLsbD 63 = true ∧
      let size := 2 ^ (r.cfg.toNat / 2 ^ 56 % 16)
      r.head % size ≠ r.tail % size ∧
      let a := r.cfg.toNat / 2 ^ 12 % 2 ^ 44 * 4096 + 64 * (r.head % size)
      let rec' := recordOf fun i => cellsRead s.hostMem (a + 8 * i) 8
      recordOk rec' = true ∧ p.depOk rec' = true) ∧
    (∀ b ∈ [0, 1, 2], ∃ (s : State) (c : Context) (p : Partition) (prio : Nat) (q : LaunchWords) (rest : List (Nat × LaunchWords))
      (l : List Launch), s.ctx? c.asid = some c ∧ s.part? c.part = some p ∧ c.ending = false ∧ c.loadStopped = false ∧
      c.toSubmit = (prio, q) :: rest ∧ p.queues[16 * prio]? = some l ∧ (b = 0 → 256 ≤ l.length) ∧ (b ≠ 0 → l.length < 256) ∧
      (b = 1 → recordOk q = true ∧ p.depOk q = true) ∧ (b = 2 → recordOk q = false)) ∧
    ∀ b ∈ [0, 1, 2], ∃ (s : State) (n q : Nat) (p : Partition) (x : Launch) (rest : List Launch) (g : Grid), s.part? n = some p ∧
      p.queues[q]? = some (x :: rest) ∧ s.grid? x.grid = some g ∧ x.grid.part = n ∧ (b = 0 → p.depMet g.q = true) ∧
      (b = 1 → p.depMet g.q = false) ∧ (b = 2 → p.depFailed g.q = true ∧ g.next = 0) := by
  refine ⟨⟨s2, 0, 0, p0, ⟨0, 0, 0⟩, rfl, rfl, by decide, by decide⟩,
    ⟨sRing, 0, 0, pRing, ⟨0x8100000000001000, 1, 0⟩, x0, [], rfl, rfl, by decide, rfl, rfl, by decide, by decide, by decide, by decide, by decide⟩,
    fun b h => ?_, fun b h => ?_⟩ <;> simp only [List.mem_cons, List.not_mem_nil, or_false] at h
  · rcases h with h | h | h <;> subst h
    · exact ⟨{ s2 with ctxs := [xPos placedWords], parts := [pFull] }, xPos placedWords, pFull, 3, placedWords, [],
        List.replicate 256 ⟨⟨0, 11⟩, false⟩, rfl, rfl, rfl, rfl, rfl, rfl, fun _ => by rw [List.length_replicate],
        fun h => absurd rfl h, by decide, by decide⟩
    · exact ⟨{ s2 with ctxs := [xPos placedWords] }, xPos placedWords, p0, 3, placedWords, [], [], rfl, rfl, rfl, rfl, rfl, rfl, by decide,
        by decide, by decide, by decide⟩
    · exact ⟨{ s2 with ctxs := [xPos { placedWords with q0 := 2 }] }, xPos { placedWords with q0 := 2 }, p0, 3, { placedWords with q0 := 2 },
        [], [], rfl, rfl, rfl, rfl, rfl, rfl, by decide, by decide, by decide, by decide⟩
  · rcases h with h | h | h <;> subst h
    · exact ⟨{ sGrid g2 grDep with parts := [pDep [] []] }, 0, 0, pDep [] [], ⟨⟨0, 11⟩, false⟩, [], grDep, rfl, rfl, rfl, rfl, by decide⟩
    · exact ⟨{ sGrid g2 grDep with parts := [pDep [tok3] []] }, 0, 0, pDep [tok3] [], ⟨⟨0, 11⟩, false⟩, [], grDep, rfl, rfl, rfl, rfl, by decide⟩
    · exact ⟨{ sGrid g2 grDep with parts := [pDep [] [⟨3, 1, 2, 0⟩]] }, 0, 0, pDep [] [⟨3, 1, 2, 0⟩], ⟨⟨0, 11⟩, false⟩, [], grDep, rfl, rfl, rfl, rfl,
        by decide⟩

/-! ## Hypotheses that can be met: teams, fault records, their service -/

/-- The grid with its team still to place, its record at the head of queue 0. -/
def grNew : Grid := { gr0 with next := 0 }
def pNew : Partition := { p0 with queues := (List.replicate 64 []).set 0 [⟨⟨0, 4⟩, true⟩] }
/-- A grid of priority 1 whose saved team has a row to reopen on core 0 and wants 28 banks. -/
def grHigh : Grid := { gr0 with id := ⟨0, 5⟩, queue := 16, q := { placedWords with q1 := placedWords.q1 + 0x18000 } }
def tSaved : Team := { t0 with st := .saved, banks := [] }
def tHigh : Team := { tSaved with id := ⟨⟨0, 5⟩, 0⟩, rows := [⟨0x100000000, 0, 2, 0, 0, none⟩] }
/-- The group at a clause boundary with nothing on its way. -/
def gRest (st : Bool) : Group := { g2 with cohorts := [{ c0 with entered := st }] }
theorem witness_TeamsComeAndGo :
    (∃ (s : State) (part base : Nat) (p : Partition) (n : NextTeam) (c : Context), s.part? part = some p ∧ s.nextTeam part = some n ∧
      n.grid.id.part = part ∧ s.ctx? n.grid.asid = some c ∧ s.savedFirst part n.grid.prio = false ∧
      s.leastLoaded n.grid.q ((p.bases n.grid.q).filter fun b => s.fitsAt n.grid.q b) = some base ∧ saveSectors n.grid.q ≤ s.freePool part ∧
      (∀ t ∈ s.teams, t.id ≠ ⟨n.grid.id, n.team⟩) ∧ ∀ g ∈ s.groups, g.id.team ≠ ⟨n.grid.id, n.team⟩) ∧
    (∃ (s : State) (t : Team), s.team? t.id = some t ∧ t.st = .running ∧ t.ending = false ∧ t.stop = false ∧
      ∃ x ∈ s.preemptable t.id.grid.part, x.id = t.id) ∧
    (∀ b ∈ [true, false], ∃ (s : State) (t : Team), s.team? t.id = some t ∧ t.st = .running ∧ t.ending = false ∧ t.stop = true ∧
      s.atRest t = b) ∧
    ∃ (s : State) (t : Team) (gr : Grid) (p : Partition) (base : Nat), s.team? t.id = some t ∧ s.grid? t.id.grid = some gr ∧
      s.part? t.id.grid.part = some p ∧ t.st = .saved ∧ (∀ x ∈ s.heads t.id.grid.part, x.prio ≤ gr.prio) ∧
      s.savedFirst t.id.grid.part (gr.prio + 1) = false ∧ s.rowsFit t = true ∧
      s.leastLoaded gr.q ((if t.rows.isEmpty then p.bases gr.q else [t.core]).filter fun b => s.fitsAt gr.q b && s.consistsFit t b) = some base :=
  ⟨⟨{ s2 with parts := [pNew], grids := [grNew], teams := [], groups := [] }, 0, 0, pNew, ⟨grNew, 0, false⟩, x0, rfl, rfl, rfl, rfl, by decide, rfl,
      by decide, by decide, by decide⟩,
    ⟨{ s2 with grids := [gr0, grHigh], teams := [t0, tHigh] }, t0, rfl, rfl, rfl, rfl, t0, by decide, rfl⟩,
    fun b h => by
    simp only [List.mem_cons, List.not_mem_nil, or_false] at h
    rcases h with h | h <;> subst h
    · exact ⟨sTeam (gRest false) { t0 with stop := true }, { t0 with stop := true }, rfl, rfl, rfl, rfl, rfl⟩
    · exact ⟨sTeam (gRest true) { t0 with stop := true }, { t0 with stop := true }, rfl, rfl, rfl, rfl, rfl⟩,
    ⟨{ s2 with teams := [tSaved], groups := [{ gRest false with slots := [], active := false }] }, tSaved, gr0, p0, 0, rfl, rfl, rfl, rfl, by decide,
      by decide, by decide, by decide⟩⟩

/-- A record of group 0, found at the issue of its word, or covering an operation. -/
def fault0 (code : Nat) (ops : List Nat) : FaultRec := ⟨code, 1, some gid0, 0, 0, 3, ⟨0x10000, 1, 0, 0, false, 0⟩, 0, 1, 0x20000, 0, ops, 0, 0⟩
def gFault (l : List FaultRec) (nacked : Bool) : Group :=
  { g2 with held := l, records := 1, nacked := nacked, cohorts := [{ c0 with stopped := true }] }
def nacks (code : Nat) : MemOp :=
  { opL with parts := [⟨0, 0, 4, .glob 0x20000, 0, 0, 0, .nack code 1 5, false, false⟩] }
def sFault (g : Group) (c : Context) (l : List MemOp) : State := { stOf g with ctxs := [c], ops := l }
/-- A fault queue of 4,096 unserviced entries. -/
def xFull : Context := { x0 with fq := [⟨0, fault0 codeTRAP [], [], false⟩], fqNext := 4096 }
theorem witness_FaultRecords :
    (∀ b ∈ [true, false], ∃ (s : State) (g : Group) (c : Context) (f : FaultRec) (rest : List FaultRec), s.group? g.id = some g ∧
      s.ctx? g.asid = some c ∧ g.held = f :: rest ∧ c.spill = [] ∧ s.replayList f = [] ∧ s.earlierOpen g.id f.tick = false ∧ (b = true → c.fqUsed < 4096) ∧
      (b = false → 4096 ≤ c.fqUsed) ∧ g.nacked = false ∧ s.groups.filter (fun x => x.asid == g.asid) = [g]) ∧
    (∃ (s : State) (g : Group) (c : Context) (o : MemOp) (p : Part) (code det at_ va : Nat) (sg acq : Bool), s.group? g.id = some g ∧
      s.ctx? g.asid = some c ∧ g.held = [] ∧ g.nacked = true ∧ c.spill = [] ∧ c.fqUsed < 4096 ∧ s.ops = [o] ∧ o.gid = g.id ∧
      o.kind = .load sg acq ∧ o.parts = [p] ∧ p.st = .nack code det at_ ∧ p.noted = false ∧ p.loc = .glob va ∧ code ≠ codeUE ∧ code ≠ 0x0F) ∧
    ∀ b ∈ [true, false], ∃ (s : State) (c : Context) (f : FaultRec) (rest : List FaultRec), s.ctx? c.asid = some c ∧ c.spill = f :: rest ∧
      (b = true → c.fqUsed < 4096) ∧ (b = false → 4096 ≤ c.fqUsed) := by
  refine ⟨fun b h => ?_, ⟨sFault (gFault [] true) x0 [nacks codePROT], gFault [] true, x0, nacks codePROT, _, codePROT, 1, 5, 0x20000, false, false, rfl,
    rfl, rfl, rfl, rfl, by decide, rfl, rfl, rfl, rfl, rfl, rfl, rfl, by decide⟩, fun b h => ?_⟩ <;>
    simp only [List.mem_cons, List.not_mem_nil, or_false] at h
  · rcases h with h | h <;> subst h
    · exact ⟨sFault (gFault [fault0 codeTRAP []] false) x0 [], gFault [fault0 codeTRAP []] false, x0, _, [], rfl, rfl, rfl, rfl, rfl, rfl, by decide⟩
    · exact ⟨sFault (gFault [fault0 codeTRAP []] false) xFull [], gFault [fault0 codeTRAP []] false, xFull, _, [], rfl, rfl, rfl, rfl, rfl, rfl, by decide⟩
  · rcases h with h | h <;> subst h
    · exact ⟨sFault g2 { x0 with spill := [fault0 codeTRAP []] } [], { x0 with spill := [fault0 codeTRAP []] }, _, [], rfl, rfl, by decide⟩
    · exact ⟨sFault g2 { xFull with spill := [fault0 codeTRAP []] } [], { xFull with spill := [fault0 codeTRAP []] }, _, [], rfl, rfl, by decide⟩

/-- A context whose queue holds a record at index 0, its creator's action for the code being `a`. -/
def xQ (f : FaultRec) (a : Action) : Context := { x0 with fq := [⟨0, f, [], false⟩], fqNext := 1, actions := [(f.code, a)], free := 64 }
def sQ (f : FaultRec) (a : Action) (gr : Grid) (l : List MemOp) : State :=
  { stOf (gFault [] false) with ctxs := [xQ f a], ops := l, grids := [gr] }
/-- A grid with a trap entry, one that relaunches, and one that has done so three times. -/
def grTrap : Grid := { gr0 with q := { placedWords with q6 := 0x30000 } }
def grAgain (n : Nat) : Grid := { gr0 with q := { placedWords with q0 := 0x200000000010000 }, kept := [⟨0, n, [], [], []⟩] }
theorem witness_ServiceOfFaults :
    (∀ a ∈ [Action.resume, .resumeAt], ∀ code ∈ [codeTRAP, codePROT], ∃ (s : State) (asid rec : Nat) (c : Context) (f : FaultRec) (id : GroupId)
      (g : Group) (x : Cohort), s.service? asid rec = some (c, f, a) ∧ f.gid = some id ∧ f.code ≠ codeENGINE ∧ s.group? id = some g ∧
      g.cohort? f.cid = some x ∧ s.sameTeam f = true ∧ f.ops = [] ∧ f.code = code) ∧
    (∃ (s : State) (asid rec : Nat) (c : Context) (f : FaultRec) (id : GroupId) (g : Group) (x : Cohort), s.service? asid rec = some (c, f, .resume) ∧
      f.gid = some id ∧ f.code ≠ codeENGINE ∧ s.group? id = some g ∧ g.cohort? f.cid = some x ∧ s.sameTeam f = false ∧ f.ops = []) ∧
    (∃ (s : State) (asid rec : Nat) (c : Context) (f : FaultRec) (id : GroupId) (t : Team) (gr : Grid), s.service? asid rec = some (c, f, .killTeam) ∧
      f.gid = some id ∧ s.team? id.team = some t ∧ s.grid? id.team.grid = some gr ∧ s.sameTeam f = false ∧ f.ops.all (fun x => (s.op? x).isNone) = true) ∧
    (∃ (s : State) (asid rec : Nat) (c : Context) (f : FaultRec) (id : GroupId) (g : Group) (x : Cohort) (o : MemOp),
      s.service? asid rec = some (c, f, .resume) ∧ f.gid = some id ∧ f.code ≠ codeENGINE ∧ s.group? id = some g ∧ g.cohort? f.cid = some x ∧
      s.sameTeam f = true ∧ f.ops = [o.id] ∧ s.op? o.id = some o ∧ f.code ≠ codeUE ∧ f.code ≠ codeTRAP ∧ f.code ≠ codeBRK) ∧
    (∀ b ∈ [true, false], ∃ (s : State) (asid rec : Nat) (c : Context) (f : FaultRec) (id : GroupId) (t : Team) (gr : Grid),
      s.service? asid rec = some (c, f, .killTeam) ∧ f.gid = some id ∧ s.team? id.team = some t ∧ s.grid? id.team.grid = some gr ∧
      s.sameTeam f = true ∧ s.endable id.team = b) ∧
    ∀ b ∈ [true, false], ∃ (s : State) (asid rec : Nat) (c : Context) (f : FaultRec) (id : GroupId) (t : Team) (gr : Grid),
      s.service? asid rec = some (c, f, .relaunchTeam) ∧ f.gid = some id ∧ s.team? id.team = some t ∧ s.grid? id.team.grid = some gr ∧
      s.sameTeam f = true ∧
      (b = true → gr.failed = none ∧ (gr.keptOf id.team.team).relaunches < 3 ∧ s.endable id.team = true) ∧
      (b = false → 3 ≤ (gr.keptOf id.team.team).relaunches) := by
  refine ⟨fun a ha code hc => ?_,
    ⟨sQ { fault0 codePROT [] with ident := 1 } .resume gr0 [], 1, 0, _, _, gid0, _, _, rfl, rfl, by decide, rfl, rfl, rfl, rfl⟩,
    ⟨sQ { fault0 codePROT [8] with ident := 1 } .killTeam gr0 [], 1, 0, _, _, gid0, t0, gr0, rfl, rfl, rfl, rfl, rfl, rfl⟩,
    ⟨sQ (fault0 codePROT [7]) .resume gr0 [nacks codePROT], 1, 0, _, _, gid0, _, _, nacks codePROT, rfl, rfl, by decide,
      rfl, rfl, rfl, rfl, rfl, by decide⟩, fun b h => ?_, fun b h => ?_⟩
  · simp only [List.mem_cons, List.not_mem_nil, or_false] at ha hc
    rcases ha with ha | ha <;> rcases hc with hc | hc <;> subst ha <;> subst hc
    · exact ⟨sQ (fault0 codeTRAP []) .resume grTrap [], 1, 0, _, _, gid0, _, _, rfl, rfl, by decide, rfl, rfl, rfl, rfl, rfl⟩
    · exact ⟨sQ (fault0 codePROT []) .resume grTrap [], 1, 0, _, _, gid0, _, _, rfl, rfl, by decide, rfl, rfl, rfl, rfl, rfl⟩
    · exact ⟨sQ (fault0 codeTRAP []) .resumeAt grTrap [], 1, 0, _, _, gid0, _, _, rfl, rfl, by decide, rfl, rfl, rfl, rfl, rfl⟩
    · exact ⟨sQ (fault0 codePROT []) .resumeAt grTrap [], 1, 0, _, _, gid0, _, _, rfl, rfl, by decide, rfl, rfl, rfl, rfl, rfl⟩
  all_goals simp only [List.mem_cons, List.not_mem_nil, or_false] at h
  · rcases h with h | h <;> subst h
    · exact ⟨sQ (fault0 codePROT []) .killTeam gr0 [], 1, 0, _, _, gid0, t0, gr0, rfl, rfl, rfl, rfl, rfl, rfl⟩
    · exact ⟨sQ (fault0 codePROT []) .killTeam gr0 [op2 .store .waiting], 1, 0, _, _, gid0, t0, gr0, rfl, rfl, rfl, rfl, rfl, rfl⟩
  · rcases h with h | h <;> subst h
    · exact ⟨sQ (fault0 codePROT []) .relaunchTeam (grAgain 2) [], 1, 0, _, _, gid0, t0, grAgain 2, rfl, rfl, rfl, rfl, rfl, by decide⟩
    · exact ⟨sQ (fault0 codePROT []) .relaunchTeam (grAgain 3) [], 1, 0, _, _, gid0, t0, grAgain 3, rfl, rfl, rfl, rfl, rfl, by decide⟩

/-- A backing region at 0x2_0000_0000 with its source at 0x4000_0000, and a fetch that failed in it. -/
def backing0 : BackingRegion := ⟨0x200000000, 0x20000, 0x38, 0x40000000⟩
def fBack : FaultRec := { fault0 codeXLATE [] with va := 0x200010004 }
def xBack : Context := { xQ fBack .recover with backing := [backing0], free := 2000 }
/-- A context that waits since 0 for its CAPACITY record. -/
def xWait : Context := { xQ (fault0 codeCAPACITY [7]) .recover with free := 0, waitSince := [(recKey 1 0, 0)] }
def nackCap : MemOp := { nacks codeCAPACITY with kind := .store, dest := .none }
theorem total_le (l : List Nat) (f : Nat → Nat) (h : ∀ n, f n ≤ 8) : total l f ≤ 8 * l.length := by
  suffices k : ∀ a, (l.map f).foldl (· + ·) a ≤ a + 8 * l.length by simpa [total] using k 0
  induction l with
  | nil => simp
  | cons x l ih => intro a; have := ih (a + f x); have := h x; simp only [List.map_cons, List.foldl_cons, List.length_cons]; omega
theorem witness_Recoveries :
    (∃ (s s1 : State) (asid rec : Nat) (c c' : Context) (f : FaultRec) (id : GroupId) (r : BackingRegion), Memory.wf s.mem = true ∧
      s.service? asid rec = some (c, f, .recover) ∧ s.sameTeam f = true ∧ s.begun f = false ∧ s.inBacking asid f = true ∧ f.ops = [] ∧ f.gid = some id ∧
      let t := s.canon asid f.va
      let page := t.2.1 / 65536 * 65536
      s.ctx? t.1 = some c' ∧ c'.backed t.2.1 = some r ∧ c'.page? page = none ∧
      s.mapPage t.1 page ((r.rights &&& 0x38) ||| 1) = some s1 ∧ s.backingSize (r.src + (page - r.va)) ≤ c'.free ∧ t.2.1 < 2 ^ 56 ∧
      ∃ g ∈ (s.group? id).toList, g.cohort? f.cid ≠ none ∧ g.records = 1 ∧ g.nacked = false) ∧
    (∃ (s : State) (asid rec : Nat) (c : Context) (f : FaultRec) (id : GroupId) (o : MemOp), s.service? asid rec = some (c, f, .recover) ∧
      s.sameTeam f = true ∧ s.begun f = false ∧ f.code = codeCAPACITY ∧ f.gid = some id ∧ f.ops = [o.id] ∧ s.op? o.id = some o ∧ s.needOf f ≤ c.free) ∧
    (∀ b ∈ [true, false], ∃ (s : State) (asid rec : Nat) (c : Context) (f : FaultRec) (id : GroupId) (o : MemOp) (t0' : Nat) (t : Team),
      s.service? asid rec = some (c, f, .recover) ∧ s.sameTeam f = true ∧ s.begun f = false ∧ f.code = codeCAPACITY ∧ f.gid = some id ∧ f.ops = [o.id] ∧
      s.op? o.id = some o ∧ assoc (recKey asid rec) c.waitSince = some t0' ∧ c.free + s.freePool c.part < s.needOf f ∧
      s.team? id.team = some t ∧ s.endable id.team = true ∧ (b = true → t0' + 10000000 ≤ s.time) ∧ (b = false → s.time < t0' + 10000000)) ∧
    ∀ b ∈ [true, false], ∃ (s : State) (c : Context), s.ctx? c.asid = some c ∧ (b = true → c.watermark ≤ c.free) ∧
      (b = false → c.ending = false ∧ c.free < c.watermark ∧ 2 * c.watermark - c.free ≤ s.freePool c.part) := by
  refine ⟨⟨{ sQ fBack .recover gr0 [] with ctxs := [xBack] }, _, 1, 0, xBack, xBack, fBack, gid0, backing0, rfl, rfl, rfl, rfl, by decide, rfl, rfl, rfl,
      rfl, rfl, rfl, ?_, by decide, by decide⟩,
    ⟨sQ (fault0 codeCAPACITY [7]) .recover gr0 [nackCap], 1, 0, _, _, gid0, nackCap, rfl, rfl, rfl, rfl, rfl, rfl, rfl, by decide⟩,
    fun b h => ?_, fun b h => ?_⟩
  · exact (total_le _ _ fun _ => codeSize_le _).trans (by rw [List.length_range]; decide)
  all_goals simp only [List.mem_cons, List.not_mem_nil, or_false] at h
  · rcases h with h | h <;> subst h
    · exact ⟨{ sQ (fault0 codeCAPACITY [7]) .recover gr0 [nackCap] with ctxs := [xWait], parts := [{ p0 with pool := 0 }], time := 10000000 }, 1, 0, _, _, gid0,
        nackCap, 0, t0, rfl, rfl, rfl, rfl, rfl, rfl, rfl, rfl, by decide, rfl, by decide, by decide, by decide⟩
    · exact ⟨{ sQ (fault0 codeCAPACITY [7]) .recover gr0 [nackCap] with ctxs := [xWait], parts := [{ p0 with pool := 0 }], time := 9999999 }, 1, 0, _, _, gid0,
        nackCap, 0, t0, rfl, rfl, rfl, rfl, rfl, rfl, rfl, rfl, by decide, rfl, by decide, by decide, by decide⟩
  · rcases h with h | h <;> subst h
    · exact ⟨s2, x0, rfl, by decide, by decide⟩
    · exact ⟨{ s2 with ctxs := [{ x0 with free := 3, watermark := 4 }] }, { x0 with free := 3, watermark := 4 }, rfl, by decide, by decide⟩

/-! ## Hypotheses that can be met: host, boot, environment, the whole machine -/

def img0 : BootImage := ⟨0, 0, [], true, true, true, [], true, true, [⟨[], true⟩], [⟨0, 8, 256, List.range 16⟩]⟩
def sStage (stage boot : Nat) : State := { State.reset with stage := stage, bootStep := boot, flash := ⟨some [], [], []⟩ }
theorem witness_DeviceStarts :
    (∀ b ∈ [true, false], ∃ (s : State) (img : BootImage), s.stage = 3 ∧ s.bootStep = 2 ∧ img.flashUnsealed = true ∧ BootOk img s.flash.owner = b) ∧
    (∃ s : State, s.stage = 3 ∧ s.bootStep = 0) ∧ (∃ (s : State) (vf : Nat), vf < 8 ∧ vf ∉ s.locked) ∧
    (∀ n ∈ [0, 1, 2, 3, 4], ∃ s : State, s.stage = n ∧ s.bootTime ≤ s.time ∧ (s.vault 127).degraded = false) ∧
    (∃ deg : Int, -20 ≤ deg ∧ ¬-10 ≤ deg) ∧ ∃ deg : Int, deg < -20 :=
  ⟨fun b h => by
    simp only [List.mem_cons, List.not_mem_nil, or_false] at h
    rcases h with h | h <;> subst h
    · exact ⟨sStage 3 2, img0, rfl, rfl, rfl, by decide⟩
    · exact ⟨sStage 3 2, { img0 with vendorSigned := false }, rfl, rfl, rfl, by decide⟩,
    ⟨sStage 3 0, rfl, rfl⟩, ⟨State.reset, 7, by decide⟩, fun n _ => ⟨sStage n 1, rfl, Nat.le_refl _, rfl⟩, ⟨-20, by decide⟩, ⟨-21, by decide⟩⟩

def sTiles (x : TileState) (t : Nat) : State := { State.reset with tiles := [x], time := t }
def errs (k : Nat) : Vault := { Vault.reset with banks := [{ DBank.reset 0 with errs := [(0, k)] }] }
def sErrs (k : Nat) : State := { State.reset with parts := [p0], vaults := [(0, errs k)] }
theorem witness_ClocksAndDegradedHardware :
    (∃ (s : State) (x : TileState), s.tiles[0]? = some x ∧ s.time < x.lastStep + 1000) ∧
    (∀ up ∈ [true, false], ∃ (s : State) (x : TileState), s.tiles[0]? = some x ∧ x.lastStep + 1000 ≤ s.time ∧
      800 ≤ (if up = true then x.mhz + 25 else x.mhz - 25) ∧ (up = true → x.mhz + 25 ≤ s.clockCap ∧ s.above30 = false)) ∧
    (∃ (s : State) (x : TileState), s.tiles[0]? = some x ∧ x.lastStep + 1000 ≤ s.time ∧ s.above30 = true ∧ 800 ≤ x.mhz - 25 ∧
      x.mhz + 25 ≤ s.clockCap) ∧
    (∃ (s : State) (x : TileState), s.tiles[0]? = some x ∧ 800 < x.mhz) ∧
    (∃ (s : State) (x : TileState), s.tiles[0]? = some x ∧ x.mhz ≤ 800 ∧ x.closed = false) ∧ (∃ deg : Int, 30 < deg ∧ deg ≤ 45) ∧ (∃ deg : Int, 45 < deg ∧ deg ≤ 55) ∧
    (∃ n b k : Nat, n < 128 ∧ b < 192 ∧ 0 < k) ∧
    (∀ k ∈ [16, 17], ∃ (s : State) (n b i : Nat) (p : Partition), s.partOfVault n = some (i, p) ∧ s.part? i = some p ∧ b < 192 ∧
      ((s.vault n).dbank b).strong = false ∧ s.ctxs = [] ∧ (s.vault n).runs = [] ∧ (s.vault n).rows = [] ∧
      ((s.vault n).dbank b).recent s.time = k) ∧
    (∃ (s : State) (n : Nat) (p : Port), s.ports[n]? = some p ∧ p.toSend = [] ∧ p.fails < 3) ∧
    ∃ (s : State) (n : Nat) (p : Port), s.ports[n]? = some p ∧ 3 ≤ p.fails ∧ p.enabled = true :=
  ⟨⟨sTiles ⟨800, 0, false, [], 5⟩ 1004, _, rfl, by decide⟩,
    fun up h => by
    simp only [List.mem_cons, List.not_mem_nil, or_false] at h
    rcases h with h | h <;> subst h
    · exact ⟨sTiles ⟨1175, 0, false, [], 5⟩ 1005, _, rfl, by decide, by decide, by decide⟩
    · exact ⟨sTiles ⟨825, 0, false, [], 5⟩ 1005, _, rfl, by decide, by decide, by decide⟩,
    ⟨{ sTiles ⟨825, 0, false, [], 5⟩ 1005 with above30 := true }, _, rfl, by decide, rfl, by decide, by decide⟩,
    ⟨sTiles ⟨801, 0, false, [], 5⟩ 0, _, rfl, by decide⟩, ⟨sTiles ⟨800, 0, false, [], 5⟩ 0, _, rfl, by decide, rfl⟩, ⟨45, by decide⟩, ⟨55, by decide⟩,
    ⟨127, 191, 1, by decide⟩,
    fun k h => by
    simp only [List.mem_cons, List.not_mem_nil, or_false] at h
    rcases h with h | h <;> subst h
    · exact ⟨sErrs 16, 0, 0, 0, p0, rfl, rfl, by decide, rfl, rfl, rfl, rfl, by decide⟩
    · exact ⟨sErrs 17, 0, 0, 0, p0, rfl, rfl, by decide, rfl, rfl, rfl, rfl, by decide⟩,
    ⟨State.reset, 0, Port.reset, rfl, rfl, by decide⟩, ⟨{ State.reset with ports := [{ Port.reset with fails := 3 }] }, 0, _, rfl, by decide, rfl⟩⟩

def req0 : ContextRequest := ⟨2, 0, 100, 0, [], none, [], []⟩
def sHost (locked : List Nat) (spdm : Bool) : State :=
  { s2 with stage := 4, locked := locked, spdm := spdm, keys := [⟨some 1, 5⟩, ⟨none, 0⟩], ctxs := [{ x0 with key := some 0 }] }
def aliasOf : Synonym := ⟨1, 0x50000, 0x10000, 1, 0x60000⟩
theorem witness_ContextsAndHostTables :
    (∀ b ∈ [true, false], ∃ (s : State) (r : ContextRequest), s.requestOk r = b) ∧
    (∃ (s : State) (r : ContextRequest), s.spdm = false ∨ r.part ∉ s.locked ∨ ∀ k ∈ s.keys, k.owner ≠ none) ∧
    (∃ (s : State) (r : ContextRequest) (n : Nat), s.requestOk r = true ∧ s.spdm = true ∧ r.part ∈ s.locked ∧
      s.keys.findIdx? (fun k => k.owner.isNone) = some n) ∧
    (∃ (s : State) (c : Context) (n : Nat), Memory.wf s.mem = true ∧ s.ctx? c.asid = some c ∧ c.key = some n ∧ c.ending = false) ∧
    (∃ (s : State) (c : Context), s.ctx? c.asid = some c ∧ c.key = none ∧ ∀ p, s.part? c.part = some p → p.scrub ≠ []) ∧
    (∀ b ∈ [true, false], ∃ (s : State) (n v x : Nat) (p : Partition) (rest : List (Nat × Nat)), s.part? n = some p ∧ p.scrub = (v, x) :: rest ∧
      rest.isEmpty = b) ∧
    (∃ (s s1 : State) (asid va : Nat) (d : W64) (c : Context) (off : Nat) (b : Byte) (level : Nat), s.mapPage asid va d = some s1 ∧
      s.ctx? asid = some c ∧ kindLevel (descKind d) = some level ∧ c.ending = false ∧ c.loadStopped = false ∧ Memory.wf s.mem = true ∧ d.getLsbD 7 = false ∧
      off < 65536 ∧ s1.growth asid (va + off / 512 * 512) 512 (b.toNat * 256 ^ (off % 512)) ≤ s1.freePool (s.partOf asid) ∧
      ∃ (prio : Nat) (q : LaunchWords), prio < 4 ∧ s1.growth asid va 512 (recordNumber (recordLoaded q)) ≤ s1.freePool (s.partOf asid)) ∧
    (∀ b ∈ [true, false], ∃ (s : State) (asid va : Nat) (d : W64) (c : Context), s.mapPage asid va d = none ∧ s.ctx? asid = some c ∧
      c.loadStopped = b) ∧
    (∃ (s : State) (asid level pre : Nat) (c : Context), s.ctx? asid = some c ∧ level < 4 ∧ pre * 2 ^ levelShift level < 2 ^ 56 ∧
      c.ending = false ∧ descV (c.desc level (pre * 2 ^ levelShift level)) = true ∧ ∃ t ∈ s.teams, t.asid = asid ∧ t.st = .running) ∧
    (∃ (s : State) (n : Nat) (p : Partition) (y : Synonym) (a b : Context), s.part? n = some p ∧ p.synonyms.length < 64 ∧
      y.va % 65536 = 0 ∧ y.len % 65536 = 0 ∧ y.canonVa % 65536 = 0 ∧ y.va + y.len ≤ 2 ^ 56 ∧ y.canonVa + y.len ≤ 2 ^ 56 ∧
      s.ctx? y.asid = some a ∧ s.ctx? y.canonAsid = some b ∧ a.part = n ∧ b.part = n) ∧
    ∃ (s : State) (n i : Nat) (p : Partition) (x : RankSet), s.part? n = some p ∧ i < 256 ∧ 1 ≤ x.ranks ∧ x.ranks ≤ 4096 ∧
      x.own < x.ranks ∧ (∀ a ∈ x.ports, a.1 < x.ranks ∧ a.1 ≠ x.own ∧ a.2 ∈ p.ports) ∧
      (∀ r < x.ranks, r ≠ x.own → ∃ a ∈ x.ports, a.1 = r) ∧
      (∀ e ∈ s.engs, e.part = n → e.kind.tender = true ∨ e.rset ≠ i) ∧ s.parts.length = 1 :=
  ⟨fun b h => by
    simp only [List.mem_cons, List.not_mem_nil, or_false] at h
    rcases h with h | h <;> subst h
    · exact ⟨sHost [] false, req0, by decide⟩
    · exact ⟨s2, req0, by decide⟩,
    ⟨sHost [] false, req0, .inl rfl⟩, ⟨sHost [0] true, req0, 1, by decide⟩, ⟨sHost [] false, { x0 with key := some 0 }, 0, rfl, rfl, rfl, rfl⟩,
    ⟨{ s2 with parts := [{ p0 with scrub := [(0, 5)] }] }, x0, rfl, rfl, fun p h => by cases h; decide⟩,
    fun b h => by
      simp only [List.mem_cons, List.not_mem_nil, or_false] at h
      rcases h with h | h <;> subst h
      · exact ⟨{ s2 with parts := [{ p0 with scrub := [(0, 5)] }] }, 0, 0, 5, _, [], rfl, rfl, rfl⟩
      · exact ⟨{ s2 with parts := [{ p0 with scrub := [(0, 5), (0, 6)] }] }, 0, 0, 5, _, [(0, 6)], rfl, rfl, rfl⟩,
    ⟨s2, _, 1, 0x200010000, 0x39, x0, 65535, 7, 3, rfl, rfl, rfl, rfl, rfl, rfl, rfl, by decide, (Nat.sub_le _ _).trans ((codeSize_le _).trans (by decide)),
      3, placedWords, by decide, (Nat.sub_le _ _).trans ((codeSize_le _).trans (by decide))⟩,
    fun b h => by
      simp only [List.mem_cons, List.not_mem_nil, or_false] at h
      rcases h with h | h <;> subst h
      · exact ⟨{ s2 with ctxs := [{ x0 with loadStopped := true }] }, 1, 0, 0x39, { x0 with loadStopped := true }, by decide, rfl, rfl⟩
      · exact ⟨s2, 1, 0, 0x39, x0, by decide, rfl, rfl⟩,
    ⟨s2, 1, 1, 0, x0, rfl, by decide, by decide, rfl, by decide, t0, .head _, rfl, rfl⟩,
    ⟨s2, 0, p0, aliasOf, x0, x0, rfl, by decide⟩, ⟨s2, 0, 255, p0, ⟨2, 0, [(1, 15)]⟩, rfl, by decide, by decide, by decide, by decide, by decide,
      fun r h k => ⟨(1, 15), .head _, by have : r < 2 := h; have : r ≠ 0 := k; show 1 = r; omega⟩, by decide, rfl⟩⟩

theorem witness_WordsThatAreNoInstruction :
    (∃ (s : State) (v : View), s.view = some v) ∧ (∃ h : Header, 1 ≤ h.count ∧ h.count ≤ 15) ∧
    (∃ w : W32, w.toNat / 2 ^ 28 ≠ 10) ∧ (∃ w : W32, w.toNat / 2 ^ 28 = 10 ∧ w.toNat % 16 = 0) ∧
    (∃ w : W32, w.toNat / 2 ^ 28 = 10 ∧ w.toNat % 16 ≠ 0 ∧ w.toNat / 16 % 8 = 7) ∧
    (∃ w : W32, w.toNat / 2 ^ 28 = 10 ∧ w.toNat % 16 ≠ 0 ∧ w.toNat / 16 % 8 ≠ 7 ∧ w.toNat / 2 ^ 24 % 16 ≠ 0) ∧
    ∃ w : W32, w.toNat / 2 ^ 28 = 10 ∧ w.toNat % 16 ≠ 0 ∧ w.toNat / 16 % 8 ≠ 7 ∧ w.toNat / 2 ^ 24 % 16 = 0 :=
  ⟨⟨s2, v2, rfl⟩, ⟨⟨15, .k, true, 0xFFFF⟩, by decide⟩, ⟨0x12345678, by decide⟩, ⟨0xA0000000, by decide⟩, ⟨0xA0000071, by decide⟩,
    ⟨0xA1000001, by decide⟩, ⟨0xA0000001, by decide⟩⟩

theorem witness_EncodeDecode : ∃ (i : Instr) (c : Cls) (w0 w1 : W32), WellFormed i = true ∧ encode i = some (c, w0, some w1) :=
  ⟨.sLi ⟨0x45, 0, 0, 0x70, 0, 0, 0x12345678⟩, .s, 0x4F140380, 0x12345678, by decide, by decide⟩

/-- A group in a clause of 2 words and this class, its cohort at word 1 and in this progress, with these words there. -/
def cFetch (c : Cls) (p : Prog) : Cohort := { c0 with count := 2, cls := c, prog := p }
def gFetch (c : Cls) (p : Prog) : Group := { g2 with cohorts := [cFetch c p] }
def sFetch (c : Cls) (p : Prog) (w : Nat) : State :=
  { stOf (gFetch c p) with mem := cellsWrite [] (memKey 1 0x10004) 8 w, agenda := [.issue gid0 0], cur := none }
/-- The machine as the step finds it, as the fetch does, and after the fetch of the first word. -/
def sGo (c : Cls) (p : Prog) (w : Nat) : State := { sFetch c p w with agenda := [], tick := 1, cur := none }
def gMark : Group := { (gFetch .v .none).putCohort { cFetch .v .none with lastIssue := 1 } with lastIssue := 1, readySince := none }
def sMark : State := (sGo .v .none 0x000C0C10).markIssue (gFetch .v .none) (cFetch .v .none)
def sGone (s : State) (g : Group) : State := (s.fetchWord g 0 0x10004).1
theorem fetch_marked : sMark.fetchWord gMark 0 0x10004 = (sGone sMark gMark, .ok 0x000C0C10) := Prod.ext rfl (by decide +kernel)
theorem fetch_words :
    let s := sGo .m (.release 1) 0x02800040881E20C0
    let g := gFetch .m (.release 1)
    s.fetchWord g 0 0x10004 = (sGone s g, .ok 0x881E20C0) ∧
      (sGone s g).fetchWord g 0 0x10008 = (((sGone s g).fetchWord g 0 0x10008).1, .ok 0x02800040) :=
  ⟨Prod.ext rfl (by decide +kernel), Prod.ext rfl (by decide +kernel)⟩
/-- Two groups of one quadrant, ready; the second has issued less recently. -/
def gTurn (i last : Nat) : Group := { gFetch .v .none with id := ⟨gid0.team, i⟩, slots := [i], lastIssue := last }
def sTurn : State := { sGo .v .none 0x000C0C10 with groups := [gTurn 0 2, gTurn 4 1] }
theorem may_go :
    (sGo .v .none 0x000C0C10).able (gFetch .v .none) 0 = true ∧ (sGo .v .none 0x000C0C10).mayGo (gFetch .v .none) (cFetch .v .none) = true := by
  decide +kernel
theorem may_not_go : sTurn.able (gTurn 0 2) 0 = true ∧ sTurn.mayGo (gTurn 0 2) (cFetch .v .none) = false := by decide +kernel
theorem witness_StepRunsDecoded :
    (∃ (s : State) (gid : GroupId) (cid : Nat) (rest : List Move) (g : Group) (c : Cohort), s.dead = false ∧
      s.agenda = .issue gid cid :: rest ∧
      let s0 := { s with agenda := rest, tick := s.tick + 1, cur := none }
      s0.resident? gid = some g ∧ g.cohort? cid = some c ∧ s0.mayIssue g c = true ∧ c.entered = true ∧ c.prog = .none ∧
      s0.able g cid = true ∧ s0.mayGo g c = false) ∧
    (∃ (s s1 : State) (gid : GroupId) (cid : Nat) (rest : List Move) (g : Group) (c : Cohort) (w0 : W32) (i : Instr), s.dead = false ∧
      s.agenda = .issue gid cid :: rest ∧
      let s0 := { s with agenda := rest, tick := s.tick + 1, cur := none }
      s0.resident? gid = some g ∧ g.cohort? cid = some c ∧ s0.mayIssue g c = true ∧ c.entered = true ∧ c.prog = .none ∧
      s0.able g cid = true ∧ s0.mayGo g c = true ∧
      (s0.markIssue g c).fetchWord { g.putCohort { c with lastIssue := s0.tick } with lastIssue := s0.tick, readySince := none }
        c.cid (c.wordVa c.word) = (s1, .ok w0) ∧ twoWords c.cls (opOf w0) = false ∧ decode c.cls w0 none = .ok i) ∧
    (∃ (s s1 s2 : State) (gid : GroupId) (cid : Nat) (rest : List Move) (g : Group) (c : Cohort) (w0 w1 : W32) (i : Instr), s.dead = false ∧
      s.agenda = .issue gid cid :: rest ∧
      let s0 := { s with agenda := rest, tick := s.tick + 1, cur := none }
      s0.resident? gid = some g ∧ g.cohort? cid = some c ∧ s0.mayIssue g c = true ∧ c.entered = true ∧ c.prog ≠ .none ∧
      s0.fetchWord g c.cid (c.wordVa c.word) = (s1, .ok w0) ∧ twoWords c.cls (opOf w0) = true ∧ c.word + 1 ≤ c.count ∧
      s1.fetchWord g c.cid (c.wordVa (c.word + 1)) = (s2, .ok w1) ∧ decode c.cls w0 (some w1) = .ok i) ∧
    ∃ (s : State) (g : Group) (cid va : Nat), s.fetchFault g va = none ∧ s.codeHit g va = none ∧ s.fetchError g va = none ∧
      (s.reach (s.canon g.asid va).1 (s.canon g.asid va).2.1 4 false (accessId g.id cid false)).2 = true :=
  ⟨⟨{ sTurn with agenda := [.issue gid0 0], tick := 0 }, gid0, 0, [], gTurn 0 2, cFetch .v .none, rfl, rfl, rfl, rfl, by decide, rfl, rfl, may_not_go⟩,
    ⟨{ sFetch .v .none 0x000C0C10 with tick := 0 }, sGone sMark gMark, gid0, 0, [], gFetch .v .none, cFetch .v .none, 0x000C0C10,
      .vAdd ⟨3, 1, 1, 2, 0, 0⟩, rfl, rfl, rfl, rfl, by decide, rfl, rfl, may_go.1, may_go.2, fetch_marked, by decide, by decide⟩,
    ⟨{ sFetch .m (.release 1) 0x02800040881E20C0 with tick := 0 }, sGone (sGo .m (.release 1) 0x02800040881E20C0) (gFetch .m (.release 1)), _, gid0, 0, [],
      gFetch .m (.release 1), cFetch .m (.release 1), 0x881E20C0, 0x02800040, .ldB32Ml ⟨7, 0x44, 0, 3, 0, 0, 0, 1, 0, 2, 0x40⟩, rfl, rfl, rfl, rfl, by decide,
      rfl, by decide, fetch_words.1, by decide, by decide, fetch_words.2, by decide⟩,
    ⟨sFetch .v .none 0, gFetch .v .none, 0, 0x10004, by decide⟩⟩

theorem witness_ExceptionsAndRecords :
    (∃ (s : State) (v : View) (code : Nat) (x : Group), s.view = some v ∧ s.group? v.g.id = some x ∧ code ≠ codeSHADOW) ∧
    (∃ s : State, s.dead = true) ∧
    ∃ (f : FaultRec) (id : GroupId) (asid : Nat), f.gid = some id ∧ f.code < 2 ^ 8 ∧ f.detail < 2 ^ 8 ∧ id.grp < 64 ∧
      id.team.team < 2 ^ 24 ∧ asid < 2 ^ 16 ∧ id.team.grid.tok < 2 ^ 40 ∧ f.core < 128 ∧ f.org.hidx < 64 ∧ f.trk < 16 ∧
      f.org.word < 16 ∧ f.org.clause < 2 ^ 56 ∧ f.va < 2 ^ 56 ∧ f.time < 2 ^ 48 :=
  ⟨⟨s2, v2, codeTRAP, g2, rfl, rfl, by decide⟩, ⟨{ s2 with dead := true }, rfl⟩,
    ⟨fault0 codeTRAP [], gid0, 65535, rfl, by decide⟩⟩

theorem witness_FrameOfClassesSAndV :
    ∃ (i : Instr) (c : Cls) (w0 : W32) (w1 : Option W32) (s t : State) (v : View), encode i = some (c, w0, w1) ∧ (c = .s ∨ c = .v) ∧
      (∀ f, i ≠ .exit f) ∧ s.view = some v ∧ exec i s = .next t :=
  ⟨.nop ⟨0, 0, 0, 0, 0, 0⟩, .s, _, none, s2, _, v2, rfl, .inl rfl, fun _ => nofun, rfl, rfl⟩
theorem witness_OnlyTheseWriteMemory : ∃ (i : Instr) (s t : State), exec i s = .next t := ⟨.nop ⟨0, 0, 0, 0, 0, 0⟩, s2, _, rfl⟩
theorem witness_NothingStops :
    (∃ i, isEvent i = true) ∧ (∃ (i : Instr) (s : State) (v : View), isEvent i = false ∧ s.view = some v) ∧
    ∃ (i : Instr) (s : State), isEvent i = false ∧ s.view = none :=
  ⟨⟨.bootRetry, rfl⟩, ⟨.nop ⟨0, 0, 0, 0, 0, 0⟩, s2, v2, rfl, rfl⟩, ⟨.nop ⟨0, 0, 0, 0, 0, 0⟩, State.reset, rfl, rfl⟩⟩
theorem witness_StepKeepsMemory : ∃ s t : State, s.MemOk ∧ step s = .next t :=
  ⟨{ s2 with agenda := [.elapse 1] }, _, by decide, rfl⟩

/-! ## Worked encodings (06_compression R132, R133) and the refresh schedule at reset (05_memory R129, R131) -/

/-- 06_compression, sample blocks: w[i] = 0x1000 + (i mod 8) is D4, its words 0x76543210 and its side word 0x1000. -/
theorem test_run_d4 :
    let w := (List.range 128).map fun i => 0x1000 + i % 8
    packRun 2 w = (List.range 64).map (fun i => [0x10, 0x32, 0x54, 0x76].getD (i % 4) 0) ∧ sideWord 2 0 w = 0x1000 ∧
      (List.range 128).map (unpackWord 2 (packRun 2 w) 0x1000) = w := by decide +kernel
/-- w[i] = 100 + i is D8: byte i is i, the side word 100. -/
theorem test_run_d8 :
    let w := (List.range 128).map fun i => 100 + i
    packRun 3 w = List.range 128 ∧ sideWord 3 0 w = 100 ∧ sideWord 3 1 w = 0 ∧
      (List.range 128).map (unpackWord 3 (packRun 3 w) 100) = w := by decide +kernel
/-- w[1] = 0xFFFF8000, all others 0, is D16: word 0 of the run is 0x80000000. -/
theorem test_run_d16 :
    let w := (List.replicate 128 0).set 1 0xFFFF8000
    (packRun 4 w).take 4 = [0, 0, 0, 0x80] ∧ ((packRun 4 w).drop 4).all (· == 0) = true ∧ sideWord 4 0 w = 0 ∧
      unpackWord 4 (packRun 4 w) 0 1 = 0xFFFF8000 := by decide +kernel
/-- 13_scheduling R305's example: a width-16 group of 32 registers and a tile, 10 U, 4 A and 18 G: its block is 6,936 bytes. -/
theorem test_group_block :
    let r : Tag → VReg := fun t => { VReg.zero 16 with tag := t }
    let q : LaunchWords := ⟨0, 4 + 16, 0, 0, 0, 0, 0, 0⟩
    let g := { newGroup ⟨⟨⟨0, 1⟩, 0⟩, 0⟩ 0x41 0 [0] q with
      v := List.replicate 10 (r .u) ++ List.replicate 4 (r .a) ++ List.replicate 18 (r .g) }
    total g.savedParts (·.2) = 6936 := by decide +kernel
/-- VAULT.REFRESH at reset: CC 0, BANK 0, ACTIVE 0. -/
theorem test_refresh_at_reset : State.reset.refreshWord 0 = 0 := by decide +kernel

/-- AES-256 of FIPS 197's example. -/
theorem test_aes : aesBlock (aesKeys (List.range 32)) ((List.range 16).map (· * 17)) =
    [0x8E, 0xA2, 0xB7, 0xCA, 0x51, 0x67, 0x45, 0xBF, 0xEA, 0xFC, 0x49, 0x90, 0x4B, 0x49, 0x60, 0x89] := by decide +kernel
/-- The first two blocks of XTS-AES-256's vector 10 of IEEE 1619, data unit 0xFF of the bytes 0, 1, 2, … -/
theorem test_xts :
    xtsEncrypt 0x92459474098205513799931697418802952783336462842393975853265941312776966649575999699370245777496226357174286053234590452818281827#512
      0xFF (List.range 32) =
    [0x1C, 0x3B, 0x3A, 0x10, 0x2F, 0x77, 0x03, 0x86, 0xE4, 0x83, 0x6C, 0x99, 0xE3, 0x70, 0xCF, 0x9B,
      0xEA, 0x00, 0x80, 0x3F, 0x5E, 0x48, 0x23, 0x57, 0xA4, 0xAE, 0x12, 0xD4, 0x14, 0xA3, 0xE6, 0x3B] := by decide +kernel


end Sys2Proof.Tests
end

section
/-! PROOF. Class S beside the two-operand forms (08_scalar_control R182, R185, R192, R194): what an operand code of a known kind
means, how a check that fails stops an instruction, and the statements on `s.li`, `s.lih`, the mask operations, `br.far` and `nop`. -/

namespace Sys2Proof.Machine

/-! ## Operand codes that name an s or an m register (R66) -/

theorem isS_of_opd {c : Code} {r : Nat} (h : opd c = .s r) : isS c = true := by simp [isS, h]
theorem isS_eq_false {c : Code} (h : ∀ r, opd c ≠ .s r) : isS c = false := by
  unfold isS
  split
  · next r hr => exact absurd hr (h r)
  · rfl
theorem mDst_of_opd {c : Code} {r : Nat} (h : opd c = .m r) (hr : r ≠ 0) : mDst c = true := by simp [mDst, h, hr]
theorem regNo_of_opd_m {c : Code} {r : Nat} (h : opd c = .m r) : regNo c = r := by simp [regNo, h]

theorem View.isEmpty_of_opd_s (v : View) {c : Code} {r : Nat} (h : opd c = .s r) (n : Nat) :
    v.isEmpty c n = !(v.g.sreg r).full := by simp [View.isEmpty, h]
theorem View.isBad_of_opd_s (v : View) {c : Code} {r : Nat} (h : opd c = .s r) (n : Nat) :
    v.isBad c n = (v.g.sreg r).bad := by simp [View.isBad, h]
theorem View.uni_of_opd_s (v : View) {c : Code} {r : Nat} (h : opd c = .s r) : v.uni c = (v.g.sreg r).val := by
  simp [View.uni, View.r64, h]
theorem View.writeD_of_opd_s (v : View) (g : Group) {c : Code} {r : Nat} (h : opd c = .s r) (x : W64) :
    v.writeD g c x = g.setS r x := by simp [View.writeD, h]
/-- A full, undamaged s register can be read outside helper bodies. -/
theorem View.holds_of_opd_s {v : View} {c : Code} {r : Nat} (hh : v.Home) (h : opd c = .s r) (hf : (v.g.sreg r).full = true)
    (hb : (v.g.sreg r).bad = false) : v.Holds c 1 :=
  ⟨by rw [v.isEmpty_of_opd_s h, hf]; rfl, by rw [v.isBad_of_opd_s h, hb], fun hv => by rw [hh] at hv; cases hv⟩

/-! ## What stops an instruction at issue (R62, R343) -/

/-- R343 step 4: the first operand check that fails is what the instruction raises. -/
theorem stop_illegal {k : Gate} {v : View} {d : Nat} (h : firstFail k.chk = some d) :
    k.stop v = some (.fault codeOPERAND d 0) := by simp only [Gate.stop, h]

/-- R62: a destination that awaits its value holds an instruction whose operands are legal and do not trap when empty. -/
theorem stop_awaiting {k : Gate} {v : View} (hl : ∀ p ∈ k.chk, p.1 = true) (ht : ∀ a ∈ k.src, a.trap = false)
    {d : Code × Nat} (hd : d ∈ k.dst) (he : v.isEmpty d.1 d.2 = true) : k.stop v = some .wait := by
  have htrap : (k.src.find? fun a => a.trap && v.isEmpty a.code a.n) = none := by
    simp only [List.find?_eq_none]; intro a ha; simp [ht a ha]
  have hdst : (k.dst.any fun d => v.isEmpty d.1 d.2) = true := List.any_eq_true.2 ⟨d, hd, he⟩
  simp only [Gate.stop, firstFail_none hl, htrap, hdst, Bool.or_true, if_true]

/-- R343 step 6: an instruction without register operands raises the first check of a value that fails. -/
theorem stop_value {k : Gate} {v : View} {d : Nat} (hc : k.chk = []) (hs : k.src = []) (hd : k.dst = []) (hm : k.masks = [])
    (h : firstFail k.vals = some d) : k.stop v = some (.fault codeOPERAND d 0) := by
  have hn : firstFail [] = none := rfl
  simp [Gate.stop, hc, hs, hd, hm, h, hn]

/-- An instruction whose operand check fails raises OPERAND, its DETAIL the field's. -/
theorem raises_local {i : Instr} {n d : Nat} {k : View → Gate} {go : View → Group} {s : State} {v : View}
    (hi : exec i s = runLocal n k go s) (hv : s.view = some v) (h : firstFail (k v).chk = some d) :
    exec i s = .next (s.raiseAt v codeOPERAND d 0 0) := by
  rw [hi, runLocal_stops hv (stop_illegal h)]; rfl

/-- R62: an instruction whose destination awaits a value leaves the machine as it is. -/
theorem waits_local {i : Instr} {n : Nat} {k : View → Gate} {go : View → Group} {s : State} {v : View}
    (hi : exec i s = runLocal n k go s) (hv : s.view = some v) (hl : ∀ p ∈ (k v).chk, p.1 = true)
    (ht : ∀ a ∈ (k v).src, a.trap = false) {d : Code × Nat} (hd : d ∈ (k v).dst) (he : v.isEmpty d.1 d.2 = true) :
    exec i s = .next s := by
  rw [hi, runLocal_stops hv (stop_awaiting hl ht hd he)]; rfl

/-! ## Fields of the words (R73, R347) -/

theorem zeroOk_of_wellFormed {i : Instr} (h : WellFormed i = true) : i.zeroOk = true := by
  simp only [WellFormed, Bool.and_eq_true] at h; exact h.1.1

/-- R182: the fields that `s.li` and `s.lih` do not use, and B. -/
theorem fixedFields_of_wellFormed {i : Instr} {f : AL} (h : WellFormed i = true)
    (hz : i.zeroOk = (f.p == 0 && alFixed f && f.a == 0 && f.ea == 0)) :
    f.a = 0 ∧ f.ea = 0 ∧ f.p = 0 ∧ f.b = 0x70 ∧ f.eb = 0 := by
  have hf := hz.symm.trans (zeroOk_of_wellFormed h)
  simp only [alFixed, Bool.and_eq_true, beq_iff_eq] at hf
  tauto

/-! ## `s.li` and `s.lih` (R182) -/

/-- A word above the low half of another, as a number. -/
theorem append_low32 (x : W32) (y : W64) :
    x ++ y.setWidth 32 = BitVec.ofNat 64 (x.toNat * 2 ^ 32 + y.toNat % 2 ^ 32) := by
  apply BitVec.eq_of_toNat_eq
  have hx := x.isLt
  rw [BitVec.toNat_append, BitVec.toNat_setWidth, Nat.shiftLeft_eq, BitVec.toNat_ofNat, Nat.mul_comm,
    ← Nat.two_pow_add_eq_or_of_lt (Nat.mod_lt _ (by decide))]
  omega

theorem exec_sLi (f : AL) (s : State) :
    exec (.sLi f) s = runLocal 2 (gateLi f) (fun v => v.writeD v.g f.d (f.imm.signExtend 64)) s := rfl
theorem exec_sLih (f : AL) (s : State) :
    exec (.sLih f) s = runLocal 2 (gateLih f) (fun v => v.writeD v.g f.d (f.imm ++ (v.uni f.d).setWidth 32)) s := rfl

section
variable {f : AL} {s : State} {v : View} {r : Nat}

theorem does_sLi (hv : s.view = some v) (hs : v.Steady) (hh : v.Home) (hd : opd f.d = .s r)
    (hf : (v.g.sreg r).full = true) : Does s v (.sLi f) 2 (v.g.setS r (BitVec.ofInt 64 f.imm.toInt)) :=
  have he : v.isEmpty f.d 1 = false := by rw [v.isEmpty_of_opd_s hd, hf]; rfl
  does_local (exec_sLi f s) hv (opens_gateLi hs hh (isS_of_opd hd) he) (v.writeD_of_opd_s v.g hd _)

theorem does_sLih (hv : s.view = some v) (hs : v.Steady) (hh : v.Home) (hd : opd f.d = .s r)
    (hf : (v.g.sreg r).full = true) (hb : (v.g.sreg r).bad = false) : Does s v (.sLih f) 2
      (v.g.setS r (BitVec.ofNat 64 (f.imm.toNat * 2 ^ 32 + (v.g.sreg r).val.toNat % 2 ^ 32))) :=
  does_local (exec_sLih f s) hv (opens_gateLih hs hh (isS_of_opd hd) (View.holds_of_opd_s hh hd hf hb))
    (by rw [v.writeD_of_opd_s v.g hd, v.uni_of_opd_s hd, append_low32])

theorem sLi_waits (hv : s.view = some v) (hd : opd f.d = .s r) (he : (v.g.sreg r).full = false) :
    exec (.sLi f) s = .next s :=
  waits_local (exec_sLi f s) hv (by simp [gateLi, isS_of_opd hd]) (by simp [gateLi]) (d := (f.d, 1)) (by simp [gateLi])
    (by simp [v.isEmpty_of_opd_s hd, he])

theorem sLih_waits (hv : s.view = some v) (hd : opd f.d = .s r) (he : (v.g.sreg r).full = false) :
    exec (.sLih f) s = .next s :=
  waits_local (exec_sLih f s) hv (by simp [gateLih, isS_of_opd hd]) (by simp [gateLih, arg]) (d := (f.d, 1))
    (by simp [gateLih]) (by simp [v.isEmpty_of_opd_s hd, he])

end

/-- Settles O3: each case is one lemma on the gate of `s.li` or `s.lih`. -/
theorem scalarLoadImmediates : Obligations.ScalarLoadImmediates := by
  refine ⟨fun f hw => ?_, fun f hw => ?_, fun f s v r hv hs hh => ⟨fun hd hf => ?_, fun hd he => ?_, fun hd => ?_⟩⟩
  · obtain ⟨ha, hea, hp, hb, heb⟩ := fixedFields_of_wellFormed hw rfl
    exact ⟨ha, hea, hp, hb, heb, rfl⟩
  · obtain ⟨ha, hea, hp, hb, heb⟩ := fixedFields_of_wellFormed hw rfl
    exact ⟨ha, hea, hp, hb, heb, rfl⟩
  · exact ⟨does_sLi hv hs hh hd hf, does_sLih hv hs hh hd hf⟩
  · exact ⟨sLi_waits hv hd he, sLih_waits hv hd he⟩
  · have hc : firstFail [(isS f.d, 1)] = some 1 := by rw [isS_eq_false hd]; rfl
    exact ⟨raises_local (exec_sLi f s) hv hc, raises_local (exec_sLih f s) hv hc⟩

/-! ## Mask operations (R192, R53) -/

/-- R53: a mask keeps its bits below width and no others. -/
theorem getLsbD_and_allLanes (x : Lanes) (w : Nat) {k : Nat} (hk : k < 64) :
    (x &&& allLanes w).getLsbD k = (decide (k < w) && x.getLsbD k) := by
  rw [allLanes, BitVec.getLsbD_and, BitVec.getLsbD_ofNat, Nat.testBit_two_pow_sub_one, Bool.and_comm]
  simp [hk]

theorem setM_of_ne_zero (g : Group) {r : Nat} (hr : r ≠ 0) (x : Lanes) :
    g.setM r x = g.putMreg r ⟨x &&& allLanes g.width, false⟩ := if_neg hr

theorem exec_mAnd (f : A3) (s : State) : exec (.mAnd f) s = mBin f (fun a b => a &&& b) s := rfl
theorem exec_mOr (f : A3) (s : State) : exec (.mOr f) s = mBin f (fun a b => a ||| b) s := rfl
theorem exec_mAndn (f : A3) (s : State) : exec (.mAndn f) s = mBin f (fun a b => a &&& ~~~b) s := rfl
theorem exec_mXor (f : A3) (s : State) : exec (.mXor f) s = mBin f (fun a b => a ^^^ b) s := rfl

/-- R192: an operation on masks that acts bit by bit gives its bits below width and zeros above. -/
theorem does_mBin {f : A3} {s : State} {v : View} {i : Instr} {r : Nat} {op : Lanes → Lanes → Lanes} {bit : Bool → Bool → Bool}
    (hi : exec i s = mBin f op s) (hv : s.view = some v) (hs : v.Steady) (hh : v.Home) (ha : v.Uni f.a) (hb : v.Uni f.b)
    (hd : opd f.d = .m r) (hr : r ≠ 0)
    (hop : ∀ (a b : Lanes) (k : Nat), k < 64 → (op a b).getLsbD k = bit (a.getLsbD k) (b.getLsbD k)) :
    ∃ x : Lanes, (∀ k < 64, x.getLsbD k = (decide (k < v.g.width) && bit ((v.uni f.a).getLsbD k) ((v.uni f.b).getLsbD k))) ∧
      Does s v i 1 (v.g.putMreg r ⟨x, false⟩) := by
  refine ⟨op (v.uni f.a) (v.uni f.b) &&& allLanes v.g.width, fun k hk => ?_, ?_⟩
  · rw [getLsbD_and_allLanes _ _ hk, hop _ _ _ hk]
  · exact does_local hi hv (opens_gateMask hs hh (mDst_of_opd hd hr) ha hb)
      (by rw [regNo_of_opd_m hd, setM_of_ne_zero _ hr])

theorem mBin_illegal {f : A3} {s : State} {v : View} {i : Instr} {op : Lanes → Lanes → Lanes}
    (hi : exec i s = mBin f op s) (hv : s.view = some v) (hd : mDst f.d = false) :
    exec i s = .next (s.raiseAt v codeOPERAND 1 0 0) :=
  raises_local (k := gateMask f) hi hv (by simp [firstFail, gateMask, hd])

/-- Settles O4: the four operations are one form, `mBin`, on bits. -/
theorem maskOperations : Obligations.MaskOperations := by
  refine ⟨fun f _ => rfl, fun f _ => rfl, fun f _ => rfl, fun f _ => rfl,
    fun f s v hv hs hh => ⟨fun hd => ?_, fun ha hb r hd hr _ => ⟨?_, ?_, ?_, ?_⟩⟩⟩
  · simp only [List.forall_mem_cons, List.not_mem_nil, false_imp_iff, implies_true, and_true]
    exact ⟨mBin_illegal (exec_mAnd f s) hv hd, mBin_illegal (exec_mOr f s) hv hd, mBin_illegal (exec_mAndn f s) hv hd,
      mBin_illegal (exec_mXor f s) hv hd⟩
  · exact does_mBin (exec_mAnd f s) hv hs hh ha hb hd hr fun a b k _ => BitVec.getLsbD_and
  · exact does_mBin (exec_mOr f s) hv hs hh ha hb hd hr fun a b k _ => BitVec.getLsbD_or
  · exact does_mBin (bit := fun x y => x && !y) (exec_mAndn f s) hv hs hh ha hb hd hr fun a b k hk => by simp [hk]
  · exact does_mBin (exec_mXor f s) hv hs hh ha hb hd hr fun a b k _ => BitVec.getLsbD_xor

/-! ## `br.far` (R185, R351) -/

/-- Settles O7: bits 55 to 32 of H and IMM32 below them make an address below 2^56, so no target wraps. -/
theorem farBranch : Obligations.FarBranch := by
  refine ⟨fun f hw => ?_, fun f s v hv hs hh hc => ⟨fun h4 => ?_, fun h4 => ?_⟩⟩
  · have hz : (f.p == 0 && alFixed f && f.a == 0 && f.ea == 0 && f.d == 0) = true := zeroOk_of_wellFormed hw
    simp only [Bool.and_eq_true, beq_iff_eq] at hz
    obtain ⟨⟨⟨_, ha⟩, _⟩, hd⟩ := hz
    exact ⟨hd, ha, rfl⟩
  · have hi := f.imm.isLt
    refine ⟨v.c.clause / 2 ^ 32 * 2 ^ 32 + f.imm.toNat, by omega, by omega, by omega, ?_⟩
    exact goes_move rfl hv (opens_gateFar hs hh h4) rfl
  · exact runMove_stops (k := gateFar f) hv (stop_value rfl rfl rfl rfl (by simp [firstFail, gateFar, h4]))

/-! ## `nop` (R194) -/

/-- Settles O10: the checks of an instruction without operands always hold, and the group it leaves is its own. -/
theorem noOperation : Obligations.NoOperation := by
  refine ⟨fun f hw => ?_, fun f s v hv hs hh => does_local rfl hv (opens_gateNone hs hh) rfl⟩
  have hz : (f == ⟨0, 0, 0, 0, 0, 0⟩) = true := zeroOk_of_wellFormed hw
  exact ⟨eq_of_beq hz, rfl⟩

end Sys2Proof.Machine
end
